-- ==== Sys2Proof/Word.lean ====
section
/-! DEFINITION. The words of the block: a byte, and the 16, 32 and 64 bit words of its registers, entries and payloads. -/

namespace Sys2Proof

/-- One byte of memory, payload or packet. -/
abbrev Byte := BitVec 8

/-- A 16-bit word: an opcode, a BF16 value, a check word. -/
abbrev W16 := BitVec 16

/-- A 32-bit word: a ring sequence number, an FP32 value, a count that wraps. -/
abbrev W32 := BitVec 32

/-- A 64-bit word: a step number, a register value, a global address. -/
abbrev W64 := BitVec 64

/-- All ones in 64 bits: "none" for step numbers (R184, the SLC_EPOCH register). -/
def noStep : W64 := BitVec.allOnes 64

end Sys2Proof
end

