-- ==== Sys2Proof/Syntax.lean ====
section
/-! DEFINITION. The commands of the block: one constructor of `Instr` for each row of spec/opcode_table.json, with the
records that serve as operands. What the surroundings decide (the result of a test, a sensor, a packet that arrives) is
an operand of the command that reports it (log 10). -/

namespace Sys2Proof

/-- A sluice message (R237) with the fabric ID it came from; `map` holds (entry, exponent) pairs of MAP that are not
0xFF, in ascending order, and is empty where MAP is absent. -/
structure SluiceMsg where
  commit : Bool
  overflow : Bool
  kind : Bool
  byDeputy : Bool
  cause : Nat
  status : Nat
  tag : W32
  check : W64
  step : W64
  attempt : W32
  sender : Nat
  votes : Nat
  abortBy : W32
  lsS : Nat
  lsWarm : Bool
  lsClean : Nat
  time : W64
  map : List (Nat × Nat)
  src : Nat
  deriving DecidableEq, Repr

/-- The packet types of R262. -/
inductive PacketType where
  | read | write | accum | readResp | reply | msg | genQuery
  deriving DecidableEq, Repr

/-- A fabric packet (R262); `data` holds LEN payload slots of 36 bytes each. -/
structure Packet where
  type : PacketType
  tc : Nat
  hop : Nat
  genValid : Bool
  viaValid : Bool
  unit : Nat
  gen : Nat
  dest : Nat
  destCtx : Nat
  src : Nat
  tag : Nat
  useCount : Nat
  addr : Nat
  len : Nat
  status : Nat
  inc : Nat
  via : Nat
  spec : Nat
  data : List Byte
  deriving DecidableEq, Repr

/-- A READY message (R345). -/
structure ReadyMsg where
  channel : W32
  step : W64
  attempt : W32
  bytes : Nat
  micro : Nat
  phase : Nat
  senderFid : Nat
  senderCtx : Nat
  deriving DecidableEq, Repr

/-- The result of the built-in test of one array at each delay code (R58): bit k of `pass` says code k passed, `wrong`
that some code gave a wrong result that is not a timing failure. -/
structure CalResult where
  pass : BitVec 16
  wrong : Bool
  deriving DecidableEq, Repr

/-- Errors that arose in one stored granule: symbol number and the bits that changed; `hard` if they stay (R137, R138). -/
structure Upset where
  granule : Nat
  symbols : List (Nat × Byte)
  hard : Bool
  deriving DecidableEq, Repr

/-- What the far end of a link says during training (R258, R317): identity, mode, incarnation, its FIXED term in ps,
this end's own measured FIXED term, and the lanes that trained. -/
structure TrainInfo where
  nbrId : Nat
  nbrPort : Nat
  lateral : Bool
  nbrInc : Nat
  fixedNbr : Int
  fixedOwn : Int
  lanesTx : Nat
  lanesRx : Nat
  deriving DecidableEq, Repr

/-- Sensors of one control period (R366, R374, R377): supply in mV, junction in °C and current in 0.1 A of each
quadrant, the input current of every integrated regulator in mA, and VIN12 in mV. -/
structure Sensors where
  actualMv : Vector Nat 4
  tj : Vector Nat 4
  current : Vector Nat 4
  inputMa : List Nat
  vinMv : Nat
  deriving DecidableEq, Repr

/-- A host access through an HDM window (R426): a write carries up to 64 bytes with an enable for each. -/
structure HdmAccess where
  write : Bool
  dpa : Nat
  data : List Byte
  enable : List Bool
  deriving DecidableEq, Repr

/-- The answer of unit 17 of a CTX_ADOPT source (R419): none for a CLOSED context. -/
structure AdoptState where
  epoch : W64
  lsS : Nat
  lsWarm : Bool
  lsClean : Nat
  table : List (Nat × Nat)
  deriving DecidableEq, Repr

/-- What CTX_ADOPT meets at its source: no answer in time, a CLOSED context, or the committed state. -/
inductive AdoptAnswer where
  | silent
  | closed
  | state (s : AdoptState)
  deriving DecidableEq, Repr

/-- A host configuration request (R445): any register of configuration space, or the read of a DOE response (R430). -/
inductive ConfigReq where
  | other
  | doeRead
  deriving DecidableEq, Repr

/-- The two directions of an IDE stream (R432). -/
inductive Dir where
  | tx | rx
  deriving DecidableEq, Repr

/-- The two IDE streams (R431). -/
inductive Stream where
  | io | cm
  deriving DecidableEq, Repr

/-- One command of the block. -/
inductive Instr where
  -- ring commands (R168): the outstanding command SEQ of context c issues
  | nop (c : Fin 16) (seq : W32)
  | marker (c : Fin 16) (seq : W32)
  | arrayOp (c : Fin 16) (seq : W32)
  | flumeOp (c : Fin 16) (seq : W32)
  | vectorOp (c : Fin 16) (seq : W32)
  | move (c : Fin 16) (seq : W32)
  | stepBegin (c : Fin 16) (seq : W32)
  | stepEnd (c : Fin 16) (seq : W32)
  | reduce (c : Fin 16) (seq : W32)
  | update (c : Fin 16) (seq : W32)
  | shardExport (c : Fin 16) (seq : W32)
  | shardImport (c : Fin 16) (seq : W32)
  | siphonSave (c : Fin 16) (seq : W32)
  | siphonLoad (c : Fin 16) (seq : W32)
  | stageSend (c : Fin 16) (seq : W32)
  | outerRound (c : Fin 16) (seq : W32)
  | ringEntryRead (c : Fin 16)
  | ctxDoorbell (c : Fin 16) (v : W32)
  -- vendor mailbox commands (R188), with their payload
  | ctxCreate (p : List Byte)
  | ctxStart (p : List Byte)
  | ctxHold (p : List Byte)
  | ctxResume (p : List Byte)
  | ctxDrain (p : List Byte)
  | ctxReset (p : List Byte)
  | ctxRearm (p : List Byte)
  | ctxClose (p : List Byte)
  | arrayRetire (p : List Byte)
  | arrayRecal (p : List Byte)
  | pcRetire (p : List Byte)
  | shardRegister (p : List Byte)
  | shardRelease (p : List Byte)
  | shardQuery (p : List Byte)
  | outcomeQuery (p : List Byte)
  | ringSet (p : List Byte)
  | rollback (p : List Byte)
  | portRetrain (p : List Byte)
  | routeLoad (p : List Byte)
  | trnEnrol (p : List Byte)
  | trnWithdraw (p : List Byte)
  | allotSet (p : List Byte)
  | allotGet (p : List Byte)
  | fwStage (p : List Byte)
  | fwActivate (p : List Byte)
  | fwCommit (p : List Byte)
  | fwQuery (p : List Byte)
  | ucodeLoad (p : List Byte)
  | ctxAdopt (p : List Byte) (a : AdoptAnswer)
  | attestReport (p : List Byte)
  | recoveryLoad (p : List Byte)
  | recoveryBoot (p : List Byte)
  | deviceReset (p : List Byte)
  | cisInfo (p : List Byte)
  | cisFormat (p : List Byte)
  | cisCheckpoint (p : List Byte)
  | cisList (p : List Byte)
  | cisDiscard (p : List Byte)
  | cisFetch (p : List Byte)
  | cisJournalRead (p : List Byte)
  | unassignedVendorOpcode (op : W16) (p : List Byte)
  -- standard mailbox commands (R429)
  | identify (p : List Byte)
  | getEventRecords (p : List Byte)
  | clearEventRecords (p : List Byte)
  | getTimestamp (p : List Byte)
  | setTimestamp (p : List Byte)
  | getSupportedLogs (p : List Byte)
  | getLog (p : List Byte)
  | identifyMemoryDevice (p : List Byte)
  | unsupportedStandardOpcode (op : W16) (p : List Byte)
  -- register writes
  | mbxSvcFree (slot : Fin 8)
  | ldgCopyStart (v : W32)
  | clkTbSet (ns : W64)
  | portEnable (port : Option (Fin 96)) (on : Bool)
  | registerWrite (bar : Nat) (off width : Nat) (value : W64)
  -- engines
  | arrayPassComplete (a : Fin 64)
  | flumePassComplete (f : Fin 4)
  | vectorChunkComplete (e : Fin 16)
  | culvertPieceComplete (e : Fin 16)
  | unitDispatch (c : Fin 16) (seq : W32) (inst : Nat)
  | commandIssue
  | patrolScrub (tier : Fin 3) (upsets : List Upset)
  | updateEntryRun (k : Fin 16)
  | updateEntryComplete (k : Fin 16)
  | slowTierStall (c : Fin 16)
  | exportComplete (c : Fin 16) (seq : W32)
  -- the sluice
  | readyMark (c : Fin 16)
  | token (c : Fin 16) (m : SluiceMsg)
  | abortVote (c : Fin 16) (m : SluiceMsg)
  | decide (c : Fin 16) (m : SluiceMsg)
  | decided (c : Fin 16) (m : SluiceMsg)
  | outcome (c : Fin 16) (m : SluiceMsg)
  | query (c : Fin 16) (m : SluiceMsg)
  | undecided (c : Fin 16) (m : SluiceMsg)
  | voteTimeout (c : Fin 16)
  | queryRepeat (c : Fin 16)
  | decideRepeat (c : Fin 16)
  | deputySelfAbort (c : Fin 16)
  | drainComplete (c : Fin 16)
  | contextWorkRemoved (c : Fin 16)
  | watchdogExpiry (c : Fin 16)
  -- hangs and service
  | engineHang (cls inst : Nat)
  | isolatedReplay (cls inst : Nat) (hung : Bool) (testOk : Bool) (cal : CalResult)
  | coreHeartbeatMiss (core : Fin 4)
  | arrayRetirement (a : Fin 64)
  | arrayRecalibration (a : Fin 64) (r : CalResult)
  | periodicRecalibration (r : CalResult)
  | pcRetirement (stack : Fin 12) (pc : Fin 32)
  | firmwareCoreSwitch (core : Fin 4) (selfTestOk : Bool)
  | microcodeReload (cls inst : Nat)
  -- reduction
  | jobOpen (c : Fin 16) (seq : W32)
  | accum (p : Packet)
  | ringPieceForward (c : Fin 16) (job chunk piece : Nat)
  | reduceComplete (c : Fin 16) (seq : W32)
  | contributionDeadline (c : Fin 16) (seq : W32)
  | busyBackoffReissue (entry : Nat)
  -- fabric
  | read (p : Packet)
  | write (p : Packet)
  | readResp (p : Packet)
  | reply (p : Packet)
  | genQuery (p : Packet)
  | requestTimerExpiry (entry : Nat)
  | inServiceBackoffReissue (entry : Nat)
  | flitReceive (port : Fin 96) (codewordOk : Bool) (flit : List Byte)
  | linkStateMessage (slot : Fin 32) (states : List (Nat × Nat))
  | linkStateBroadcast
  | signalDetected (port : Fin 96)
  | trainingExchange (port : Fin 96) (t : TrainInfo)
  | trainingTimeout (port : Fin 96)
  | portDrainComplete (port : Fin 96)
  | lanesLost (port : Fin 96)
  | bulkFlitReceive (port : Fin 96) (codewordOk : Bool) (flit : List Byte)
  | privilegedFlitReceive (port : Fin 96) (codewordOk : Bool) (flit : List Byte)
  | lateralControlFlit (port : Fin 96) (cum : Nat) (held : List Nat)
  | lateralAckTick (port : Fin 96)
  | privilegedResendTimer (port : Fin 96)
  | timeExchangeStart (port : Fin 96)
  | timeExchangeRequest (port : Fin 96) (t1 : Nat)
  | timeExchangeAnswer (port : Fin 96) (t2 t3 : Nat) (stratum tbState : Nat)
  | remeasurementComplete (port : Fin 96)
  | routeRewrite (basin : Nat)
  | routeRestore (basin : Nat)
  -- turnout and stages
  | transmitDelta (handle : W16)
  | deltaWriteReissue (entry : Nat)
  | done (p : Packet)
  | release (p : Packet)
  | applyFreeze (handle : W16)
  | ready (c : Fin 16) (m : ReadyMsg)
  -- cistern
  | journalEntryWrite
  | checkpointShardWritten (c : Fin 16)
  | checkpointManifestWrite (c : Fin 16)
  | retentionScrub (bad retry : List Nat)
  -- headgate
  | controlPeriod (r : Sensors)
  | quadrantPark (q : Fin 4)
  | deferLimit
  | meterReading (mw : Nat)
  | meterLost
  | vin12Droop (mv : Nat)
  | droopEnd
  -- resets and start-up
  | powerOnReset
  | porRelease
  | perst
  | cxlHotReset
  | flr
  | thermalTrip
  | refclkLost
  | refclkStable
  | pllLocked (k : Fin 43)
  | bootImageVerify
  | hbmTrainingComplete (trained : BitVec 12)
  | lpddrTrainingComplete
  | startupCalibration (r : Vector CalResult 64)
  | memoryActive
  -- host link
  | hdmAccess (a : HdmAccess)
  | hdmDecoderCommit (dec : Fin 2) (base size skip ways : Nat)
  | birsp (line : Nat)
  | h2dSnoop (addr : Nat)
  | doeRequest (type : Nat) (object : List Byte)
  | ideKmKeyProg (stream : Stream) (dir : Dir) (set : Bool)
  | keySwitchMarker (stream : Stream) (dir : Dir)
  | ideIntegrityFailure (stream : Stream)
  | cxlLinkDown
  -- the watermaster
  | markerReceipt
  | readEnergy
  | signRecord (p : List Byte)
  | readMarkers (p : List Byte)
  | readLog (p : List Byte)
  | readCerts (p : List Byte)
  | fwWrite (p : List Byte)
  | wmFwCommit (p : List Byte)
  | calWrite (p : List Byte)
  | meterStart
  | meterPeriodicStore
  | meterPowerFail (torn : Bool)
  | meterPowerReturn
  | sealStrapFall
  | meterCopyRefresh (strap : Bool)
  -- rows added at the table's end
  | laneLossOfLock (port : Fin 96)
  | perstDeassert
  | cxlLinkTrainingComplete (flit256 : Bool)
  | firmwareRunning
  | diceKeysDerived
  | markerAckTimeout (c : Fin 16) (seq : W32)
  | configurationRequest (r : ConfigReq)
  | committedStateRead (src : Nat) (ctx : Fin 16)
  deriving DecidableEq, Repr

end Sys2Proof
end

