-- ==== Sys2Proof/Machine/Bits.lean ====
section
/-! DEFINITION. Bit fields, little-endian codes (R5) and small list tools. -/

namespace Sys2Proof.Machine

open Sys2Proof

/-- The value of bits [lo + len - 1 : lo] of `v`. -/
def bitsOf (v lo len : Nat) : Nat := (v >>> lo) % 2 ^ len

/-- Bit `i` of `v`. -/
def bitOf (v i : Nat) : Bool := (v >>> i) % 2 == 1

/-- `v` with bits [lo + len - 1 : lo] replaced by `x`. -/
def setBits (v lo len x : Nat) : Nat :=
  v - (bitsOf v lo len) <<< lo + (x % 2 ^ len) <<< lo

/-- A Bool as a bit. -/
def bit (b : Bool) : Nat := if b then 1 else 0

/-- A word from fields (lowest bit, value), which must not overlap. -/
def packFields : List (Nat × Nat) → Nat
  | [] => 0
  | (lo, v) :: r => v <<< lo ||| packFields r

/-- Little-endian value of bytes (R5). -/
def leNat : List Byte → Nat
  | [] => 0
  | b :: r => b.toNat + 256 * leNat r

/-- `n` little-endian bytes of `v` (R5). -/
def toLe : Nat → Nat → List Byte
  | 0, _ => []
  | n + 1, v => BitVec.ofNat 8 v :: toLe n (v / 256)

/-- `n` big-endian bytes of `v`, the byte order of the named hash standard. -/
def toBe (n v : Nat) : List Byte := (toLe n v).reverse

/-- Big-endian value of bytes. -/
def beNat (bs : List Byte) : Nat := leNat bs.reverse

/-- The little-endian field of `len` bytes at `off` of a byte list; bytes beyond its end read 0. -/
def fieldAt (bs : List Byte) (off len : Nat) : Nat := leNat ((bs.drop off).take len)

/-- True when every byte of [off, off + len) is 0: a reserved field of R9 holds 0. -/
def zeroAt (bs : List Byte) (off len : Nat) : Bool := fieldAt bs off len == 0

/-- Signed value of the low `w` bits of `v`. -/
def signed (w v : Nat) : Int :=
  let u := v % 2 ^ w
  if u < 2 ^ (w - 1) then (u : Int) else (u : Int) - (2 ^ w : Nat)

/-- Two's complement code of `i` in `w` bits. -/
def unsigned (w : Nat) (i : Int) : Nat := (i % ((2 ^ w : Nat) : Int)).toNat

/-- `a` rounded up to a multiple of `m`. -/
def alignUp (a m : Nat) : Nat := (a + m - 1) / m * m

/-- Whether `a` is a multiple of `m`. -/
def aligned (a m : Nat) : Bool := a % m == 0

/-- The ceiling of `a / b`. -/
def ceilDiv (a b : Nat) : Nat := (a + b - 1) / b

/-- Whether [a, a + n) and [b, b + k) share a byte. -/
def overlaps (a n b k : Nat) : Bool := decide (a < b + k) && decide (b < a + n) && n != 0 && k != 0

/-- `n` limited to `m`: a field that saturates. -/
def satTo (m n : Nat) : Nat := if n ≤ m then n else m

/-- The first `n` bytes of `bs`, zeros added at the end when it is shorter. -/
def padTo (n : Nat) (bs : List Byte) : List Byte :=
  bs.take n ++ List.replicate (n - bs.length) 0

/-- Bytes cut into pieces of `k`; `fuel` bounds their number. -/
def piecesOf (k : Nat) : Nat → List Byte → List (List Byte)
  | 0, _ => []
  | fuel + 1, bs => if bs.isEmpty then [] else bs.take k :: piecesOf k fuel (bs.drop k)

/-- Inserts `x` in an ascending list without repeats. -/
def insertAsc (x : Nat) : List Nat → List Nat
  | [] => [x]
  | y :: r => if x < y then x :: y :: r else if x = y then y :: r else y :: insertAsc x r

/-- The length of the longest prefix 0, 1, 2, ... that an ascending list holds (progress marks: R45, R122, R154). -/
def prefixLen : Nat → List Nat → Nat
  | n, [] => n
  | n, y :: r => if y = n then prefixLen (n + 1) r else n

/-- The entry of a finite map kept as a list of pairs. -/
def lookupD {α : Type} (k : Nat) (dflt : α) : List (Nat × α) → α
  | [] => dflt
  | (j, v) :: r => if j = k then v else lookupD k dflt r

/-- The map with `k` set to `v`, kept in ascending key order. -/
def insertKey {α : Type} (k : Nat) (v : α) : List (Nat × α) → List (Nat × α)
  | [] => [(k, v)]
  | (j, w) :: r =>
    if k < j then (k, v) :: (j, w) :: r
    else if k = j then (k, v) :: r
    else (j, w) :: insertKey k v r

/-- The map without the key `k`. -/
def eraseKey {α : Type} (k : Nat) (l : List (Nat × α)) : List (Nat × α) :=
  l.filter fun p => p.1 != k

/-- Replaces the elements that `p` selects. -/
def mapWhere {α : Type} (p : α → Bool) (f : α → α) (l : List α) : List α :=
  l.map fun x => if p x then f x else x

/-- Element `i` replaced by `f` of it. -/
def modifyAt {α : Type} (i : Nat) (f : α → α) (l : List α) : List α := l.modify i f

/-- Insertion sort by a key, stable: used where a rule asks for an order. -/
def insertBy {α : Type} (key : α → Nat) (x : α) : List α → List α
  | [] => [x]
  | y :: r => if key x ≤ key y then x :: y :: r else y :: insertBy key x r

/-- Stable ascending sort by `key`. -/
def sortBy {α : Type} (key : α → Nat) (l : List α) : List α :=
  l.foldr (insertBy key) []

/-- The first element with the least key, or none of an empty list. -/
def leastBy {α : Type} (key : α → Nat) : List α → Option α
  | [] => none
  | x :: r =>
    match leastBy key r with
    | none => some x
    | some y => if key y < key x then some y else some x

/-- The modular distance from `a` up to `b` in 32 bits (R164, R167). -/
def dist32 (a b : W32) : Nat := (b - a).toNat

end Sys2Proof.Machine
end

