-- ==== Sys2Proof/Config.lean ====
section
/-! DEFINITION. What the manual leaves open: free values, as constants without a body. Nothing in Lean can say what
one of them is, so a statement about the block holds whatever they are. -/

namespace Sys2Proof.Config

open Sys2Proof

/-- The five functions of R112 whose algorithm the manual does not give. -/
inductive Elementary where
  | exp | log | sigmoid | tanh | erf
  deriving DecidableEq, Repr

/-- R112: EXP, LOG, SIGMOID, TANH and ERF are within 1 ulp by one fixed algorithm that is not given. The true result
lies between two neighbouring FP32 values; this says whether the one further from zero is taken (log 5). -/
opaque elementaryUp : Elementary → W32 → Bool

/-- A byte that the manual leaves unspecified (R45, R61, R122, R154), for the `n`-th free value (log 2). -/
opaque freeByte : Nat → Byte

/-- A free 64-bit value: a draw or a measurement that the manual leaves open, for the `n`-th free value (log 2). -/
opaque freeWord : Nat → W64

/-- A free choice between two outcomes, for the `n`-th free value (log 2). -/
opaque freeBool : Nat → Bool

/-- R277: the incarnation drawn at the `n`-th device reset (log 2). -/
opaque incarnation : Nat → W16

/-- R392: the fallback oscillator's advance at its `n`-th tick, in 2^-32 ns away from 1 ns; the block takes at most 0.5 % of it
(log 6). -/
opaque fallbackError : Nat → Int

/-- R143, R144: whether the bank of an HBM3E location (stack, pseudo-channel, address within it) has a repair resource
left after `n` repairs of the stack; the manual does not say how many a bank has (log 7). -/
opaque repairLeft : Nat → Nat → Nat → Nat → Bool

/-- R272: the intermediate basin that adaptive routing draws among `k` candidates, for the `n`-th free value (log 2). -/
opaque adaptiveChoice : Nat → Nat → Nat

/-- R367: the VIN12 power in mW that the headgate projects for a common target in mV, at its `n`-th free value; the manual does
not give the projection (log 17). -/
opaque projectedMw : Nat → Nat → Nat

/-- R266: the buffers that this device has for a class and hop of a short link (the key is 8 × TC + hop); the manual gives no
number (log 11). -/
opaque shortBuffers : Nat → Nat

/-- Verification of an ECDSA P-384 signature: public key, 48-byte digest, signature (R434, R435; a named standard, log 8). -/
opaque ecdsaVerifies : List Byte → List Byte → List Byte → Bool

/-- Verification of an HSS signature: public key, message, signature (R434, R435; a named standard, log 8). -/
opaque hssVerifies : List Byte → List Byte → List Byte → Bool

/-- The 96-byte ECDSA P-384 signature of a digest by a key (R438, R472; a named standard, log 8). -/
opaque ecdsaSign : List Byte → List Byte → List Byte

/-- The 5,236-byte HSS signature of a digest by a key with a leaf (R439, R472; a named standard, log 8). -/
opaque hssSign : List Byte → Nat → List Byte → List Byte

/-- The device's fused identity: unique device secret, root digests, serial numbers (R435, R438, R472; log 8). -/
opaque fusedSecret : List Byte
/-- The fused Trothal ECDSA root digest (R435; log 8). -/
opaque ecdsaRootDigest : List Byte
/-- The fused Trothal LMS root digest (R435; log 8). -/
opaque lmsRootDigest : List Byte
/-- The meter's own fused ECDSA root digest (R470; log 8). -/
opaque meterEcdsaRootDigest : List Byte
/-- The meter's own fused LMS root digest (R470; log 8). -/
opaque meterLmsRootDigest : List Byte
/-- The public key of the DeviceID ECDSA key (R438; log 8). -/
opaque deviceIdPublic : List Byte
/-- The public key of the DeviceID HSS key (R438; log 8). -/
opaque deviceHssPublic : List Byte
/-- HKDF-SHA-384 of a secret with a label, as key material (R438; a named standard, log 8). -/
opaque deriveKey : List Byte → Nat → List Byte
/-- HMAC-SHA-384 of a key and a message (R438; a named standard, log 8). -/
opaque hmacSha384 : List Byte → List Byte → List Byte
/-- The ECDSA public key of key material (R438; log 8). -/
opaque publicKey : List Byte → List Byte
/-- SHA-384 of the boot ROM, whose bytes the manual does not give (R441; log 8). -/
opaque bootRomDigest : List Byte
/-- The 48-byte digest of a measurement whose encoding the manual does not give: indices 4 and 5 of R441, from the bytes of what
is measured (log 21). -/
opaque measurement : Nat → List Byte → List Byte
/-- The meter's fused secret, serial number and certificate chain (R472, R473, R478; log 8). -/
opaque meterSecret : List Byte
/-- The meter's 16-byte serial number (R473; log 8). -/
opaque meterSerial : List Byte
/-- The meter's certificate chain (R478; log 8). -/
opaque meterCertificates : List Byte
/-- The response bytes of a standard CXL mailbox command beyond what the manual states (R429; log 9). -/
opaque standardResponse : Nat → List Byte → List Byte
/-- The answer to a DOE data object, whose format the named standards give (R430, R441; log 9). -/
opaque doeAnswer : Nat → List Byte → List Byte

end Sys2Proof.Config
end

