-- ==== Sys2Proof/Machine/State.lean ====
section
/-! DEFINITION. Everything the manual gives the block, as plain data: one record for each chapter's state, `Dev` that
gathers them, and `State`, which adds the model's queue of waiting commands. The default of a field is its value right
after power-on reset; where the manual states none the value is DESIGN CHOICE, log 1 (UNSAFE: a proof can lean on it).
Addresses, counts and times are Nat; the local count and every timer are in ns (R392). -/

namespace Sys2Proof.Machine

open Sys2Proof

/-! ### Outputs -/

/-- What the block sends out, in order: packets, messages, interrupts, answers and pins. -/
inductive Output where
  /-- MSI-X vector (R428). -/
  | msix (vector : Nat)
  /-- A flit of 320 bytes leaves on a port (R259, R312). -/
  | flit (port : Nat) (bytes : List Byte)
  /-- A lateral control flit with CUM, the held sequence numbers (R314) and its credit returns (R312). -/
  | control (port cum : Nat) (held : List Nat) (credits : List (Nat × Nat))
  /-- A time-exchange request with its t1, or an answer with t2, t3, stratum and state (R317, R394). -/
  | timeRequest (port t1 : Nat)
  | timeAnswer (port t2 t3 stratum state : Nat)
  /-- Training starts on a port with this device's identity, mode and incarnation (R258). -/
  | train (port fid : Nat) (lateral : Bool) (inc : Nat)
  /-- A link-state message to a slot of the basin: port states and generations (R271). -/
  | linkState (slot : Nat) (states : List (Nat × Nat))
  /-- The answer of unit 17 to CTX_ADOPT: CLOSED, or the committed state (R419). -/
  | adoptAnswer (toFid toCtx : Nat) (a : AdoptAnswer)
  /-- A request for a context's committed state to unit 17 of a device (R419). -/
  | adoptRequest (toFid ctx : Nat)
  /-- A packet to the device itself: it does not enter the fabric, and the row of its type serves it (R25; log 11). -/
  | loopback (p : Packet)
  /-- A host data response, or a host write completed (R426). -/
  | hostData (bytes : List Byte) (poison : Bool)
  | hostDone
  /-- An HDM access before Memory Active, answered under the standard (R445). -/
  | hostInactive
  /-- A decoder commit of the host, good or in error (R425). -/
  | decoder (dec : Nat) (ok : Bool)
  /-- BISnpInv for a line of 64 bytes (R427). -/
  | bisnp (line : Nat)
  /-- A snoop answered with no data (R423). -/
  | snoopMiss (addr : Nat)
  /-- A configuration request answered with retry status, or served (R445). -/
  | configRetry
  | configDone
  /-- A DOE response object (R430). -/
  | doe (bytes : List Byte)
  /-- The status of an IDE_KM KEY_PROG (R432). -/
  | ideKm (status : Nat)
  /-- Advanced Error Reporting of an IDE failure (R433). -/
  | aer (stream : Nat)
  /-- An I3C answer: status and response; or NACK (R478). -/
  | i3c (status : Nat) (bytes : List Byte)
  | i3cNack
  /-- A job marker on the way to the meter (R476). -/
  | marker (id : Nat) (isEnd : Bool) (ctx : Nat) (tb : Nat)
  /-- THERMTRIP# asserted (R490). -/
  | thermtrip
  deriving DecidableEq, Repr

/-! ### Memory (R22, R127 to R147) -/

/-- The three tiers' contents and the state of their granules. A granule number is the local address div 32. -/
structure Mem where
  /-- Sorted (address, byte) pairs; an unlisted byte reads 0, the value device reset writes (R443). -/
  cells : List Host.Cell := []
  /-- Granules holding the poison pattern (R139), ascending. -/
  poison : List Nat := []
  /-- Symbols of a stored codeword that differ from a codeword of its data (R136, R137), by granule. -/
  errs : List (Nat × List (Nat × Byte)) := []
  /-- Permanent damage of a location: the symbols it spoils, by granule (R138). -/
  hard : List (Nat × List (Nat × Byte)) := []
  deriving DecidableEq, Repr

/-- RSV_ registers and repair state (R130, R139 to R146). -/
structure Rsv where
  arbArray : Nat := 4
  arbVector : Nat := 4
  arbCulvert : Nat := 4
  arbCross : Nat := 4
  rsvHours : Nat := 1
  hbmHours : Nat := 24
  lpHours : Nat := 24
  /-- When each tier was last scrubbed, on the local count. -/
  scrubbedAt : Vector Nat 3 := Vector.replicate 3 0
  ueAddr : Nat := 0
  ueSource : Nat := 0
  ueNew : Bool := false
  /-- Reservoir rows redirected to spares, as (bank, row): fuses (R142). -/
  spared : List (Nat × Nat) := []
  /-- HBM3E rows repaired softly, as (stack, pseudo-channel, row), pending hard repair (R143). -/
  softRepairs : List (Nat × Nat × Nat) := []
  /-- Repairs made in each stack: what Config.repairLeft is asked with (log 7). -/
  repairs : Vector Nat 12 := Vector.replicate 12 0
  /-- Rows of a pseudo-channel with uncorrectable errors since device reset (R144), as (stack, pc, row). -/
  ueRows : List (Nat × Nat × Nat) := []
  /-- Fuses: retired pseudo-channels and removed windows of each stack (R145, R146). -/
  retiredPc : Vector (BitVec 32) 12 := Vector.replicate 12 0
  windows : Vector Nat 12 := Vector.replicate 12 0
  /-- Stacks that failed training in this start (R446). -/
  failedStacks : BitVec 12 := 0
  /-- Retirements the ditch rider has decided itself (R144), as (stack, pc), oldest first. -/
  autoRetire : List (Nat × Nat) := []
  /-- A retirement in progress and when it began to wait for steps (R145). -/
  retiring : Option (Nat × Nat × Nat) := none
  deriving DecidableEq, Repr

/-! ### Engines and units (R37, R121, R154, R402 to R407) -/

/-- A unit of a command that an engine instance holds: a pass, chunk, piece or update entry. -/
structure UnitRef where
  ctx : Fin 16
  seq : W32
  idx : Nat
  /-- It has begun writing its destination (R406). -/
  began : Bool := false
  /-- Its writes not yet made are suppressed (R44, R121, R156). -/
  suppressed : Bool := false
  /-- Order of dispatch (R405), and the ns in which it has run and moved no granule, without what R402 leaves out. -/
  order : Nat := 0
  still : Nat := 0
  /-- Its engine's generation tag when it was dispatched (R37). -/
  gen : Nat := 0
  /-- Remote granules that have arrived for it, as (address, bytes) (R153). -/
  rx : List (Nat × List Byte) := []
  /-- What its piece writes on another device, from the one reading of its source (R155). -/
  built : Option (List (Nat × List Byte)) := none
  deriving DecidableEq, Repr

/-- An isolated replay (R405): suspects still to be taken, the one under replay, what it left, hangs in a row, the innocent
verdicts earned so far, the suspects that have had their verdict, and those whose removal has begun. -/
structure Replay where
  suspects : List (Fin 16) := []
  current : Option (Fin 16) := none
  held : List UnitRef := []
  hungInRow : Nat := 0
  anyHang : Bool := false
  innocent : List (Fin 16) := []
  told : List (Fin 16) := []
  gone : List (Fin 16) := []
  deriving DecidableEq, Repr

/-- One engine instance: the unit that runs is the head of `units`, the rest are accepted into its input. -/
structure Engine where
  units : List UnitRef := []
  gen : Nat := 0
  service : Bool := false
  replay : Option Replay := none
  /-- Failed its built-in test: out of service until device reset (R407). -/
  dead : Bool := false
  /-- Version of the microcode it runs (R414). -/
  ucode : Nat := 0
  /-- When the reset without drain of a memory controller ends (R403). -/
  resetEnds : Option Nat := none
  deriving DecidableEq, Repr

/-- MXA_ registers and array state (R36, R37, R57 to R59). -/
structure Mxa where
  arrays : Vector Engine 64 := Vector.replicate 64 {}
  /-- Fuses: disabled at test, retired; and the marked part number (0 EVP-64, 1 EVP-56, 2 EVP-48). -/
  testDisabled : BitVec 64 := 0
  retired : BitVec 64 := 0
  marked : Nat := 0
  code : Vector Nat 64 := Vector.replicate 64 15
  intervalH : Nat := 24
  /-- The array whose turn the periodic order has reached, and when the last interval ended. -/
  turn : Nat := 0
  turnAt : Nat := 0
  lastArray : Nat := 0
  lastResult : Nat := 0
  lastCode : Nat := 0
  kept : Bool := false
  lastTime : Nat := 0
  sat : BitVec 16 := 0
  /-- The array that a periodic re-calibration drains (R59); arrays that a faulty judgement has taken out of service and that are
  still to be re-calibrated (R407). -/
  draining : Option Nat := none
  judging : List Nat := []
  deriving DecidableEq, Repr

/-- FLM_ registers and the four flumes (R60 to R64). -/
structure Flm where
  flumes : Vector Engine 4 := Vector.replicate 4 {}
  bwLimit : Vector Nat 4 := Vector.replicate 4 16
  deriving DecidableEq, Repr

/-- The vector engines and VXE_SAT_STATUS (R104, R110). -/
structure Vxe where
  engines : Vector Engine 16 := Vector.replicate 16 {}
  sat : BitVec 16 := 0
  deriving DecidableEq, Repr

/-- The update engines with their memory controllers: units, generation tags and service bits (R200, RSV_SERVICE,
RSV_CTL_GEN). -/
structure Ctl where
  engines : Vector Engine 16 := Vector.replicate 16 {}
  deriving DecidableEq, Repr

/-! ### Contexts (R159 to R187) -/

/-- The context states of R160. -/
inductive CtxState where
  | closed | opened | running | holding | draining | faulted
  deriving DecidableEq, Repr

/-- A ring entry as read (R166). -/
structure Entry where
  seq : W32
  wait : W32
  opcode : Nat
  notify : Bool
  indirect : Bool
  noSpec : Bool
  phase : Nat
  layer : Nat
  micro : Nat
  energy : Nat
  argLen : Nat
  args : List Byte
  deriving DecidableEq, Repr

/-- A speculative refusal or failure kept until the step before it is decided (R177): refused or not, and the status. -/
structure Withheld where
  refused : Bool
  status : Nat
  deriving DecidableEq, Repr

/-- An outstanding command in its progress slot (R167, R183). -/
structure Cmd where
  entry : Entry
  slot : Nat
  index : W32
  /-- The step it belongs to (R175) and its group (R341). -/
  step : Option W64 := none
  group : Option Nat := none
  issued : Bool := false
  spec : Bool := false
  /-- When it became ready, and whether the headgate has deferred it (R371). -/
  readyAt : Option Nat := none
  deferred : Bool := false
  issuedAt : Nat := 0
  /-- Argument block and lists as read at issue (R172). -/
  args : List Byte := []
  lists : List Nat := []
  total : Nat := 0
  /-- Completed units in ascending order; UNITS_DONE is their prefix (R183). -/
  did : List Nat := []
  /-- Units given back for dispatch, then the next one never released. -/
  requeued : List Nat := []
  next : Nat := 0
  /-- Partial sums of array tiles by tile, plane and part; and passes made of each tile (R41). -/
  acc : List (Nat × List W32) := []
  passes : List (Nat × Nat) := []
  /-- A failure found: no more units are released and it ends with this status when running ones complete. -/
  failing : Option Nat := none
  /-- Ended with a failure but still shown in its slot (R173), or waiting for its outcome. -/
  ended : Option Nat := none
  withheld : Option Withheld := none
  /-- A receive that waits since then (R347); the granule an uncorrectable read met (R140). -/
  waitSince : Nat := 0
  ueAddr : Nat := 0
  /-- Remote granules that an import reads before it can issue, as (address, bytes) (R219). -/
  fetched : List (Nat × List Byte) := []
  deriving DecidableEq, Repr

/-- A step as its entries are read (R175): number, kind, where it begins and ends, its groups so far (R341). -/
structure StepSpan where
  step : W64
  outer : Bool
  beginIndex : W32
  beginSeq : W32
  endIndex : Option W32 := none
  endSeq : W32 := 0
  /-- Groups numbered so far, and the PHASE and MICROBATCH of the latest. -/
  groups : Nat := 0
  groupKey : Option (Nat × Nat) := none
  /-- STEP_BEGIN has issued; speculatively or not, at this time-base value (R356). -/
  begun : Bool := false
  tBegin : Nat := 0
  beganAt : Nat := 0
  /-- The status of an entry of the step that was refused when it was read, before STEP_BEGIN issued (R166, R174). -/
  refused : Option Nat := none
  deriving DecidableEq, Repr

/-- The record of one context (R160, R183). -/
structure Ctx where
  state : CtxState := .closed
  holdPending : Bool := false
  cause : Nat := 0
  flags : Nat := 0
  watchdogMs : Nat := 2000
  ringBase : Nat := 0
  ringLog2 : Nat := 0
  head : W32 := 0
  readIdx : W32 := 0
  tail : W32 := 0
  lastSeq : W32 := 0
  commitSeq : W32 := 0
  /-- The SEQ the next entry must carry (R166). -/
  nextSeq : W32 := 0
  eqBase : Nat := 0
  eqLog2 : Nat := 0
  eqTail : W32 := 0
  eqHead : W32 := 0
  overflow : Bool := false
  lost : Nat := 0
  irq : Bool := false
  cmds : List Cmd := []
  /-- Completed commands beyond LAST_SEQ and released entries beyond HEAD. -/
  doneSeqs : List W32 := []
  freed : List W32 := []
  /-- Steps whose entries have been read and whose outcome is not applied, oldest first; the last is open for reading
  until its STEP_END has been read. -/
  steps : List StepSpan := []
  /-- A command was refused at issue: no later entry is read (R174, R177). -/
  stopRead : Bool := false
  /-- Commands whose entries are read again on CTX_RESUME (R173), by ring index. -/
  again : List W32 := []
  /-- An entry of the next step that was refused when it was read while this step's outcome was awaited: ring index, SEQ, SEQ of
  the next reading, opcode and status (R177). -/
  heldRefusal : Option (W32 × W32 × W32 × Nat × Nat) := none
  /-- The SEQ of the STEP_END of a step that committed while the context was FAULTED; CTX_REARM puts it into CTX_COMMIT_SEQ
  (R182, R183). -/
  commitHeld : Option W32 := none
  /-- The watchdog's count in ns (R399). -/
  watchdogNs : Nat := 0
  /-- Work is being removed (R401); it ends a CTX_RESET in the mailbox. -/
  removing : Bool := false
  /-- The last attempt of the present step ended with UNCORRECTABLE, and the granule the present one met (R140). -/
  ueBefore : Bool := false
  ueNow : Option Nat := none
  deriving DecidableEq, Repr

/-! ### Mailbox (R188 to R191, R429) -/

/-- A service slot (R191): phase 0 free, 1 queued, 2 running, 3 done. -/
structure SvcSlot where
  opcode : Nat := 0
  target : Nat := 0
  phase : Nat := 0
  status : Nat := 0
  deriving DecidableEq, Repr

/-- MBX_ registers. -/
structure Mbx where
  doorbell : Bool := false
  irqEn : Bool := false
  opcode : Nat := 0
  len : Nat := 0
  payload : List Byte := List.replicate 4096 0
  returnCode : Nat := 0
  vendorStatus : Nat := 0
  slots : Vector SvcSlot 8 := Vector.replicate 8 {}
  /-- The context whose removal a running CTX_RESET waits for (R189). -/
  resetting : Option (Fin 16) := none
  /-- The command that runs waits for memory: lines that the host holds, or a controller in service (R275, R427). -/
  waiting : Bool := false
  /-- The mailbox timestamp of R429 and the local count when it was set. -/
  timestamp : Nat := 0
  timestampAt : Nat := 0
  deriving DecidableEq, Repr

/-! ### Shards (R192 to R222) -/

/-- The shard states of R198. -/
inductive ShardState where
  | unseeded | seeded | staged
  deriving DecidableEq, Repr

/-- A registered shard. -/
structure Shard where
  ctx : Fin 16
  form : Nat
  layout : Nat
  axes : Nat
  layer : Nat
  tensor : Nat
  ranges : List (Nat × Nat)
  extent : List Nat
  slot0 : Nat
  slot1 : Nat
  home : Nat
  state : ShardState := .unseeded
  live : Nat := 0
  step : W64 := noStep
  /-- Staged, or being staged, by SHARD_IMPORT; has committed contents. -/
  byImport : Bool := false
  committed : Bool := false
  /-- Coverage record of the imports of the step (R222): imported boxes; COLV has been set to 0 for it (R221). -/
  boxes : List (List (Nat × Nat)) := []
  colvCleared : Bool := false
  /-- The same of the imports outside any step, until seeding completes (R222). -/
  outBoxes : List (List (Nat × Nat)) := []
  outColv : Bool := false
  /-- Lost with a removed window (R196). -/
  lost : Bool := false
  /-- Flags of its UPDATE entry in the present attempt (R209): (GRAD_ZERO, NO_CHANGE); imported in the step. -/
  report : Option (Bool × Bool) := none
  imported : Bool := false
  deriving DecidableEq, Repr

/-- UPD_ registers (R206, R209). -/
structure Upd where
  shards : List (Nat × Shard) := []
  limitMs : Nat := 10
  stallMask : Nat := 0
  stallCtx : Nat := 0
  stallNew : Bool := false
  stallWaitMs : Nat := 0
  nonfinite : BitVec 16 := 0
  deriving DecidableEq, Repr

/-! ### The sluice (R224 to R250) -/

/-- The step states of R245. -/
inductive StepState where
  | idle | active | voted | inDoubt | repeatWait
  deriving DecidableEq, Repr

/-- The loss-scale state (R94). -/
structure LossScale where
  s : Nat := 15
  warm : Bool := true
  clean : Nat := 0
  deriving DecidableEq, Repr

/-- An outcome as a warden decides it or a deputy records it (R240, R241). -/
structure Record where
  step : W64
  attempt : W32
  commit : Bool
  overflow : Bool
  kind : Bool
  byDeputy : Bool
  cause : Nat
  status : Nat
  abortBy : W32
  ls : LossScale
  table : List (Nat × Nat)
  deriving DecidableEq, Repr

/-- What the device measures of the present attempt for its ledger record (R356): first issue and last completion of
each phase, and the counts. -/
structure Meters where
  phaseFirst : Vector (Option Nat) 4 := Vector.replicate 4 none
  phaseLast : Vector Nat 4 := Vector.replicate 4 0
  redFirst : Option Nat := none
  redLast : Nat := 0
  recvNs : Nat := 0
  readyNs : Option Nat := none
  satCount : Nat := 0
  satSrc : Nat := 0
  stalled : Bool := false
  uncorrectable : Bool := false
  stallMask : Nat := 0
  slowNs : Nat := 0
  probeJobs : Nat := 0
  round : Nat := 0
  deriving DecidableEq, Repr

/-- The sluice's record of one context. The agreed-scale table lists the entries that are not 0xFF, ascending (R225). -/
structure Slc where
  stepState : StepState := .idle
  outer : Bool := false
  frozen : Bool := false
  deciding : Bool := false
  attempt : W32 := 0
  step : W64 := 0
  epoch : W64 := noStep
  isSet : Bool := false
  count : Nat := 0
  index : Nat := 0
  tag : W32 := 0
  check : W64 := 0
  members : List Nat := []
  voteMs : Nat := 100
  queryMs : Nat := 25
  /-- The timeouts in force since the last STEP_BEGIN. -/
  voteNow : Nat := 100
  queryNow : Nat := 25
  ls : LossScale := {}
  scale : List (Nat × Nat) := []
  abortCause : Nat := 0
  abortStatus : Nat := 0
  abortOverflow : Bool := false
  abortNew : Bool := false
  abortBy : W32 := BitVec.allOnes 32
  abortStep : W64 := noStep
  /-- Ready mark and next query on the local count; whether the next query goes to the deputy; next DECIDE. -/
  readyAt : Option Nat := none
  queryAt : Option Nat := none
  queryDeputy : Bool := false
  queried : Bool := false
  decideAt : Nat := 0
  /-- Own abort vote: cause and status. An overflow was found in this attempt (R97). -/
  ownAbort : Option (Nat × Nat) := none
  overflow : Bool := false
  token : Option SluiceMsg := none
  /-- Records kept as warden or deputy, newest first (R242); the outcome the warden awaits DECIDED for. -/
  records : List Record := []
  proposal : Option Record := none
  stepEnded : Bool := false
  /-- The span of a step whose ring entries CTX_REARM has dropped while its outcome is awaited (R182, R356). -/
  span : Option StepSpan := none
  /-- When every ready condition but the slow tier's was met (R206). -/
  slowSince : Option Nat := none
  stallReported : Bool := false
  /-- Requirements gathered from completed jobs (R295, R296). -/
  require : List (Nat × Nat) := []
  meters : Meters := {}
  /-- The same for the next step's speculative work (R176). -/
  specMeters : Meters := {}
  /-- Speculative work found an overflow, which is judged at the commit point (R177). -/
  specOverflow : Bool := false
  /-- The committed step record of SLC_EPOCH (R227): a checkpoint of that step copies it (R456). -/
  lastRecord : Option (List Byte) := none
  deriving DecidableEq, Repr

/-! ### Fabric (R256 to R284) -/

/-- The port states of R279. -/
inductive PortState where
  | disabled | down | training | up | degraded | draining
  deriving DecidableEq, Repr

/-- A flit kept until it is acknowledged: sequence number, slots and their map, times sent, when last sent, and when it was last
resent because a map showed it missing (R260, R314). -/
structure SentFlit where
  seq : Nat
  slots : List Byte
  map : List Byte := []
  sends : Nat := 1
  sentAt : Nat := 0
  resentAt : Option Nat := none
  deriving DecidableEq, Repr

/-- One port and its link (R256 to R261, R279). -/
structure Port where
  state : PortState := .disabled
  lateral : Bool := false
  lanesTx : Nat := 0
  lanesRx : Nat := 0
  gen : Nat := 0
  nbrId : Nat := 0
  nbrPort : Nat := 0
  nbrInc : Nat := 0
  /-- It has reached a device since device reset: the one that NBR_ID names (R283). -/
  met : Bool := false
  enable : Bool := true
  changed : Bool := false
  /-- Next flit number to send, to accept; a NAK is out. Laterals use these for the privileged stream. -/
  txNext : Nat := 0
  rxNext : Nat := 0
  nakOut : Bool := false
  unacked : List SentFlit := []
  /-- Credits returned by the neighbour for each class and hop: (8 tc + hop, buffers) (R266). -/
  credits : List (Nat × Nat) := []
  /-- Buffers of this device that the neighbour holds credit for or has filled, by class and hop (R266, R316). -/
  lent : List (Nat × Nat) := []
  /-- Packets waiting to leave, and where the arbiter stands (R265): sixteenths of a flit that TC4, TC6 and TC7 are ahead of
  their share, the next of these three, the class whose turn it is in the weighted round and the flits each class has left. -/
  queue : List Packet := []
  arb : Nat := 0
  privTurn : Nat := 0
  bulkTurn : Nat := 0
  bulkLeft : Vector Int 4 := Vector.replicate 4 0
  /-- Slots of the packet being received (bulk or short, and privileged). -/
  partSlots : List Byte := []
  partPriv : List Byte := []
  /-- Bulk stream of a lateral: next numbers; the rest of a packet is dropped (R313). -/
  bulkTx : Nat := 0
  bulkRx : Nat := 0
  dropRest : Bool := false
  /-- Privileged flits held behind a gap (R314). -/
  heldFlits : List (Nat × List Byte) := []
  /-- Times of uncorrectable codewords in the last 1 ms (R280); the next flit may lie in the codeword of the last bad one. -/
  badCodewords : List Nat := []
  badHalf : Bool := false
  /-- When draining or training began; what follows the drain; when signal is tried again. -/
  since : Nat := 0
  thenTrain : Bool := false
  retrainPending : Bool := false
  retryAt : Nat := 0
  deriving DecidableEq, Repr

/-- Whose request an outstanding entry is (R273): what its answer is for. -/
inductive Owner where
  /-- A culvert unit's read or write (class 4 instance). -/
  | culvert (inst : Nat) (ctx : Fin 16) (seq : W32) (idx : Nat)
  /-- A WRITE of a STAGE_SEND, with its CHANNEL (R345, R349). -/
  | stage (ctx : Fin 16) (seq : W32) (idx : Nat) (channel : Nat)
  /-- A read that an import makes before it issues (R219). -/
  | fetch (ctx : Fin 16) (seq : W32)
  /-- A working-copy write of an update entry. -/
  | workCopy (k : Nat) (ctx : Fin 16) (seq : W32) (idx : Nat)
  /-- A piece of a reduction job. -/
  | piece (ctx : Fin 16) (job chunk piece : Nat)
  /-- A delta write of the turnout: handle, partner, round. -/
  | delta (handle partner round : Nat)
  /-- The generation query for another entry. -/
  | query (entry : Nat)
  deriving DecidableEq, Repr

/-- A live outstanding entry (R273 to R278). -/
structure Outst where
  useCount : Nat
  packet : Packet
  owner : Owner
  issuedAt : Nat
  /-- Back-off in ns and when the reissue falls, if one waits. -/
  backoff : Nat := 10000
  waitUntil : Option Nat := none
  /-- What it waits for: 1 UNIT_IN_SERVICE, 2 BUSY, 3 a delta's WRITE that failed. -/
  waitFor : Nat := 0
  /-- GEN and INC learnt since issue, the reference of a timer expiry (R278). -/
  reference : Option (Nat × Nat) := none
  discard : Bool := false
  deriving DecidableEq, Repr

/-- A route entry (R269); exits are (slot, global port). -/
structure Route where
  kind : Nat := 0
  exits : List (Nat × Nat) := []
  raw : Nat := 0
  via : Nat := 0
  site : Nat := 0
  deriving DecidableEq, Repr

/-- FAB_ registers and the fabric's tables. -/
structure Fab where
  id : Nat := 0
  enable : Bool := false
  canon : Bool := false
  adaptive : Bool := false
  irq : Bool := false
  basins : Nat := 1
  inc : W16 := Config.incarnation 0
  reqUs : Nat := 2000
  weights : Vector Nat 4 := #v[1, 4, 2, 4]
  privShare : Nat := 4
  /-- Generation tags and service marks of units 16 to 19. -/
  gen : Vector Nat 4 := Vector.replicate 4 0
  service : Vector Bool 4 := Vector.replicate 4 false
  spareFor : Nat := 0x7F
  ports : Vector Port 96 := Vector.replicate 96 {}
  /-- Outstanding entries by number, and use counts of entries used before. -/
  entries : List (Nat × Outst) := []
  uses : List (Nat × Nat) := []
  /-- GEN and INC of recently addressed units, newest first: (fabric ID × 32 + unit, GEN, INC) (R278). -/
  cache : List (Nat × Nat × Nat) := []
  /-- FAB_ROUTEn as written, by basin; unlisted entries read 0. Originals saved by R324. -/
  routes : List (Nat × Nat) := []
  saved : List (Nat × Nat) := []
  /-- Basin map: (slot × 96 + port) to (state, generation) of peers (R271). -/
  map : List (Nat × Nat × Nat) := []
  linkSentAt : Nat := 0
  /-- Since when a route, by basin, has had no exit up, and since when an exit, as slot × 64 + global port, has been up without a
  break (R324). -/
  downSince : List (Nat × Nat) := []
  upSince : List (Nat × Nat) := []
  /-- Packets that wait unrouted (R323). -/
  waiting : List Packet := []
  /-- Packets for other devices that this one holds to send on: the port each came by, its class and hop there and the buffers
  it fills (R266, R316). -/
  transit : List (Packet × Nat × Nat × Nat) := []
  /-- Requests taken in whose memory access waits for BIRsp or for stalled memory (R389, R427), oldest first. -/
  stalled : List Packet := []
  deriving DecidableEq, Repr

/-! ### Reduction (R285 to R307) -/

/-- A piece this device must send: destination member, chunk, piece; sent; delivered; ended (R303). -/
structure SendPiece where
  toMember : Nat
  chunk : Nat
  piece : Nat
  started : Bool := false
  delivered : Bool := false
  ended : Bool := false
  deriving DecidableEq, Repr

/-- A reduction job's record (R299). -/
structure Job where
  ctx : Fin 16
  job : Nat
  seq : W32
  step : W64
  attempt : W32
  ring : Bool
  probe : Bool
  exp : Nat
  count : Nat
  index : Nat
  n : Nat
  src : Nat
  region : Nat
  members : List Nat
  check : W64
  deadlineAt : Nat
  slot : Option Nat := none
  /-- Closed by an abort of its attempt. -/
  closed : Bool := false
  /-- Its record and region are lost to a controller reset (R307): it answers no piece; its weir counts stay for the ledger. -/
  lost : Bool := false
  pieces : List SendPiece := []
  /-- Arrival bits set, by their number in the region's arrival map (R290, R300; log 15). -/
  arrived : List Nat := []
  /-- SRC has been read and quantised. -/
  scanned : Bool := false
  weirBlocks : Nat := 0
  weirMax : Nat := 0
  weirEvent : Bool := false
  require : Nat := 0xFF
  /-- The REDUCE has completed or ended. -/
  finished : Bool := false
  deriving DecidableEq, Repr

/-- RED_ registers and the job records. -/
structure Red where
  defaultUs : Nat := 20000
  jobs : List Job := []
  slots : Vector (Option (Fin 16 × Nat)) 64 := Vector.replicate 64 none
  sat : BitVec 16 := 0
  weir : Vector Nat 16 := Vector.replicate 16 0
  weirJob : Vector Nat 16 := Vector.replicate 16 0
  failJob : Nat := 0
  failCtx : Nat := 0
  failPeer : Nat := 0
  failPiece : Nat := 0
  failKind : Nat := 0
  failNew : Bool := false
  deriving DecidableEq, Repr

/-! ### Laterals and the turnout (R310 to R339) -/

/-- One time exchange: round trip δ and (t2 - t1) - (t4 - t3), in 2^-16 ns. -/
structure Exchange where
  delta : Int
  diff : Int
  deriving DecidableEq, Repr

/-- A lateral (and the time transfer of a short link) of one port. -/
structure Lat where
  epoch : Nat := 0
  remeasuring : Bool := false
  routedAround : Bool := false
  retryGrant : Nat := 0
  ingressGrant : Nat := 0
  rtt : Nat := 0
  theta : Int := 0
  fibrePs : Int := 0
  measPs : Int := 0
  asymLock : Bool := false
  fixedPs : Int := 0
  fixedNbrPs : Int := 0
  /-- The last 16 exchanges and the δ values of the epoch's last 16 accepted ones (R319, R320), newest first. -/
  recent : List Exchange := []
  accepted : List Int := []
  /-- Exchanges off the reference in a row (R320); exchanges of a re-measurement (R321). -/
  off : List Exchange := []
  gathered : List Exchange := []
  thetaHeld : Int := 0
  /-- t1 of the exchanges not answered yet, oldest first. -/
  pending : List Nat := []
  startedAt : Nat := 0
  /-- Exchanges still to be compared after a retrain or a return from DOWN, and the reference held before it (R320, R394). -/
  toCompare : Nat := 0
  refHeld : Option Int := none
  /-- The RTT of the former epoch, on which resend timers run until the first acknowledgement of the new one (R322). -/
  timerRtt : Option Nat := none
  /-- Neighbour's stratum and state. -/
  nbrStratum : Nat := 15
  nbrState : Nat := 0
  /-- When the last control flit left, and the number after the CUM that it carried (R314). -/
  ackAt : Nat := 0
  ackCum : Nat := 0
  deriving DecidableEq, Repr

/-- LAT_ registers. -/
structure Lats where
  stepNs : Nat := 500
  holdMs : Nat := 200
  remeasure : Nat := 256
  retryScaled : Bool := false
  ingressScaled : Bool := false
  lats : Vector Lat 96 := Vector.replicate 96 {}
  fallback : Vector Nat 8 := Vector.replicate 8 0
  deriving DecidableEq, Repr

/-- A turnout partner (R326), its messages (R332, R333) and the transmission under way to it (R331). -/
structure Partner where
  fid : Nat
  ctx : Nat
  handle : Nat
  recv : Nat
  /-- Highest round released by the partner, as round + 1. -/
  released : Nat := 0
  /-- Rounds still to transmit, in order; the granule addresses of the first one's writes that have been answered OK (R331). -/
  sending : List Nat := []
  acked : List Nat := []
  /-- Rounds whose deltas are held for an APPLY to come, and rounds whose DONE has been taken (R333). -/
  deltas : List Nat := []
  seen : List Nat := []
  deriving DecidableEq, Repr

/-- An enrolled shard (R326 to R335). -/
structure Enrol where
  handle : Nat
  ctx : Fin 16
  firstRound : Nat
  area : Nat
  partners : List Partner
  lastSend : Option Nat := none
  sendDone : Bool := false
  /-- Whether the whole SEND that sent this round has completed; otherwise it may be issued again (R329). -/
  sendWhole : Bool := false
  lastApply : Option Nat := none
  /-- Last round whose APPLY has frozen, and the contribution set: (round, site, partner, weight) (R334). -/
  lastFrozen : Option Nat := none
  frozenSet : Option (Nat × List (Nat × Nat × Nat × W32)) := none
  /-- When the first SEND of the present round issued, and the sites that count in it. -/
  sendAt : Nat := 0
  deadlineMs : Nat := 0
  sites : List Nat := []
  applyStaged : Bool := false
  deriving DecidableEq, Repr

/-- Message sequence with one device: messages sent to it, next expected from it, messages held behind a gap. -/
structure TrnPeer where
  sent : Nat := 0
  expected : Nat := 0
  held : List (Nat × List Byte × Bool) := []
  deriving DecidableEq, Repr

/-- TRN_ registers of one context. -/
structure Trn where
  deadlineMs : Nat := 1000
  stale : Nat := 1
  lateScale : W32 := 0x3F000000
  sent : W32 := BitVec.allOnes 32
  applied : W32 := BitVec.allOnes 32
  missing : Nat := 0
  late : Nat := 0
  dropped : Nat := 0
  isNew : Bool := false
  round : Nat := 0
  enabled : Vector Bool 8 := Vector.replicate 8 false
  firstRound : Vector W32 8 := Vector.replicate 8 0
  deriving DecidableEq, Repr

/-- The turnout engine. -/
structure Turnout where
  trns : Vector Trn 16 := Vector.replicate 16 {}
  enrols : List Enrol := []
  peers : List (Nat × TrnPeer) := []
  deriving DecidableEq, Repr

/-! ### Siphon, stages and ledger (R341 to R361) -/

/-- SIP_LAST_REFUSAL and the READY tables (R346, R354). -/
structure Sip where
  ctx : Nat := 0
  field : Nat := 0
  isNew : Bool := false
  seq : W32 := 0
  ready : Vector (List ReadyMsg) 16 := Vector.replicate 16 []
  deriving DecidableEq, Repr

/-- The ledger (R355 to R361). Records are kept by slot; dry counts by context × 4096 + layer. -/
structure Ldg where
  next : Nat := 0
  records : List (Nat × List Byte) := []
  dst : Nat := 0
  first : Nat := 0
  count : Nat := 0
  copied : Nat := 0
  result : Nat := 0
  /-- A copy that waits for memory: destination, first record and count (R358). -/
  running : Option (Nat × Nat × Nat) := none
  threshold : Vector Nat 16 := Vector.replicate 16 256
  selLayer : Nat := 0
  selCtx : Nat := 0
  dry : List (Nat × Nat) := []
  deriving DecidableEq, Repr

/-! ### Headgate (R362 to R379) -/

/-- One quadrant. -/
structure Quad where
  target : Nat := 550
  actual : Nat := 0
  tj : Nat := 0
  parked : Bool := false
  thermal : Bool := false
  held : Bool := false
  /-- Whether the limit that an admission hold was placed for is the allotment, or else the ceiling (R373). -/
  heldAllot : Bool := false
  current : Nat := 0
  /-- When it last had a unit released: it has been idle since (R367, R368). -/
  releasedAt : Nat := 0
  deriving DecidableEq, Repr

/-- HG_ registers. Energy readings are (time, mW), newest first. -/
structure Hg where
  watts : Nat := 1600
  intervalMs : Nat := 1000
  pending : Option (Nat × Nat) := none
  vmaxCap : Nat := 900
  maxDeferUs : Nat := 500
  parkEn : Bool := true
  tjLimit : Nat := 95
  droopMv : Nat := 11000
  droopCount : Nat := 0
  inDroop : Bool := false
  droopLow : Nat := 0
  droopSince : Nat := 0
  quads : Vector Quad 4 := Vector.replicate 4 {}
  readings : List (Nat × Nat) := []
  meterLost : Bool := false
  readingAt : Nat := 0
  /-- When the last control period began, and when the meter last read: each comes every 100 µs (R366, R377). -/
  periodAt : Option Nat := none
  meterAt : Option Nat := none
  tight : Bool := false
  ceiling : Bool := false
  deferrals : Nat := 0
  forced : Nat := 0
  /-- When each event type 0x40 to 0x43 was last placed (R379). -/
  eventAt : Vector (Option Nat) 4 := Vector.replicate 4 none
  deriving DecidableEq, Repr

/-! ### Clocks and start-up (R383 to R398, R443 to R447, R484, R490) -/

/-- CLK_ registers and the two counts. -/
structure Clk where
  /-- Time base in 2^-32 ns, of which 2^-16 is visible (R391); local count in ns (R392). -/
  tb : Nat := 0
  localNs : Nat := 0
  /-- Fraction of the local count in 2^-32 ns, which the fallback oscillator leaves (R392). -/
  localFrac : Nat := 0
  refLost : Bool := false
  refLostSeen : Bool := false
  refStable : Bool := false
  pllLock : BitVec 43 := 0
  /-- When the present count of REFCLK edges began: at power-on or at the last flagged loss (R385). -/
  refAt : Nat := 0
  /-- When each PLL was started (R386); when REFCLK was lost (R389). -/
  pllAt : Vector Nat 43 := Vector.replicate 43 0
  lostAt : Nat := 0
  state : Nat := 0
  degraded : Bool := false
  stratum : Nat := 15
  followed : Nat := 0x7F
  lossCount : Nat := 0
  stepCount : Nat := 0
  frac : Nat := 0
  master : Bool := false
  stepEn : Bool := true
  stepNs : Nat := 1000
  src : Vector Nat 4 := Vector.replicate 4 0x7F
  /-- Rate in 2^-32 ns per ns; frequency term in the same unit with 32 more fraction bits (R395). -/
  rate : Int := 0
  freq : Int := 0
  /-- Ticks made by the fallback oscillator: which error comes next (log 6). -/
  fallback : Nat := 0
  /-- Events held while memory is stalled (R389): context, 32 bytes. -/
  heldEvents : List (Fin 16 × List Byte) := []
  /-- Ledger records whose write is stalled in the same way. -/
  heldRecords : List (List Byte) := []
  deriving DecidableEq, Repr

/-- Start-up and reset (R443 to R447): which events of R444 have been reached, and the pins. -/
structure Boot where
  /-- VIN12 is through the POR threshold: start-up has passed A, and so B. -/
  por : Bool := false
  imageOk : Bool := false
  recovery : Bool := false
  firmware : Bool := false
  keys : Bool := false
  hbm : Bool := false
  arrays : Bool := false
  lpddr : Bool := false
  active : Bool := false
  noStack : Bool := false
  perst : Bool := true
  thermLatch : Bool := false
  stage : Nat := 0
  slot : Nat := 0
  fallback : Bool := false
  aResult : Nat := 0xFF
  bResult : Nat := 0xFF
  rsvStack : Nat := 0
  resetCause : Nat := 0
  resetCount : Nat := 0
  /-- Device resets so far: which incarnation is drawn (R277). -/
  resets : Nat := 0
  deriving DecidableEq, Repr

/-- Firmware images and security (R412 to R415, R434 to R442). Image slots are in the cistern's BOOT partition. -/
structure Sec where
  slotA : List Byte := []
  slotB : List Byte := []
  bootDefault : Nat := 0
  staged : Bool := false
  stagedCold : Bool := false
  /-- VERSION, SVN, handoff format and measurement M of the running image, and its slot. -/
  runVersion : Nat := 0
  runSvn : Nat := 0
  runHandoff : Nat := 0
  runDigest : List Byte := []
  runSlot : Nat := 0
  /-- An activation in progress: cores switched so far in the order 3, 0, 1, 2; then reloads. -/
  activating : Option Nat := none
  /-- The activation is being undone (R414); instances already reloaded: class and number. -/
  reverting : Bool := false
  reloaded : List (Nat × Nat) := []
  recovery : List Byte := []
  svnFuses : Nat := 0
  epochFuses : Nat := 0
  nextLeaf : Nat := 0
  reservedEnd : Nat := 0
  /-- Newest valid reservation record in the cistern for this device. -/
  leafRecord : Option Nat := none
  recordLost : Bool := false
  lmsState : Nat := 0
  /-- The cached Alias certificate (R438): the measurement of the image it was issued under, and its two signatures. -/
  aliasOf : List Byte := []
  aliasCert : List Byte := []
  deriving DecidableEq, Repr

/-- One HDM decoder (R425). -/
structure HdmDecoder where
  committed : Bool := false
  base : Nat := 0
  size : Nat := 0
  skip : Nat := 0
  deriving DecidableEq, Repr

/-- One direction of an IDE stream: set in use, key sets programmed, old set still held (R432). -/
structure IdeDir where
  useSet : Bool := false
  k0 : Bool := false
  k1 : Bool := false
  oldHeld : Bool := false
  deriving DecidableEq, Repr

/-- The host link (R421 to R433). -/
structure Link where
  training : Bool := false
  up : Bool := false
  cxl : Bool := false
  decoders : Vector HdmDecoder 2 := Vector.replicate 2 {}
  hbmWindow : Bool := true
  /-- Lines of 64 bytes the host may hold, oldest first, and those with BISnp outstanding (R427). -/
  lines : List Nat := []
  snooped : List Nat := []
  ioTx : IdeDir := {}
  ioRx : IdeDir := {}
  cmTx : IdeDir := {}
  cmRx : IdeDir := {}
  ioSecure : Bool := false
  cmSecure : Bool := false
  cmSkid : Bool := false
  ideFails : Nat := 0
  failNew : Bool := false
  doePending : Option (List Byte) := none
  /-- Host accesses that wait for stalled memory or for a place in the snoop filter, oldest first (R426, R427). -/
  waiting : List HdmAccess := []
  deriving DecidableEq, Repr

/-! ### Cistern (R449 to R462) -/

/-- A shard within a checkpoint: handle, descriptor, payload as stored (R456). -/
structure CkptShard where
  handle : Nat
  descriptor : List Byte
  payload : List Byte
  deriving DecidableEq, Repr

/-- A checkpoint: complete when its manifest is written (R456). -/
structure Ckpt where
  owner : Nat
  step : W64
  record : List Byte
  table : List Byte
  shards : List CkptShard
  bad : Bool := false
  deriving DecidableEq, Repr

/-- A checkpoint in progress (R455): its phase, the shards left with the slot each was captured in, and what is
captured. -/
structure CkptRun where
  phase : Nat
  buf : Nat
  bufLen : Nat
  left : List (Nat × Nat)
  ckpt : Ckpt
  bufOff : Nat := 0
  /-- Shards copied into BUF and still to be written to flash: handle and bytes, in order. -/
  copied : List (Nat × Nat) := []
  deriving DecidableEq, Repr

/-- CIS_ registers and the flash. -/
structure Cis where
  state : Nat := 0
  targets : Nat := 0
  sparePct : Nat := 0
  /-- What start-up finds: state of the cistern, targets of a channel, spare blocks in 0.1 % of all. -/
  flash : Nat := 2
  fitted : Nat := 1
  spare : Nat := 20
  totalMib : Nat := 16777216
  /-- Entries waiting in firmware memory: ring and bytes (R454). -/
  queue : List (Nat × List Byte) := []
  dropped : Nat := 0
  days : Nat := 7
  scrubAt : Nat := 0
  ueChannel : Nat := 0
  ueTarget : Nat := 0
  ueLun : Nat := 0
  uePage : Nat := 0
  ueNew : Bool := false
  keep : Vector Nat 16 := Vector.replicate 16 2
  runs : Vector (Option CkptRun) 16 := Vector.replicate 16 none
  doneGib : Vector Nat 16 := Vector.replicate 16 0
  /-- Journal rings: next JSEQ of each, and entries by ring × 65,536 + slot (R453). -/
  jseq : Vector Nat 16 := Vector.replicate 16 0
  journal : List (Nat × List Byte) := []
  ckpts : List Ckpt := []
  deriving DecidableEq, Repr

/-! ### Watermaster (R463 to R478) -/

/-- A marker as kept by the meter (R477). -/
structure MeterMark where
  id : Nat
  kind : Nat
  energyMj : Nat
  tbNs : Nat
  meterUs : Nat
  deriving DecidableEq, Repr

/-- The meter (R463 to R478). -/
structure Meter where
  energyMwh : Nat := 0
  /-- In units of 100 nJ: 1 mW for 100 µs. 1 mWh is 36,000,000 of them. -/
  residue : Nat := 0
  powered : Bool := true
  answering : Bool := true
  mec : Nat := 0
  log : List (List Byte) := []
  fwVersion : Nat := 1
  calVersion : Nat := 0
  calibration : List Byte := List.replicate 128 0
  /-- The slot that runs, its image and the other slot's. -/
  slot : Nat := 0
  runImage : List Byte := []
  otherImage : List Byte := []
  runSvn : Nat := 0
  svnFuses : Nat := 0
  staging : List Byte := []
  strap : Bool := false
  /-- A verified image in the inactive slot whose boot marker is not written yet (R470). -/
  committing : Option (List Byte) := none
  nextLeaf : Nat := 0
  leafEnd : Nat := 0
  rseq : Nat := 0
  signedAt : Option Nat := none
  opNs : Nat := 0
  powerCycles : Nat := 0
  gapFlag : Bool := false
  rangeFlag : Bool := false
  tbNs : Option Nat := none
  gaps : Nat := 0
  storedEnergy : Nat := 0
  storedResidue : Nat := 0
  storedAt : Nat := 0
  markers : List MeterMark := []
  markerCount : Nat := 0
  /-- Markers on their way from the ditch rider: context, SEQ, id, end, time base, since (R476). -/
  flying : List (Fin 16 × W32 × Nat × Bool × Nat × Nat) := []
  /-- The WM_ copy (R467): energy, mean power, status word, when it came. -/
  copyMwh : Nat := 0
  copyMeanW : Nat := 0
  copyStatus : Nat := 0
  copyAt : Option Nat := none
  copySum : Nat := 0
  copyCount : Nat := 0
  sent : Nat := 0
  dropped : Nat := 0
  deriving DecidableEq, Repr

/-! ### The device and the state -/

/-- Everything the manual gives the block. `free` is the model's own: the number of free values drawn so far (log 2). -/
structure Dev where
  mem : Mem := {}
  rsv : Rsv := {}
  mxa : Mxa := {}
  flm : Flm := {}
  vxe : Vxe := {}
  clv : Vxe := {}
  ctl : Ctl := {}
  ctxs : Vector Ctx 16 := Vector.replicate 16 {}
  mbx : Mbx := {}
  upd : Upd := {}
  slcs : Vector Slc 16 := Vector.replicate 16 {}
  fab : Fab := {}
  red : Red := {}
  lat : Lats := {}
  trn : Turnout := {}
  sip : Sip := {}
  ldg : Ldg := {}
  hg : Hg := {}
  clk : Clk := {}
  boot : Boot := {}
  sec : Sec := {}
  link : Link := {}
  cis : Cis := {}
  meter : Meter := {}
  out : List Output := []
  /-- Units dispatched so far: the order of dispatch (R405). -/
  dispatched : Nat := 0
  free : Nat := 0
  deriving DecidableEq, Repr

/-- The state of the model: the block and the commands that wait, first in, first out. -/
structure State where
  dev : Dev := {}
  pending : List Instr := []
  deriving DecidableEq, Repr

/-- Faults. The block has no exception entry and the manual stops it at no command: nobody raises this one. -/
inductive Fault where
  /-- No command raises this; it is here because the outcome type has faults. Safe: nothing ends in it. -/
  | none
  deriving DecidableEq, Repr

/-- Refusals. -/
inductive Refusal where
  /-- A command whose meaning is not written yet, by its mnemonic. Safe: the model stops where the block goes on. -/
  | notModelled (mnemonic : String)
  deriving DecidableEq, Repr

/-- The block right after power-on reset, with no command waiting (R443, R444; log 1). -/
def State.reset : State := {}

end Sys2Proof.Machine
end

