-- ==== Sys2Proof/Machine/Memory.lean ====
section
/-! DEFINITION. The tiers' bytes in one canonical form, the Furrow code and the address map (R22, R127, R132 to R147). -/

namespace Sys2Proof.Machine

open Sys2Proof

/-! ### Bytes -/

/-- Addresses rise strictly from `lo` on and no listed byte is 0. -/
def wfFrom : Nat → List Host.Cell → Bool
  | _, [] => true
  | lo, (a, b) :: r => decide (lo ≤ a) && b != 0 && wfFrom (a + 1) r

/-- The canonical form of a memory: addresses strictly rising and no entry equal to what an unlisted address reads as. -/
def memWf (cells : List Host.Cell) : Bool := wfFrom 0 cells

/-- What an address reads as: an unlisted one reads 0, as device reset leaves it (R443). -/
def byteAt (cells : List Host.Cell) (a : Nat) : Byte :=
  match cells with
  | [] => 0
  | (k, b) :: r => if k = a then b else byteAt r a

/-- The cells of a run of bytes from address `a`, zeros left out. -/
def cellsOf (a : Nat) : List Byte → List Host.Cell
  | [] => []
  | b :: r => if b = 0 then cellsOf (a + 1) r else (a, b) :: cellsOf (a + 1) r

/-- The cells with the bytes `bs` written from address `a`. -/
def writeCells (cells : List Host.Cell) (a : Nat) (bs : List Byte) : List Host.Cell :=
  cells.filter (fun c => c.1 < a) ++ cellsOf a bs ++ cells.filter (fun c => a + bs.length ≤ c.1)

/-- The `n` bytes from address `a`. -/
def readCells (cells : List Host.Cell) (a n : Nat) : List Byte :=
  let win := cells.filter fun c => a ≤ c.1 && c.1 < a + n
  (List.range n).map fun i => byteAt win (a + i)

/-! ### The Furrow code (R136, R137) -/

/-- Multiplication by α in GF(2^8) of 0x11D. -/
def gfDouble (a : Nat) : Nat := if a < 128 then 2 * a else (2 * a) ^^^ 0x11D

/-- Product in GF(2^8), one bit of `b` for each unit of fuel. -/
def gfMulBits : Nat → Nat → Nat → Nat
  | 0, _, _ => 0
  | n + 1, a, b => (if b % 2 = 1 then a else 0) ^^^ gfMulBits n (gfDouble a) (b / 2)

/-- Product in GF(2^8). -/
def gfMul (a b : Nat) : Nat := gfMulBits 8 a b

/-- α to the n-th power. -/
def gfPow : Nat → Nat
  | 0 => 1
  | n + 1 => gfDouble (gfPow n)

/-- Coefficients of g(x) below x^4, from x^3 down: the product of (x + 1), (x + α), (x + α^2), (x + α^3). -/
def furrowGen : List Nat :=
  let mul := fun (p : List Nat) (r : Nat) =>
    List.zipWith (fun x y => x ^^^ gfMul r y) (p ++ [0]) (0 :: p)
  ([1, 2, 4, 8].foldl mul [1]).drop 1

/-- One step of the division by g(x): the remainder's four coefficients, highest first, take in a data byte. -/
def furrowStep (rem : List Nat) (b : Byte) : List Nat :=
  match rem with
  | [] => []
  | h :: t =>
    let q := h ^^^ b.toNat
    List.zipWith (fun x y => x ^^^ gfMul q y) (t ++ [0]) furrowGen

/-- The four check bytes of 32 data bytes (R136). -/
def furrowCheck (data : List Byte) : List Byte :=
  (data.foldl furrowStep [0, 0, 0, 0]).map (BitVec.ofNat 8)

/-- Syndrome k of an error pattern: the sum of e_j α^(k (35 - j)). -/
def syndrome (k : Nat) (p : List (Nat × Byte)) : Nat :=
  p.foldl (fun s e => s ^^^ gfMul e.2.toNat (gfPow (k * (35 - e.1)))) 0

/-- What the decoder concludes (R137). -/
inductive Decoded where
  | clean
  | single (symbol : Nat) (value : Byte)
  | uncorrectable
  deriving DecidableEq, Repr

/-- The decoder's conclusion from the four syndromes. -/
def furrowDecode (p : List (Nat × Byte)) : Decoded :=
  let s0 := syndrome 0 p
  let s1 := syndrome 1 p
  let s2 := syndrome 2 p
  let s3 := syndrome 3 p
  if s0 = 0 && s1 = 0 && s2 = 0 && s3 = 0 then .clean
  else
    let fits := fun j =>
      s0 != 0 && s1 == gfMul s0 (gfPow (35 - j)) && s2 == gfMul s0 (gfPow (2 * (35 - j)))
        && s3 == gfMul s0 (gfPow (3 * (35 - j)))
    match (List.range 36).find? fits with
    | some j => .single j (BitVec.ofNat 8 s0)
    | none => .uncorrectable

/-- Two error patterns one on top of the other, in canonical form. -/
def xorPattern (p q : List (Nat × Byte)) : List (Nat × Byte) :=
  (q.foldl (fun (acc : List (Nat × Byte)) e => insertKey e.1 (lookupD e.1 0 acc ^^^ e.2) acc) p).filter fun e => e.2 != 0

/-- Bytes with the data symbols of a pattern changed. -/
def spoil (data : List Byte) (p : List (Nat × Byte)) : List Byte :=
  p.foldl (fun d e => d.modify e.1 (· ^^^ e.2)) data

/-! ### Granules -/

/-- The errors a read of granule `g` meets. -/
def Mem.pattern (m : Mem) (g : Nat) : List (Nat × Byte) := xorPattern (lookupD g [] m.errs) (lookupD g [] m.hard)

/-- Whether granule `g` holds the poison pattern. -/
def Mem.poisoned (m : Mem) (g : Nat) : Bool := m.poison.contains g

/-- Granules that [a, a + n) touches. -/
def granulesOf (a n : Nat) : List Nat :=
  if n = 0 then [] else (List.range ((a + n - 1) / 32 + 1 - a / 32)).map (a / 32 + ·)

/-- The 32 data bytes of a granule as the code word holds them. -/
def Mem.granule (m : Mem) (g : Nat) : List Byte := readCells m.cells (32 * g) 32

/-- Writes bytes with no regard to poison. Granules covered whole lose their poison and errors (R139). -/
def Mem.store (m : Mem) (a : Nat) (bs : List Byte) : Mem :=
  let whole := fun g => a ≤ 32 * g && 32 * g + 32 ≤ a + bs.length
  { m with
    cells := writeCells m.cells a bs
    poison := m.poison.filter fun g => !whole g
    errs := m.errs.filter fun e => !whole e.1 }

/-- Marks a granule poisoned: its contents are gone (R139). -/
def Mem.poisonGranule (m : Mem) (g : Nat) : Mem :=
  { m with
    cells := writeCells m.cells (32 * g) (List.replicate 32 0)
    poison := insertAsc g m.poison
    errs := eraseKey g m.errs }

/-- A granule as it travels: 32 data and 4 check bytes, errors included (R136, R263). -/
def Mem.codeword (m : Mem) (g : Nat) : List Byte :=
  let data := m.granule g
  spoil (data ++ furrowCheck data) (m.pattern g)

/-- Stores a travelled codeword unchanged: check bytes that do not fit the data are kept as errors (R136, R263). -/
def Mem.storeCodeword (m : Mem) (g : Nat) (cw : List Byte) : Mem :=
  let data := padTo 32 cw
  let check := padTo 4 (cw.drop 32)
  let diff := ((List.range 4).zip (check.zip (furrowCheck data))).map fun e => (32 + e.1, e.2.1 ^^^ e.2.2)
  let pat := diff.filter fun e => e.2 != 0
  let m := m.store (32 * g) data
  if pat.isEmpty then m else { m with errs := insertKey g pat m.errs }

/-! ### The address map (R22, R127, R132, R135) -/

/-- The regions of a local address. -/
inductive Region where
  | reservoir | hbm | lpddr | registers | none
  deriving DecidableEq, Repr

/-- First address of HBM3E, and the bytes of one stack. -/
def hbmBase : Nat := 0x10000000000
/-- Bytes of a stack: 36 GiB. -/
def stackBytes : Nat := 0x900000000
/-- First address of LPDDR5X. -/
def lpBase : Nat := 0x40000000000
/-- Bytes of an LPDDR5X controller: 256 GiB. -/
def lpCtlBytes : Nat := 0x4000000000
/-- First address of the register region. -/
def regBase : Nat := 0xF0000000000
/-- 1 GiB. -/
def gib : Nat := 0x40000000

/-- The region that holds address `a` (R22). -/
def regionOf (a : Nat) : Region :=
  if a < 8 * gib then .reservoir
  else if hbmBase ≤ a && a < hbmBase + 12 * stackBytes then .hbm
  else if lpBase ≤ a && a < lpBase + 4 * lpCtlBytes then .lpddr
  else if regBase ≤ a && a < regBase + 0x4000000 then .registers
  else .none

/-- The region that holds all of [a, a + n), or none. The regions do not adjoin. -/
def regionOfRange (a n : Nat) : Region :=
  if regionOf a = regionOf (a + n - 1) then regionOf a else .none

/-- Reservoir bank and row of an address (R127). -/
def bankRow (a : Nat) : Nat × Nat := (1024 * bitsOf a 31 2 + bitsOf a 8 10, bitsOf a 18 13)

/-- Stack, pseudo-channel and address within it (R132). -/
def stackOf (a : Nat) : Nat := (a - hbmBase) / stackBytes
/-- Offset within the stack. -/
def stackOffset (a : Nat) : Nat := (a - hbmBase) % stackBytes
/-- The pseudo-channel of an HBM3E address. -/
def pcOf (a : Nat) : Nat := bitsOf (stackOffset a) 8 5
/-- The address within the pseudo-channel. -/
def pcAddr (a : Nat) : Nat := stackOffset a / 8192 * 256 + bitsOf (stackOffset a) 0 8

/-- The row of a pseudo-channel address. The manual names rows of a pseudo-channel but not their size: 1 KiB, the
family's page size of HBM3E (PRESUMED, log 7). -/
def pcRow (a : Nat) : Nat := pcAddr a / 1024

/-- The LPDDR5X controller of an address, 0 to 3 (R135). -/
def lpController (a : Nat) : Nat := (a - lpBase) / lpCtlBytes
/-- Offset within the LPDDR5X controller (R135). -/
def lpOffset (a : Nat) : Nat := (a - lpBase) % lpCtlBytes
/-- The channel within the LPDDR5X controller: bits [10:8] of the offset (R135). -/
def lpChannel (a : Nat) : Nat := bitsOf (lpOffset a) 8 3

/-- The memory controller that holds an address: 0 to 11 the stacks, 12 to 15 LPDDR5X; 16 the reservoir port (R263). -/
def unitOf (a : Nat) : Nat :=
  match regionOf a with
  | .hbm => stackOf a
  | .lpddr => 12 + lpController a
  | .reservoir => 16
  | _ => 255

end Sys2Proof.Machine
end

