-- ==== Sys2Proof/Machine/Ops.lean ====
section
/-! DEFINITION. The named operations that every meaning uses: status codes (R11), accessors, time (R391, R392), event
queues (R184 to R186), ledger records (R355, R357), reads and writes of device memory with poison and repair (R131,
R138 to R144), back-invalidation (R427), and address checks (R22, R23, R134, R146, R149). -/

namespace Sys2Proof.Machine

open Sys2Proof

/-! ### Status codes (R11) -/

/-- 0x00 OK -/
def stOk : Nat := 0
/-- 0x01 BUSY -/
def stBusy : Nat := 1
/-- 0x02 STATE_REJECT -/
def stReject : Nat := 2
/-- 0x03 BAD_ARG -/
def stBadArg : Nat := 3
/-- 0x04 NO_RESOURCE -/
def stNoResource : Nat := 4
/-- 0x05 AUTH_FAIL -/
def stAuthFail : Nat := 5
/-- 0x06 UNIT_IN_SERVICE -/
def stInService : Nat := 6
/-- 0x07 STALE_GENERATION -/
def stStale : Nat := 7
/-- 0x08 TIMEOUT -/
def stTimeout : Nat := 8
/-- 0x09 ABORTED -/
def stAborted : Nat := 9
/-- 0x0A DUPLICATE -/
def stDuplicate : Nat := 10
/-- 0x0B RESIDUE_FAIL -/
def stResidue : Nat := 11
/-- 0x0C UNCORRECTABLE -/
def stUncorrectable : Nat := 12
/-- 0x0D SEALED -/
def stSealed : Nat := 13

/-- The context states' codes (R160). -/
def CtxState.code : CtxState → Nat
  | .closed => 0
  | .opened => 1
  | .running => 2
  | .holding => 3
  | .draining => 4
  | .faulted => 5

/-! ### Accessors -/

/-- Adds an output. -/
def Dev.emit (d : Dev) (o : Output) : Dev := { d with out := d.out ++ [o] }

/-- Adds outputs in order. -/
def Dev.emitAll (d : Dev) (os : List Output) : Dev := { d with out := d.out ++ os }

/-- The record of context `c`. -/
def Dev.ctx (d : Dev) (c : Fin 16) : Ctx := d.ctxs[c]

/-- Changes the record of context `c`. -/
def Dev.modCtx (d : Dev) (c : Fin 16) (f : Ctx → Ctx) : Dev := { d with ctxs := d.ctxs.set c (f d.ctxs[c]) }

/-- The sluice record of context `c`. -/
def Dev.slc (d : Dev) (c : Fin 16) : Slc := d.slcs[c]

/-- Changes the sluice record of context `c`. -/
def Dev.modSlc (d : Dev) (c : Fin 16) (f : Slc → Slc) : Dev := { d with slcs := d.slcs.set c (f d.slcs[c]) }

/-- Changes the meters of the present attempt of context `c`. -/
def Dev.modMeters (d : Dev) (c : Fin 16) (f : Meters → Meters) : Dev :=
  d.modSlc c fun s => { s with meters := f s.meters }

/-- The shard of a handle. -/
def Dev.shard? (d : Dev) (h : Nat) : Option Shard := (d.upd.shards.find? fun e => e.1 == h).map (·.2)

/-- Sets the shard of a handle. -/
def Dev.setShard (d : Dev) (h : Nat) (x : Shard) : Dev :=
  { d with upd := { d.upd with shards := insertKey h x d.upd.shards } }

/-- Changes the shard of a handle, if it is registered. -/
def Dev.modShard (d : Dev) (h : Nat) (f : Shard → Shard) : Dev :=
  { d with upd := { d.upd with shards := d.upd.shards.map fun e => if e.1 = h then (h, f e.2) else e } }

/-- Changes every shard that `p` selects. -/
def Dev.modShards (d : Dev) (p : Shard → Bool) (f : Shard → Shard) : Dev :=
  { d with upd := { d.upd with shards := d.upd.shards.map fun e => if p e.2 then (e.1, f e.2) else e } }

/-- Changes a port. -/
def Dev.modPort (d : Dev) (p : Fin 96) (f : Port → Port) : Dev :=
  { d with fab := { d.fab with ports := d.fab.ports.set p (f d.fab.ports[p]) } }

/-- Changes a lateral. -/
def Dev.modLat (d : Dev) (p : Fin 96) (f : Lat → Lat) : Dev :=
  { d with lat := { d.lat with lats := d.lat.lats.set p (f d.lat.lats[p]) } }

/-- Changes the turnout registers of a context. -/
def Dev.modTrn (d : Dev) (c : Fin 16) (f : Trn → Trn) : Dev :=
  { d with trn := { d.trn with trns := d.trn.trns.set c (f d.trn.trns[c]) } }

/-- All contexts in ascending order. -/
def allCtx : List (Fin 16) := List.finRange 16

/-- A vector with element `i` changed, if there is one. -/
def modVec {α : Type} {n : Nat} (v : Vector α n) (i : Nat) (f : α → α) : Vector α n :=
  if h : i < n then v.set i (f v[i]) else v

/-- The engine of a class and number (R183): arrays, flumes, vector engines, culverts, memory controllers. -/
def Dev.engine (d : Dev) (cls inst : Nat) : Engine :=
  match cls with
  | 1 => d.mxa.arrays.toList.getD inst {}
  | 2 => d.flm.flumes.toList.getD inst {}
  | 3 => d.vxe.engines.toList.getD inst {}
  | 4 => d.clv.engines.toList.getD inst {}
  | _ => d.ctl.engines.toList.getD inst {}

/-- Changes one engine. -/
def Dev.modEngine (d : Dev) (cls inst : Nat) (f : Engine → Engine) : Dev :=
  match cls with
  | 1 => { d with mxa := { d.mxa with arrays := modVec d.mxa.arrays inst f } }
  | 2 => { d with flm := { d.flm with flumes := modVec d.flm.flumes inst f } }
  | 3 => { d with vxe := { d.vxe with engines := modVec d.vxe.engines inst f } }
  | 4 => { d with clv := { d.clv with engines := modVec d.clv.engines inst f } }
  | _ => { d with ctl := { d.ctl with engines := modVec d.ctl.engines inst f } }

/-- Changes every engine of every class. -/
def Dev.mapEngines (d : Dev) (f : Engine → Engine) : Dev :=
  { d with
    mxa := { d.mxa with arrays := d.mxa.arrays.map f }
    flm := { d.flm with flumes := d.flm.flumes.map f }
    vxe := { d.vxe with engines := d.vxe.engines.map f }
    clv := { d.clv with engines := d.clv.engines.map f }
    ctl := { d.ctl with engines := d.ctl.engines.map f } }

/-- Class and number of every engine instance. -/
def allEngines : List (Nat × Nat) :=
  (List.range 64).map (1, ·) ++ (List.range 4).map (2, ·) ++ (List.range 16).map (3, ·)
    ++ (List.range 16).map (4, ·) ++ (List.range 16).map (5, ·)

/-- The next free value's number, and the device with one more drawn (log 2). -/
def Dev.draw (d : Dev) : Nat × Dev := (d.free, { d with free := d.free + 1 })

/-- `n` free bytes (log 2). -/
def Dev.drawBytes (d : Dev) (n : Nat) : List Byte × Dev :=
  ((List.range n).map fun i => Config.freeByte (d.free + i), { d with free := d.free + n })

/-! ### Time -/

/-- Time-base nanoseconds (R391). -/
def Dev.tbNs (d : Dev) : Nat := d.clk.tb / 2 ^ 32

/-- The 80-bit time-base value in units of 2^-16 ns (R391). -/
def Dev.tb80 (d : Dev) : Nat := d.clk.tb / 2 ^ 16

/-- The local count in ns (R392). -/
def Dev.now (d : Dev) : Nat := d.clk.localNs

/-- Whether `ns` have passed since `t` on the local count. -/
def Dev.passed (d : Dev) (t ns : Nat) : Bool := t + ns ≤ d.now

/-- Milliseconds in ns. -/
def msNs (ms : Nat) : Nat := ms * 1000000
/-- Microseconds in ns. -/
def usNs (us : Nat) : Nat := us * 1000

/-! ### Byte layouts -/

/-- `bs` with `new` put in from offset `off`. -/
def splice (bs : List Byte) (off : Nat) (new : List Byte) : List Byte :=
  bs.take off ++ new ++ bs.drop (off + new.length)

/-- `n` bytes from little-endian fields (offset, length, value), other bytes 0 (R5, R9). -/
def layout (n : Nat) (fields : List (Nat × Nat × Nat)) : List Byte :=
  fields.foldl (fun bs f => splice bs f.1 (toLe f.2.1 f.2.2)) (List.replicate n 0)

/-! ### Address checks -/

/-- First address of the reserved range (R134, R447). -/
def Dev.reservedBase (d : Dev) : Nat := hbmBase + d.boot.rsvStack * stackBytes

/-- Bytes of the reserved range: 512 MiB. -/
def reservedBytes : Nat := 0x20000000

/-- Whether [a, a + n) touches the reserved range (R134). -/
def Dev.inReserved (d : Dev) (a n : Nat) : Bool := overlaps a n d.reservedBase reservedBytes

/-- Bytes still mapped at the base of stack `s`: 36 GiB less 2 GiB for each removed window; none when the stack failed
training in this start (R146, R446). -/
def Dev.stackMapped (d : Dev) (s : Nat) : Nat :=
  if d.rsv.failedStacks.getLsbD s then 0 else (36 - 2 * d.rsv.windows.toList.getD s 0) * gib

/-- Whether [a, a + n) touches a removed window (R146). -/
def Dev.inRemoved (d : Dev) (a n : Nat) : Bool :=
  (List.range 12).any fun s =>
    overlaps a n (hbmBase + s * stackBytes + d.stackMapped s) (stackBytes - d.stackMapped s)

/-- R23, R134, R146, R149: a local range of memory: BAD_ARG outside the tiers or in the register region or the reserved
range, NO_RESOURCE in a removed window. -/
def Dev.rangeStatus (d : Dev) (a n : Nat) : Nat :=
  match regionOfRange a n with
  | .none => stBadArg
  | .registers => stBadArg
  | _ => if d.inReserved a n then stBadArg else if d.inRemoved a n then stNoResource else stOk

/-- The same, and the range lies in HBM3E or LPDDR5X. -/
def Dev.slowStatus (d : Dev) (a n : Nat) : Nat :=
  if regionOfRange a n = .reservoir then stBadArg else d.rangeStatus a n

/-- The same, and the range lies in the reservoir (R39, R108). -/
def inReservoir (a n : Nat) : Bool := decide (a + n ≤ 8 * gib)

/-- The fabric ID in bits [63:44] of an address field (R24, R495). -/
def fidOf (a : Nat) : Nat := bitsOf a 44 20

/-- The local address in bits [43:0]. -/
def localOf (a : Nat) : Nat := bitsOf a 0 44

/-- Whether an address field names this device's own memory (R495). -/
def Dev.isOwn (d : Dev) (a : Nat) : Bool := fidOf a == d.fab.id

/-! ### Ledger records (R355, R357) -/

/-- Writes the next ledger record; its slot's granules are written whole, which ends their poison (R355, R358). -/
def Dev.writeRecord (d : Dev) (body : List Byte) : Dev :=
  let slot := d.ldg.next % 65536
  let rec' := splice (padTo 256 body) 0 (toLe 8 d.ldg.next)
  let a := d.reservedBase + 256 * slot
  { d with
    ldg := { d.ldg with next := (d.ldg.next + 1) % 2 ^ 64, records := insertKey slot rec' d.ldg.records }
    mem := { d.mem with
      poison := d.mem.poison.filter fun g => g < a / 32 || a / 32 + 8 ≤ g
      errs := d.mem.errs.filter fun e => e.1 < a / 32 || a / 32 + 8 ≤ e.1 } }

/-- A ledger record: its write stalls with the memory during a REFCLK loss (R389). -/
def Dev.ledger (d : Dev) (body : List Byte) : Dev :=
  if d.clk.refLost then { d with clk := { d.clk with heldRecords := d.clk.heldRecords ++ [body] } } else d.writeRecord body

/-! ### Events (R184 to R186) -/

/-- The step number in force in a context, or all ones (R184). -/
def Dev.stepInForce (d : Dev) (c : Fin 16) : W64 :=
  if (d.slc c).stepState = .idle then noStep else (d.slc c).step

/-- An event entry without its PHASE bit. -/
def eventBytes (time : Nat) (seq : W32) (type status state : Nat) (step : W64) (detail : Nat) : List Byte :=
  layout 32 [(0, 8, time), (8, 4, seq.toNat), (12, 2, type), (14, 1, status), (15, 1, state), (16, 8, step.toNat),
    (24, 8, detail)]

/-- Writes an entry at CTX_EQ_TAIL, or counts it lost when the queue is full (R184, R186). Where the entry's place lies in a
window removed since, the write has no effect on memory, and CTX_EQ_TAIL passes it (R146; DESIGN CHOICE, log 7). -/
def Dev.writeEvent (d : Dev) (c : Fin 16) (e : List Byte) : Dev :=
  let x := d.ctx c
  let size := 2 ^ x.eqLog2
  if size ≤ dist32 x.eqHead x.eqTail then
    d.modCtx c fun x => { x with overflow := true, lost := satTo 0xFFFF (x.lost + 1) }
  else
    let t := x.eqTail.toNat
    let first := t / size % 2 == 0
    let hi : Byte := BitVec.ofNat 8 (fieldAt e 13 1 % 128 + if first then 128 else 0)
    let a := x.eqBase + 32 * (t % size)
    let d := { d with mem := if d.inRemoved a 32 then d.mem else d.mem.store a (splice e 13 [hi]) }
    let d := d.modCtx c fun x => { x with eqTail := x.eqTail + 1 }
    if x.irq then d.emit (.msix c.val) else d

/-- Places an event in a context's queue: skipped when the context is CLOSED (it has no queue), held while memory is
stalled by a REFCLK loss (R389) and behind those that are held (R390). -/
def Dev.eventAt (d : Dev) (c : Fin 16) (seq : W32) (type status : Nat) (step : W64) (detail : Nat) : Dev :=
  if (d.ctx c).state = .closed then d else
    let e := eventBytes d.tbNs seq type status (d.ctx c).state.code step detail
    if d.clk.refLost || !d.clk.heldEvents.isEmpty then { d with clk := { d.clk with heldEvents := d.clk.heldEvents ++ [(c, e)] } }
    else d.writeEvent c e

/-- Places an event that carries the step number in force. -/
def Dev.event (d : Dev) (c : Fin 16) (seq : W32) (type status detail : Nat) : Dev :=
  d.eventAt c seq type status (d.stepInForce c) detail

/-- Places an event in every context that is not CLOSED, with the step in force of each. -/
def Dev.eventAll (d : Dev) (type detail : Nat) : Dev :=
  allCtx.foldl (fun d c => d.event c 0 type 0 detail) d

/-- The same with STEP all ones (R379, R398). -/
def Dev.eventAllNoStep (d : Dev) (type detail : Nat) : Dev :=
  allCtx.foldl (fun d c => d.eventAt c 0 type 0 noStep detail) d

/-- A KIND 3 ledger record of an event of context `c`, or device-wide (R357). -/
def Dev.ledgerEvent (d : Dev) (c : Option (Fin 16)) (type : Nat) (step : W64) (detail : Nat) : Dev :=
  let who := match c with
    | some c => c.val
    | none => 16
  d.ledger (splice (layout 256 [(8, 8, step.toNat), (20, 1, 3), (21, 1, who)]) 24
    (eventBytes d.tbNs 0 type 0 0 step detail))

/-- A device-wide event: every queue and the ledger. -/
def Dev.deviceEvent (d : Dev) (type detail : Nat) : Dev :=
  (d.eventAll type detail).ledgerEvent none type noStep detail

/-- Changes a context's state, with `why` placing the events that say why: they carry the state after the event (R184), and
the state-change event follows them (R161, R185, R187). No event when it becomes CLOSED. A pending hold ends with the state it was
placed in (R161, R179). -/
def Dev.setStateWith (d : Dev) (c : Fin 16) (st : CtxState) (cause : Nat) (why : Dev → Dev) : Dev :=
  let old := (d.ctx c).state
  (why (d.modCtx c fun x => { x with state := st, cause := cause, holdPending := false })).event c 0 0x0004 0
    (packFields [(0, old.code), (8, st.code), (16, cause)])

/-- Changes a context's state and places the state-change event. -/
def Dev.setState (d : Dev) (c : Fin 16) (st : CtxState) (cause : Nat) : Dev := d.setStateWith c st cause id

/-! ### Errors of stored granules (R138, R139, R142 to R144) -/

/-- Source codes of RSV_UE_LAST. -/
def srcWork : Nat := 1
/-- Patrol scrub. -/
def srcScrub : Nat := 2
/-- Copy during repair or retirement. -/
def srcCopy : Nat := 3
/-- Host access. -/
def srcHost : Nat := 4

/-- Retirements of a stack's pseudo-channels that wait: the ditch rider's own (R144) and PC_RETIRE's in their slots (R191). -/
def Dev.retirementsWaiting (d : Dev) (s : Nat) : Nat :=
  (d.rsv.autoRetire.filter fun r => r.1 == s).length
    + (d.mbx.slots.toList.filter fun x => x.opcode == 0xC012 && (x.phase == 1 || x.phase == 2) && x.target / 256 == s).length

/-- Whether a pseudo-channel is retired, or waits for its retirement. -/
def Dev.pcGone (d : Dev) (s pc : Nat) : Bool :=
  (d.rsv.retiredPc.toList.getD s 0).getLsbD pc || d.rsv.autoRetire.contains (s, pc)
    || d.mbx.slots.any fun x => x.opcode == 0xC012 && (x.phase == 1 || x.phase == 2) && x.target == 256 * s + pc

/-- Queues the retirement of a pseudo-channel that the ditch rider decides (R144); a fifth in a stack is refused and
the stack stays in use (R146). -/
def Dev.queueRetire (d : Dev) (s pc : Nat) : Dev :=
  if d.pcGone s pc || 4 ≤ d.rsv.windows.toList.getD s 0 + d.retirementsWaiting s then d
  else { d with rsv := { d.rsv with autoRetire := d.rsv.autoRetire ++ [(s, pc)] } }

/-- R139: the first find of an uncorrectable granule: poison, RSV_UE_LAST, the event, and R144's count of rows. The row and
pseudo-channel counted are those that R132 gives the address, for a granule that a retirement has relocated too: the manual
gives no map of the relocated data, so its errors count for the retired pseudo-channel and retire no other (DESIGN CHOICE,
log 7). -/
def Dev.foundBad (d : Dev) (src g : Nat) : Dev :=
  let a := 32 * g
  let d := { d with mem := d.mem.poisonGranule g, rsv := { d.rsv with ueAddr := a, ueSource := src, ueNew := true } }
  let d := d.deviceEvent 0x0007 a
  if regionOf a = .hbm then
    let key := (stackOf a, pcOf a, pcRow a)
    if d.rsv.ueRows.contains key then d else
      let rows := key :: d.rsv.ueRows
      let d := { d with rsv := { d.rsv with ueRows := rows } }
      if 2 ≤ (rows.filter fun r => r.1 == stackOf a && r.2.1 == pcOf a).length then d.queueRetire (stackOf a) (pcOf a)
      else d
  else d

/-- One read of a granule, with correction and write-back but no repair: the data, or none when uncorrectable; and
whether it was corrected (R137 to R139). -/
def Dev.readOnce (d : Dev) (src g : Nat) : Dev × Option (List Byte) × Bool :=
  if d.mem.poisoned g then (d, none, false) else
    let p := d.mem.pattern g
    let data := d.mem.granule g
    match furrowDecode p with
    | .clean => (d, some (spoil data (p.filter fun e => e.1 < 32)), false)
    | .single j v =>
      let q := xorPattern p [(j, v)]
      let errs := if q.isEmpty then eraseKey g d.mem.errs else insertKey g q d.mem.errs
      ({ d with mem := { d.mem with errs := errs } }, some (spoil data (q.filter fun e => e.1 < 32)), true)
    | .uncorrectable => (d.foundBad src g, none, false)

/-- Whether two granules lie in one row of one bank or pseudo-channel. -/
def sameRow (g h : Nat) : Bool :=
  match regionOf (32 * g), regionOf (32 * h) with
  | .reservoir, .reservoir => bankRow (32 * g) == bankRow (32 * h)
  | .hbm, .hbm =>
    stackOf (32 * g) == stackOf (32 * h) && pcOf (32 * g) == pcOf (32 * h) && pcRow (32 * g) == pcRow (32 * h)
  | _, _ => false

/-- One granule is copied: what is read, corrected, is what is written at its new place, and a granule that fails while it is
copied becomes poisoned (R142, R143, R145). -/
def Dev.copyGranule (d : Dev) (g : Nat) : Dev :=
  match d.readOnce srcCopy g with
  | (d, some bs, _) => { d with mem := d.mem.store (32 * g) bs }
  | (d, none, _) => d

/-- Moves the granules that `sel` selects to good cells: each that has errors or damage is copied, and the damage stays
behind. Poisoned granules stay poisoned. -/
def Dev.moveGranules (d : Dev) (sel : Nat → Bool) : Dev :=
  let marked := ((d.mem.errs.map (·.1) ++ d.mem.hard.map (·.1)).filter sel).eraseDups
  let d := marked.foldl Dev.copyGranule d
  { d with mem := { d.mem with hard := d.mem.hard.filter fun e => !sel e.1 } }

/-- The row's contents move, corrected, to good cells (R142, R143). -/
def Dev.moveRow (d : Dev) (g : Nat) : Dev := d.moveGranules (sameRow g)

/-- R142 to R144: what is done about a hard error at a granule. -/
def Dev.repair (d : Dev) (g : Nat) : Dev :=
  let a := 32 * g
  match regionOf a with
  | .reservoir =>
    let (bank, row) := bankRow a
    if 16 ≤ (d.rsv.spared.filter fun r => r.1 == bank).length then d
    else
      let d := d.moveRow g
      { d with rsv := { d.rsv with spared := d.rsv.spared ++ [(bank, row)] } }
  | .hbm =>
    let s := stackOf a
    let pc := pcOf a
    if Config.repairLeft s pc (pcAddr a) (d.rsv.repairs.toList.getD s 0) then
      let d := d.moveRow g
      { d with rsv := { d.rsv with
        repairs := modVec d.rsv.repairs s (· + 1)
        softRepairs := d.rsv.softRepairs ++ [(s, pc, pcRow a)] } }
    else d.queueRetire s pc
  | _ => d

/-- R138, R139: a read of a granule. A corrected granule is written back and read again: a second correction shows a hard
error, which is repaired, and a second read that is uncorrectable is one found (R139; the requester keeps the corrected data
of the first: DEDUCED, log 7). -/
def Dev.readGranule (d : Dev) (src g : Nat) : Dev × Option (List Byte) :=
  let (d, r, fixed) := d.readOnce src g
  if fixed then
    match furrowDecode (d.mem.pattern g) with
    | .clean => (d, r)
    | .single _ _ => (d.repair g, r)
    | .uncorrectable => (d.foundBad src g, r)
  else (d, r)

/-- Whether some granule of [a, a + n) has errors, damage or poison. -/
def Mem.marked (m : Mem) (a n : Nat) : Bool :=
  let hit := fun g => a / 32 ≤ g && g ≤ (a + n - 1) / 32
  m.poison.any hit || m.errs.any (fun e => hit e.1) || m.hard.any fun e => hit e.1

/-- Reads granules one by one until one is uncorrectable. -/
def Dev.readGranules (src : Nat) : List Nat → Dev → Dev × Option (List Byte)
  | [], d => (d, some [])
  | g :: r, d =>
    match d.readGranule src g with
    | (d, none) => (d, none)
    | (d, some bs) =>
      match Dev.readGranules src r d with
      | (d, none) => (d, none)
      | (d, some more) => (d, some (bs ++ more))

/-- Reads `n` bytes from `a`, or none at an uncorrectable granule (R139). -/
def Dev.readBytes (d : Dev) (src a n : Nat) : Dev × Option (List Byte) :=
  if n = 0 then (d, some [])
  else if d.mem.marked a n then
    match Dev.readGranules src (granulesOf a n) d with
    | (d, none) => (d, none)
    | (d, some bs) => (d, some ((bs.drop (a % 32)).take n))
  else (d, some (readCells d.mem.cells a n))

/-- Writes the part of `bs`, which is written from `a`, that falls in granule `g`: a granule covered in part is read, merged and
written whole; if it cannot be read its part is refused (R131, R139). -/
def Dev.writeGranule (a : Nat) (bs : List Byte) (acc : Dev × Bool) (g : Nat) : Dev × Bool :=
  let lo := if 32 * g < a then a else 32 * g
  let hi := if a + bs.length < 32 * g + 32 then a + bs.length else 32 * g + 32
  let new := (bs.drop (lo - a)).take (hi - lo)
  if hi - lo = 32 then ({ acc.1 with mem := acc.1.mem.store lo new }, acc.2)
  else
    match acc.1.readGranule srcWork g with
    | (d, none) => (d, false)
    | (d, some old) => ({ d with mem := d.mem.store (32 * g) (splice old (lo - 32 * g) new) }, acc.2)

/-- Writes bytes from `a`, granule by granule where one has errors, damage or poison. Answers whether every byte was
written. -/
def Dev.writeBytes (d : Dev) (a : Nat) (bs : List Byte) : Dev × Bool :=
  if d.mem.marked a bs.length then (granulesOf a bs.length).foldl (Dev.writeGranule a bs) (d, true)
  else ({ d with mem := d.mem.store a bs }, true)

/-- Merges enabled bytes into one granule, a partial write whichever bytes are enabled (R131, R263): false when the granule
cannot be read. -/
def Dev.mergeGranule (d : Dev) (src g : Nat) (bs : List Byte) (enable : List Bool) : Dev × Bool :=
  match d.readGranule src g with
  | (d, none) => (d, false)
  | (d, some old) =>
    let new := (List.range 32).map fun i => if enable.getD i false then bs.getD i 0 else old.getD i 0
    ({ d with mem := d.mem.store (32 * g) new }, true)

/-! ### Back-invalidation (R427) -/

/-- Lines of the snoop filter that [a, a + n) touches. -/
def Dev.linesIn (d : Dev) (a n : Nat) : List Nat :=
  d.link.lines.filter fun l => overlaps a n (64 * l) 64

/-- Sends BISnpInv for the tracked lines that an access touches and that have none out; true when the access must wait
for BIRsp. -/
def Dev.snoop (d : Dev) (a n : Nat) : Dev × Bool :=
  let hit := d.linesIn a n
  let new := hit.filter fun l => !d.link.snooped.contains l
  ({ d with link := { d.link with snooped := d.link.snooped ++ new }, out := d.out ++ new.map Output.bisnp },
    !hit.isEmpty)

/-- The same for several ranges. -/
def Dev.snoopAll (d : Dev) (rs : List (Nat × Nat)) : Dev × Bool :=
  rs.foldl (fun acc r =>
    let (d, w) := acc.1.snoop r.1 r.2
    (d, acc.2 || w)) (d, false)

/-- Whether work that needs a range must wait for memory stalled by REFCLK loss: any tier but the reservoir (R389). -/
def Dev.stalled (d : Dev) (rs : List (Nat × Nat)) : Bool :=
  d.clk.refLost && rs.any fun r => !inReservoir r.1 r.2

/-! ### Outcomes -/

/-- The outcome of a command whose whole effect is a change of the block. -/
def done (s : State) (d : Dev) : Host.Outcome State Fault Refusal := .next { s with dev := d }

end Sys2Proof.Machine
end

