-- ==== Sys2Proof/Machine/Sha.lean ====
section
/-! DEFINITION. SHA-384 (FIPS 180-4, the standard that R216, R229, R287 name; PRESUMED, log 8) and the CRC-64 of
ECMA-182 (R259). -/

namespace Sys2Proof.Machine

open Sys2Proof

/-- The first 80 primes. -/
def primes80 : List Nat :=
  [2, 3, 5, 7, 11, 13, 17, 19, 23, 29, 31, 37, 41, 43, 47, 53, 59, 61, 67, 71] ++
  [73, 79, 83, 89, 97, 101, 103, 107, 109, 113, 127, 131, 137, 139, 149, 151, 157, 163, 167, 173] ++
  [179, 181, 191, 193, 197, 199, 211, 223, 227, 229, 233, 239, 241, 251, 257, 263, 269, 271, 277, 281] ++
  [283, 293, 307, 311, 313, 317, 331, 337, 347, 349, 353, 359, 367, 373, 379, 383, 389, 397, 401, 409]

/-- The largest r of the form found bit by bit with r^k at most n. -/
def rootBits (k : Nat) : Nat → Nat → Nat → Nat
  | 0, _, r => r
  | b + 1, n, r =>
    let c := r + 2 ^ b
    rootBits k b n (if c ^ k ≤ n then c else r)

/-- The first 64 fraction bits of the k-th root of p. -/
def rootFrac (k p : Nat) : W64 := BitVec.ofNat 64 (rootBits k 72 (p <<< (64 * k)) 0)

/-- The round constants: cube roots of the first 80 primes. -/
def shaK : List W64 := primes80.map (rootFrac 3)

/-- The initial value of SHA-384: square roots of the 9th to 16th primes. -/
def shaInit : List W64 := ((primes80.drop 8).take 8).map (rootFrac 2)

/-- The eight working variables. -/
structure Sha where
  a : W64
  b : W64
  c : W64
  d : W64
  e : W64
  f : W64
  g : W64
  h : W64
  deriving DecidableEq, Repr

/-- Rotation to the right. -/
def rotr (x : W64) (n : Nat) : W64 := x.rotateRight n

/-- One round with its constant and schedule word. -/
def shaRound (s : Sha) (kw : W64 × W64) : Sha :=
  let s1 := rotr s.e 14 ^^^ rotr s.e 18 ^^^ rotr s.e 41
  let ch := (s.e &&& s.f) ^^^ (~~~ s.e &&& s.g)
  let t1 := s.h + s1 + ch + kw.1 + kw.2
  let s0 := rotr s.a 28 ^^^ rotr s.a 34 ^^^ rotr s.a 39
  let maj := (s.a &&& s.b) ^^^ (s.a &&& s.c) ^^^ (s.b &&& s.c)
  { a := t1 + s0 + maj, b := s.a, c := s.b, d := s.c, e := s.d + t1, f := s.e, g := s.f, h := s.g }

/-- The message schedule, newest word first, extended by `n` words. -/
def shaExtend : Nat → List W64 → List W64
  | 0, w => w
  | n + 1, w =>
    let at' := fun i => w.getD i 0
    let x := at' 14
    let y := at' 1
    let s0 := rotr x 1 ^^^ rotr x 8 ^^^ (x >>> 7)
    let s1 := rotr y 19 ^^^ rotr y 61 ^^^ (y >>> 6)
    shaExtend n ((s1 + at' 6 + s0 + at' 15) :: w)

/-- The sixteen words of a block of 128 bytes. -/
def shaWords (block : List Byte) : List W64 :=
  (piecesOf 8 16 block).map fun b => BitVec.ofNat 64 (beNat b)

/-- Compression of one block. -/
def shaBlock (s : Sha) (block : List Byte) : Sha :=
  let w := (shaExtend 64 (shaWords block).reverse).reverse
  let r := (shaK.zip w).foldl shaRound s
  { a := s.a + r.a, b := s.b + r.b, c := s.c + r.c, d := s.d + r.d,
    e := s.e + r.e, f := s.f + r.f, g := s.g + r.g, h := s.h + r.h }

/-- Padding to whole blocks of 128 bytes, the length in bits at the end. -/
def shaPad (m : List Byte) : List Byte :=
  let z := (239 - m.length % 128) % 128
  m ++ [0x80] ++ List.replicate z 0 ++ toBe 16 (8 * m.length)

/-- SHA-384 of a byte string: 48 bytes. -/
def sha384 (m : List Byte) : List Byte :=
  let p := shaPad m
  let i := fun k => shaInit.getD k 0
  let s := (piecesOf 128 (p.length / 128) p).foldl shaBlock
    { a := i 0, b := i 1, c := i 2, d := i 3, e := i 4, f := i 5, g := i 6, h := i 7 }
  [s.a, s.b, s.c, s.d, s.e, s.f].flatMap fun x => toBe 8 x.toNat

/-- The first 8 bytes of a SHA-384, as the little-endian value R229, R287 and R332 use. -/
def shaCheck (m : List Byte) : W64 := BitVec.ofNat 64 (leNat ((sha384 m).take 8))

/-- One bit of the CRC-64 of ECMA-182. -/
def crcBit (c : W64) : W64 :=
  if c.msb then (c <<< 1) ^^^ 0x42F0E1EBA9EA3693 else c <<< 1

/-- One byte of the CRC, most significant bit first. -/
def crcByte (c : W64) (b : Byte) : W64 :=
  let c := c ^^^ (BitVec.ofNat 64 b.toNat <<< 56)
  crcBit (crcBit (crcBit (crcBit (crcBit (crcBit (crcBit (crcBit c)))))))

/-- CRC-64 of ECMA-182 with initial value and final XOR all ones (R259). -/
def crc64 (m : List Byte) : W64 := m.foldl crcByte (BitVec.allOnes 64) ^^^ BitVec.allOnes 64

end Sys2Proof.Machine
end

