-- ==== Sys2Proof/Machine/Send.lean ====
section
/-! DEFINITION. Sending over the fabric: packets as slots (R262), routing (R268 to R272, R283, R323), the arbiter of a
port (R265, R266), flits and their windows (R260, R312 to R315), the outstanding table (R273) and messages. -/

namespace Sys2Proof.Machine

open Sys2Proof

/-! ### Packets as slots (R262) -/

/-- TYPE codes. -/
def typeCode : PacketType → Nat
  | .read => 1
  | .write => 2
  | .accum => 3
  | .readResp => 4
  | .reply => 5
  | .msg => 6
  | .genQuery => 7

/-- The header slot of a packet. -/
def headerOf (p : Packet) : List Byte :=
  layout 36 [(0, 1, typeCode p.type), (1, 1, packFields [(0, p.tc), (3, p.hop), (6, bit p.genValid), (7, bit p.viaValid)]),
    (2, 1, p.unit), (3, 1, p.gen), (4, 4, packFields [(0, p.dest), (20, p.destCtx)]), (8, 4, p.src),
    (12, 4, packFields [(0, p.tag), (16, p.useCount)]), (16, 6, p.addr), (22, 1, p.len), (23, 1, p.status),
    (24, 2, p.inc), (26, 2, p.via), (28, 8, p.spec)]

/-- Payload slots that travel with a packet: those of `data`. -/
def packetSlots (p : Packet) : List Byte := headerOf p ++ p.data

/-- How many slots a packet takes. -/
def slotCount (p : Packet) : Nat := 1 + ceilDiv p.data.length 36

/-! ### Fabric IDs (R24) -/

/-- Site of a fabric ID. -/
def siteOf (id : Nat) : Nat := bitsOf id 17 3
/-- Basin of a fabric ID. -/
def basinOf (id : Nat) : Nat := bitsOf id 5 12
/-- Slot of a fabric ID. -/
def slotOf (id : Nat) : Nat := bitsOf id 0 5

/-! ### Routes (R268, R269) -/

/-- The fields of a FAB_ROUTEn value; KIND 3 reads as 0. -/
def routeOfRaw (raw : Nat) : Route where
  kind := if bitsOf raw 0 2 = 3 then 0 else bitsOf raw 0 2
  exits := ((List.range (bitsOf raw 2 2 + 1)).map fun i => bitsOf raw (4 + 11 * i) 11).map fun e => (e % 32, e / 32)
  raw := raw
  via := bitsOf raw 48 12
  site := bitsOf raw 60 3

/-- The route table's entry for a basin. -/
def Dev.route (d : Dev) (n : Nat) : Route := routeOfRaw (lookupD n 0 d.fab.routes)

/-- Canonical routing is in effect (R268). -/
def Dev.canonical (d : Dev) : Bool :=
  d.fab.canon && (List.range 12).any fun k => d.fab.basins == 2 ^ k + 1

/-- Canonical exits from this basin to basin `t`: the slot and port of each global link that goes there, ascending. -/
def canonicalExits (b own t : Nat) : List (Nat × Nat) :=
  let delta := (t + b - own) % b - 1
  ((List.range 2048).filter fun g => g % (b - 1) = delta).map fun g => (g / 64, g % 64)

/-- The site the sender holds for a basin (R25). -/
def Dev.siteHeld (d : Dev) (n : Nat) : Nat :=
  if n = basinOf d.fab.id || d.canonical then siteOf d.fab.id else (d.route n).site

/-- Whether a basin is unreachable (R25). -/
def Dev.unreachable (d : Dev) (n : Nat) : Bool :=
  if n = basinOf d.fab.id then false
  else if d.canonical then decide (d.fab.basins ≤ n)
  else (d.route n).kind == 0

/-- R25: how a request to a fabric ID is judged before it enters the fabric; NO_RESOURCE while the fabric is off. -/
def Dev.judgeRemote (d : Dev) (fid : Nat) : Nat :=
  if fid = d.fab.id then stOk
  else if 2048 < basinOf fid then stBadArg
  else if siteOf fid ≠ d.siteHeld (basinOf fid) then stBadArg
  else if d.unreachable (basinOf fid) || !d.fab.enable then stNoResource
  else stOk

/-! ### Ports -/

/-- A port of this device by number. -/
def Dev.port (d : Dev) (n : Nat) : Port := d.fab.ports.toList.getD n {}

/-- UP or DEGRADED. -/
def PortState.live (s : PortState) : Bool := s == .up || s == .degraded

/-- Codes of FAB_PORTn.STATE. -/
def PortState.code : PortState → Nat
  | .disabled => 0
  | .down => 1
  | .training => 2
  | .up => 3
  | .degraded => 4
  | .draining => 5

/-- Whether port 95 stands in for port `n`, which has reached the device that 95 reaches (R283). -/
def Dev.spareFor (d : Dev) (n : Nat) : Bool :=
  let s := d.port 95
  let p := d.port n
  d.fab.spareFor == n && n != 95 && !p.lateral && s.state == .up && p.met && s.nbrId == p.nbrId
    && (p.state == .down || p.state == .disabled || p.state == .degraded)

/-- The port that carries traffic for port `n`, if one does. -/
def Dev.carrier (d : Dev) (n : Nat) : Option Nat :=
  if d.spareFor n then some 95 else if (d.port n).state.live then some n else none

/-- The port to slot `t` of this basin (R256). -/
def localPort (own t : Nat) : Nat := if t < own then t else t - 1

/-- The state of port `n` of slot `s` as the basin map has it; this device's own ports are known (R271). -/
def Dev.mapUp (d : Dev) (s n : Nat) : Bool :=
  if s = slotOf d.fab.id then (d.carrier n).isSome
  else let st := (lookupD (96 * s + n) (0, 0) d.fab.map).1
    st == 3 || st == 4

/-- Flits a packet takes: each packet begins a flit of its own (DESIGN CHOICE, log 11). -/
def flitCount (p : Packet) : Nat := ceilDiv (slotCount p) 8

/-- Flits queued at a port (R269, R272). -/
def Dev.load (d : Dev) (n : Nat) : Nat := ((d.port n).queue.map flitCount).foldl (· + ·) 0

/-- Where a packet goes at this hop. -/
inductive Hop where
  | port (n : Nat)
  | wait
  | drop
  deriving DecidableEq, Repr

/-- R271: the local port to a slot, or to the lowest slot with both links up. -/
def Dev.toSlot (d : Dev) (t : Nat) : Hop :=
  let own := slotOf d.fab.id
  match d.carrier (localPort own t) with
  | some n => .port n
  | none =>
    match (List.range 32).find? fun u =>
        u != own && u != t && (d.carrier (localPort own u)).isSome && d.mapUp u (localPort u t) with
    | some u => match d.carrier (localPort own u) with
      | some n => .port n
      | none => .wait
    | none => .wait

/-- The exits a packet to basin `t` may take: none when the basin is unreachable (R269). -/
def Dev.exitsTo (d : Dev) (t : Nat) : Option (List (Nat × Nat)) :=
  if d.canonical then
    if d.fab.basins ≤ t then none else some (canonicalExits d.fab.basins (basinOf d.fab.id) t)
  else
    let r := d.route t
    if r.kind = 0 then none
    else if r.kind = 1 then some r.exits
    else if (d.route r.via).kind = 1 then some (d.route r.via).exits else none

/-- R269: the routing decision of one hop, with the packet's VIA bit as the hop leaves it. -/
def Dev.chooseHop (d : Dev) (p : Packet) : Hop × Packet :=
  let own := slotOf d.fab.id
  let here := basinOf d.fab.id
  if basinOf p.dest = here then (d.toSlot (slotOf p.dest), p)
  else
    let t := if p.viaValid && p.via != here then p.via else basinOf p.dest
    let p := if p.viaValid && p.via == here then { p with viaValid := false } else p
    match d.exitsTo t with
    | none => (.drop, p)
    | some es =>
      let up := es.filter fun e => d.mapUp e.1 (31 + e.2)
      let mine := up.filter fun e => e.1 == own
      match leastBy (fun e => d.load ((d.carrier (31 + e.2)).getD 96)) mine with
      | some e => (match d.carrier (31 + e.2) with
        | some n => .port n
        | none => .wait, p)
      | none =>
        match leastBy (fun e => d.load ((d.carrier (localPort own e.1)).getD (localPort own e.1))) up with
        | some e => (d.toSlot e.1, p)
        | none => (.wait, p)

/-! ### Arbiter and flits (R259, R260, R265, R266, R312 to R315) -/

/-- The first waiting packet of a class. -/
def firstOf (q : List Packet) (tc : Nat) : Option Packet := q.find? fun p => p.tc == tc

/-- Whether the neighbour has buffers for a packet's class and hop (R266): one for each flit it takes. -/
def Port.credit (x : Port) (p : Packet) : Nat := lookupD (8 * p.tc + p.hop) 0 x.credits

/-- Whether a privileged class. -/
def privileged (tc : Nat) : Bool := decide (4 ≤ tc)

/-- Whether a port can send a packet now: credit, and room in its retry window: 512 flits on a short link (R260), the
grant for privileged flits of a lateral (R315). -/
def Dev.sendable (d : Dev) (n : Nat) (p : Packet) : Bool :=
  let x := d.port n
  decide (flitCount p ≤ x.credit p) &&
    (if x.lateral then
      !privileged p.tc || decide (x.unacked.length + flitCount p ≤ (d.lat.lats.toList.getD n {}).retryGrant)
    else decide (x.unacked.length + flitCount p ≤ 512))

/-- The packet of a class that a port can send now: its first, or none while that can not be sent. -/
def Dev.firstReady (d : Dev) (n tc : Nat) : Option Packet :=
  match firstOf (d.port n).queue tc with
  | some p => if d.sendable n p then some p else none
  | none => none

/-- How many rounds of the weighted round robin pass before a class with `left` flits and weight `w` may send: none while it has
flits left in its turn. -/
def roundsFor (left : Int) (w : Nat) : Nat := if 0 < left then 0 else (-left).toNat / w + 1

/-- R265, point 3: the class of TC0 to TC3 that sends next and the flits each class then has left. Each round gives a class with
a packet ready its weight in flits; a packet longer than what is left is paid off in the rounds after it. -/
def Dev.bulkPick (d : Dev) (n : Nat) : Option (Fin 4 × Vector Int 4) :=
  let x := d.port n
  let has := fun (c : Fin 4) => (d.firstReady n c.val).isSome && d.fab.weights[c] != 0
  match leastBy id (((List.finRange 4).filter has).map fun c => roundsFor x.bulkLeft[c] d.fab.weights[c]) with
  | none => none
  | some r =>
    let left := Vector.ofFn fun c : Fin 4 => if has c then x.bulkLeft[c] + ((r * d.fab.weights[c] : Nat) : Int) else x.bulkLeft[c]
    let order := (List.range 4).map fun i => Fin.ofNat 4 (x.bulkTurn + i)
    (order.find? fun c => has c && decide (0 < left[c])).map fun c => (c, left)

/-- R265: which waiting packet a port sends next. A class waits when its first packet can not be sent. TC4, TC6 and TC7 together
keep to their share of flits while a bulk packet is ready. -/
def Dev.arbitrate (d : Dev) (n : Nat) : Option Packet :=
  match d.firstReady n 5 with
  | some p => some p
  | none =>
    let x := d.port n
    let priv := ([4, 6, 7, 4, 6].drop x.privTurn |>.take 3).findSome? (d.firstReady n)
    let bulk := (d.bulkPick n).bind fun b => d.firstReady n b.1.val
    match priv, bulk with
    | some p, some b => if x.arb = 0 && d.fab.privShare != 0 then some p else some b
    | some p, none => some p
    | none, b => b

/-- A port's arbiter after a packet of `f` flits has been sent: a privileged one ahead of waiting bulk takes 16 sixteenths of a
flit for each of its flits where its share is PRIV_SHARE, and each bulk flit gives PRIV_SHARE back. -/
def Dev.afterSend (d : Dev) (n : Nat) (p : Packet) (x : Port) : Port :=
  let f := flitCount p
  let share := d.fab.privShare
  if p.tc = 5 then x
  else if privileged p.tc then
    { x with
      arb := if (d.bulkPick n).isSome then x.arb + f * (16 - share) else x.arb
      privTurn := if p.tc = 4 then 1 else if p.tc = 6 then 2 else 0 }
  else
    let x := { x with arb := x.arb - f * share }
    match d.bulkPick n with
    | none => x
    | some (c, left) =>
      let now := left[c] - (f : Int)
      { x with bulkLeft := left.set c now, bulkTurn := if 0 < now then c.val else (c.val + 1) % 4 }

/-- The SLOT_MAP bytes of slots `i` to `i + k - 1` of a packet of `total`: used, packet starts, packet ends (R259). -/
def slotMarks (i k total : Nat) : List Byte :=
  (List.range k).map fun j => BitVec.ofNat 8 (packFields [(0, 1), (1, if i + j = 0 then 1 else 0), (2, if i + j + 1 = total then 1 else 0)])

/-- The flits of a packet: its slots eight at a time, numbered from `seq` modulo `m`. -/
def flitsOf (p : Packet) (seq m now : Nat) : List SentFlit :=
  let total := slotCount p
  let parts := piecesOf 288 total (packetSlots p)
  (parts.zip (List.range parts.length)).map fun f =>
    { seq := (seq + f.2) % m, slots := f.1, map := slotMarks (8 * f.2) (min 8 (total - 8 * f.2)) total, sentAt := now }

/-! ### Buffers and credit (R259, R266, R312, R316, R322) -/

/-- Class and hop as one key. -/
def bufferKey (p : Packet) : Nat := 8 * p.tc + p.hop

/-- The buffers that this device has for a class and hop of a port: 64 of a lateral's ingress grant are guaranteed to each, and
what is left of the grant goes in equal parts to the 32 of TC0 to TC3 (R316; the division is DESIGN CHOICE, log 11). -/
def Dev.buffers (d : Dev) (n : Fin 96) (key : Nat) : Nat :=
  if d.fab.ports[n].lateral then 64 + if key < 32 then (d.lat.lats[n].ingressGrant - 64 * 64) / 32 else 0
  else Config.shortBuffers key

/-- Buffers of a port in use or granted. -/
def Port.lentTotal (x : Port) : Nat := (x.lent.map (·.2)).foldl (· + ·) 0

/-- Credit that is due to the neighbour: for each class and hop the buffers that are neither granted nor filled, at most 1,023 in
one return. A lateral whose grant is used up is given no bulk credit (R322). -/
def Dev.creditsDue (d : Dev) (n : Fin 96) : List (Nat × Nat) :=
  let x := d.fab.ports[n]
  let full := x.lateral && decide (d.lat.lats[n].ingressGrant ≤ x.lentTotal)
  (List.range 64).flatMap fun key =>
    let due := if full && key < 32 then 0 else d.buffers n key - lookupD key 0 x.lent
    List.replicate (due / 1023) (key, 1023) ++ if due % 1023 = 0 then [] else [(key, due % 1023)]

/-- The neighbour holds that much more credit. -/
def Port.lend (x : Port) (cr : List (Nat × Nat)) : Port :=
  { x with lent := cr.foldl (fun t e => insertKey e.1 (lookupD e.1 0 t + e.2) t) x.lent }

/-- The 24 bits of a credit return (R259). -/
def creditField (cr : List (Nat × Nat)) (i : Nat) : Nat :=
  let e := cr.getD i (0, 0)
  packFields [(0, e.1 / 8), (3, e.1 % 8), (6, e.2)]

/-- The 320 bytes of a flit (R259, R312): a short link's carries ACK and NAK. Reserved bytes are 0. -/
def Port.flitBytes (x : Port) (kind seq : Nat) (slots map : List Byte) (cr : List (Nat × Nat)) : List Byte :=
  let head := if x.lateral then [(0, 4, packFields [(0, seq), (24, kind)])]
    else [(0, 2, packFields [(0, seq), (12, kind)]), (2, 2, packFields [(0, (x.rxNext + 4095) % 4096), (12, bit x.nakOut)])]
  let body := layout 16 (head ++ [(4, 3, creditField cr 0), (7, 3, creditField cr 1)]) ++ padTo 288 slots ++ padTo 8 map
  body ++ toLe 8 (crc64 body).toNat

/-- A flit leaves with up to two credit returns. -/
def Dev.sendFlit (d : Dev) (n : Fin 96) (kind seq : Nat) (slots map : List Byte) : Dev :=
  let cr := (d.creditsDue n).take 2
  (d.modPort n fun x => x.lend cr).emit (.flit n.val (d.fab.ports[n].flitBytes kind seq slots map cr))

/-- An idle flit, with ACK and CREDITS; its SEQ is 0 (R312; on a short link DESIGN CHOICE, log 11). -/
def Dev.sendIdle (d : Dev) (n : Fin 96) : Dev := d.sendFlit n 0 0 [] []

/-- A list two by two. -/
def pairsOf {α : Type} : List α → List (List α)
  | [] => []
  | [a] => [[a]]
  | a :: b :: r => [a, b] :: pairsOf r

/-- Idle flits that carry all the credit due, two returns in each. -/
def Dev.sendCredits (d : Dev) (n : Fin 96) : Dev :=
  let cr := d.creditsDue n
  (d.modPort n fun x => x.lend cr).emitAll ((pairsOf cr).map fun c => .flit n.val (d.fab.ports[n].flitBytes 0 0 [] [] c))

/-- Kept flits leave again, with the ACK and CREDITS of now. -/
def Dev.sendAgain (d : Dev) (n : Fin 96) (kind : Nat) (fs : List SentFlit) : Dev :=
  fs.foldl (fun d f => d.sendFlit n kind f.seq f.slots f.map) d

/-- A packet as the transit list names it: routing may clear its VIA bit while it waits. -/
def plainPacket (p : Packet) : Packet := { p with viaValid := false }

/-- The first packet of a list that `q` equals, and the list without it. -/
def takeTransit (q : Packet) : List (Packet × Nat × Nat × Nat) → Option (Nat × Nat × Nat) × List (Packet × Nat × Nat × Nat)
  | [] => (none, [])
  | e :: r => if e.1 = q then (some e.2, r) else
    let (x, l) := takeTransit q r
    (x, e :: l)

/-- The buffers of a port that `k` flits of a class and hop have filled are free again. -/
def Port.unlend (x : Port) (key k : Nat) : Port := { x with lent := insertKey key (lookupD key 0 x.lent - k) x.lent }

/-- A packet has left this device, or is dropped: the buffers it filled are free, and their credit goes back (R266). -/
def Dev.freeBuffers (d : Dev) (p : Packet) : Dev :=
  match takeTransit (plainPacket p) d.fab.transit with
  | (none, _) => d
  | (some (n, key, k), rest) =>
    let d := { d with fab := { d.fab with transit := rest } }
    if h : n < 96 then
      let d := d.modPort ⟨n, h⟩ fun x => x.unlend key k
      if (d.port n).state.live then d.sendCredits ⟨n, h⟩ else d
    else d

/-- Removes the first equal packet. -/
def dropPacket (p : Packet) : List Packet → List Packet
  | [] => []
  | q :: r => if q = p then r else q :: dropPacket p r

/-- Sends one packet on a port: the flits leave, and are kept where the link resends them. -/
def Dev.transmit (d : Dev) (n : Fin 96) (p : Packet) : Dev :=
  let x := d.fab.ports[n]
  let bulkLane := x.lateral && !privileged p.tc
  let m := if x.lateral then 2 ^ 24 else 4096
  let fs := flitsOf p (if bulkLane then x.bulkTx else x.txNext) m d.now
  let kind := if bulkLane || !x.lateral then 1 else 2
  let x := { d.afterSend n.val p x with
    queue := dropPacket p x.queue
    credits := insertKey (bufferKey p) (x.credit p - flitCount p) x.credits
    unacked := if bulkLane then x.unacked else x.unacked ++ fs
    bulkTx := if bulkLane then (x.bulkTx + fs.length) % m else x.bulkTx
    txNext := if bulkLane then x.txNext else (x.txNext + fs.length) % m }
  ((d.modPort n fun _ => x).sendAgain n kind fs).freeBuffers p

/-- Sends what a port can send; one packet for each unit of fuel. -/
def Dev.pumpN : Nat → Fin 96 → Dev → Dev
  | 0, _, d => d
  | k + 1, n, d =>
    match d.arbitrate n.val with
    | none => d
    | some p => Dev.pumpN k n (d.transmit n p)

/-- Sends what a port can send while it is UP, DEGRADED or DRAINING (R281). -/
def Dev.pump (d : Dev) (n : Fin 96) : Dev :=
  let x := d.fab.ports[n]
  if x.state.live || x.state == .draining then Dev.pumpN x.queue.length n d else d

/-- Routes a packet at this device: it joins a port's queue, waits unrouted (R323), or is dropped at KIND 0 or when it
would need a ninth hop (R269, R270); one for the device itself does not enter the fabric (R25). -/
def Dev.routePacket (d : Dev) (p : Packet) : Dev :=
  if p.dest = d.fab.id then d.emit (.loopback p)
  else if 8 ≤ p.hop then d.freeBuffers p else
    match d.chooseHop p with
    | (.drop, _) => d.freeBuffers p
    | (.wait, _) => { d with fab := { d.fab with waiting := d.fab.waiting ++ [p] } }
    | (.port n, q) =>
      if h : n < 96 then (d.modPort ⟨n, h⟩ fun x => { x with queue := x.queue ++ [q] }).pump ⟨n, h⟩ else d

/-- Routes the packets that wait unrouted, after a port or a route has changed. -/
def Dev.rerouteWaiting (d : Dev) : Dev :=
  let ps := d.fab.waiting
  ps.foldl Dev.routePacket { d with fab := { d.fab with waiting := [] } }

/-- R272: the source's choice of an intermediate basin for a bulk request, made at random among same-site KIND 1 basins
when the minimal exit's queue holds more than twice the flits of the intermediate route's. -/
def Dev.adapt (d : Dev) (p : Packet) : Dev × Packet :=
  let here := basinOf d.fab.id
  let b := basinOf p.dest
  if !d.fab.adaptive || privileged p.tc || b = here || siteOf p.dest ≠ siteOf d.fab.id then (d, p) else
    let site := siteOf d.fab.id
    let cand := ((List.range 2049).filter fun n => n != here && n != b
      && (if d.canonical then decide (n < d.fab.basins) else (d.route n).kind == 1 && (d.route n).site == site))
    if cand.isEmpty then (d, p) else
      let (k, d) := d.draw
      let v := cand.getD (Config.adaptiveChoice k cand.length % cand.length) b
      let q := { p with viaValid := true, via := v }
      let depth : Hop → Nat := fun h => match h with
        | .port n => d.load n
        | _ => 0
      if 2 * depth (d.chooseHop q).1 < depth (d.chooseHop p).1 then (d, q) else (d, p)

/-! ### Outstanding requests (R273, R274, R278) -/

/-- The unit's GEN and INC in the cache (R278). -/
def Dev.cached (d : Dev) (fid unit : Nat) : Option (Nat × Nat) :=
  (d.fab.cache.find? fun e => e.1 == fid * 32 + unit).map (·.2)

/-- The cache with a unit's GEN and INC at its front, of 4,096 entries (R278). -/
def Dev.learn (d : Dev) (fid unit gen inc : Nat) : Dev :=
  let k := fid * 32 + unit
  { d with fab := { d.fab with cache := ((k, gen, inc) :: d.fab.cache.filter fun e => e.1 != k).take 4096 } }

/-- The lowest entry that a class may take: 1,024 are kept for TC4 to TC7 (R273). -/
def Dev.freeEntry (d : Dev) (tc : Nat) : Option Nat :=
  let bulk := (d.fab.entries.filter fun e => !privileged e.2.packet.tc).length
  if !privileged tc && 64512 ≤ bulk then none
  else
    (List.range (d.fab.entries.length + 1)).find? fun i =>
      decide (i < 65536) && d.fab.entries.all fun e => e.1 != i

/-- The unit has been addressed: its entry of the cache is now the last that would be replaced (R278). -/
def Dev.touch (d : Dev) (fid unit : Nat) : Dev :=
  match d.cached fid unit with
  | some (g, i) => d.learn fid unit g i
  | none => d

/-- The request as it goes out: expected GEN and INC from the cache (R278), HOP 0. -/
def Dev.stamped (d : Dev) (p : Packet) : Packet :=
  match d.cached p.dest p.unit with
  | some (g, i) => { p with genValid := p.type != .genQuery, gen := g, inc := i, hop := 0 }
  | none => { p with genValid := false, gen := 0, inc := 0, hop := 0 }

/-- Issues a request: an entry, its use count, its timer, and the packet on its way. None when no entry is free: the
requester stalls (R273). Class 4 to 7 requests always take the table route (R272). -/
def Dev.request (d : Dev) (owner : Owner) (p : Packet) : Option Dev :=
  match d.freeEntry p.tc with
  | none => none
  | some i =>
    let u := (lookupD i 255 d.fab.uses + 1) % 256
    let p := { d.stamped p with src := d.fab.id, tag := i, useCount := u }
    let (d, p) := (d.touch p.dest p.unit).adapt p
    let e : Outst := { useCount := u, packet := p, owner := owner, issuedAt := d.now }
    let d := { d with fab := { d.fab with entries := insertKey i e d.fab.entries, uses := insertKey i u d.fab.uses } }
    some (d.routePacket p)

/-- Takes an entry for a request that does not go out yet: it waits until a time, for a reason that `waitFor` names. -/
def Dev.park (d : Dev) (owner : Owner) (p : Packet) (until_ why : Nat) : Option Dev :=
  (d.freeEntry p.tc).map fun i =>
    let u := (lookupD i 255 d.fab.uses + 1) % 256
    let e : Outst := { useCount := u, packet := { d.stamped p with src := d.fab.id, tag := i, useCount := u }, owner := owner
                       issuedAt := d.now, waitUntil := some until_, waitFor := why }
    { d with fab := { d.fab with entries := insertKey i e d.fab.entries, uses := insertKey i u d.fab.uses } }

/-- Issues a live entry's request again, with a new timer (R274). -/
def Dev.reissue (d : Dev) (i : Nat) : Dev :=
  match d.fab.entries.find? fun e => e.1 == i with
  | none => d
  | some (_, e) =>
    let p := d.stamped e.packet
    let e := { e with packet := p, issuedAt := d.now, waitUntil := none, waitFor := 0, reference := none }
    let d := { d with fab := { d.fab with entries := insertKey i e d.fab.entries } }
    (d.touch p.dest p.unit).routePacket p

/-- Ends an entry. -/
def Dev.closeEntry (d : Dev) (i : Nat) : Dev :=
  { d with fab := { d.fab with entries := eraseKey i d.fab.entries } }

/-! ### Messages (R263) -/

/-- A packet with no field set. -/
def emptyPacket : Packet where
  type := .msg
  tc := 0
  hop := 0
  genValid := false
  viaValid := false
  unit := 0
  gen := 0
  dest := 0
  destCtx := 0
  src := 0
  tag := 0
  useCount := 0
  addr := 0
  len := 0
  status := 0
  inc := 0
  via := 0
  spec := 0
  data := []

/-- Sends message bytes to a unit of another device; a message to a device that R25 finds no way to is lost. -/
def Dev.sendMsg (d : Dev) (tc unit fid ctx spec : Nat) (bytes : List Byte) : Dev :=
  if d.judgeRemote fid ≠ stOk then d else
    let n := ceilDiv bytes.length 36
    d.routePacket { emptyPacket with
      type := .msg, tc := tc, unit := unit, dest := fid, destCtx := ctx, src := d.fab.id, len := n, spec := spec
      data := padTo (36 * n) bytes }

/-- The 4,096-byte MAP of a table: 0xFF where nothing is listed (R225, R237). -/
def mapBytes (t : List (Nat × Nat)) : List Byte :=
  t.foldl (fun bs e => bs.set e.1 (BitVec.ofNat 8 e.2)) (List.replicate 4096 0xFF)

/-- The table of 4,096 bytes: the entries that are not 0xFF. -/
def mapOf (bs : List Byte) : List (Nat × Nat) :=
  ((List.range bs.length).zip (bs.map (·.toNat))).filter fun e => e.2 != 0xFF

/-- TYPE codes of R237. -/
def msgToken : Nat := 1
/-- ABORT_VOTE -/
def msgAbortVote : Nat := 2
/-- DECIDE -/
def msgDecide : Nat := 3
/-- DECIDED -/
def msgDecided : Nat := 4
/-- OUTCOME -/
def msgOutcome : Nat := 5
/-- QUERY -/
def msgQuery : Nat := 6
/-- UNDECIDED -/
def msgUndecided : Nat := 7

/-- The bytes of a sluice message (R237). -/
def sluiceBytes (type : Nat) (m : SluiceMsg) : List Byte :=
  let head := layout 64 [(0, 1, type),
    (1, 1, packFields [(0, bit m.commit), (1, bit m.overflow), (2, bit m.kind), (3, bit m.byDeputy)]),
    (2, 1, m.cause), (3, 1, m.status), (4, 4, m.tag.toNat), (8, 8, m.check.toNat), (16, 8, m.step.toNat),
    (24, 4, m.attempt.toNat), (28, 4, m.sender), (32, 4, m.votes), (36, 4, m.abortBy.toNat), (40, 1, m.lsS),
    (41, 1, bit m.lsWarm), (42, 2, m.lsClean), (48, 8, m.time.toNat)]
  if [msgToken, msgDecide, msgDecided, msgOutcome].contains type then head ++ mapBytes m.map else head

/-- A sluice message from its bytes, with its TYPE. -/
def sluiceOf (src : Nat) (bs : List Byte) : Nat × SluiceMsg :=
  let f := fieldAt bs 1 1
  (fieldAt bs 0 1,
    { commit := bitOf f 0, overflow := bitOf f 1, kind := bitOf f 2, byDeputy := bitOf f 3
      cause := fieldAt bs 2 1, status := fieldAt bs 3 1, tag := BitVec.ofNat 32 (fieldAt bs 4 4)
      check := BitVec.ofNat 64 (fieldAt bs 8 8), step := BitVec.ofNat 64 (fieldAt bs 16 8)
      attempt := BitVec.ofNat 32 (fieldAt bs 24 4), sender := fieldAt bs 28 4, votes := fieldAt bs 32 4
      abortBy := BitVec.ofNat 32 (fieldAt bs 36 4), lsS := fieldAt bs 40 1, lsWarm := bitOf (fieldAt bs 41 1) 0
      lsClean := fieldAt bs 42 2, time := BitVec.ofNat 64 (fieldAt bs 48 8)
      map := mapOf ((bs.drop 64).take 4096), src := src })

end Sys2Proof.Machine
end

