-- ==== Sys2Proof/Machine/Float.lean ====
section
/-! DEFINITION. FP32 and BF16 arithmetic: decoding, rounding to nearest even, overflow modes (R48, R70, R71, R81, R84,
R101, R110, R112). A BF16 value stands in the upper half of an FP32 word. Every operation answers the value and whether
a saturation was raised. -/

namespace Sys2Proof.Machine

open Sys2Proof

/-- What becomes of an overflowing finite result: the two overflow modes of R84, and the EVD-32 rules of R101, R125. -/
inductive FpMode where
  | saturate | infinity | denyr
  deriving DecidableEq, Repr

/-- A decoded floating value; `fin s m e` is (-1)^s * m * 2^e exactly. -/
inductive Fp where
  | nan
  | inf (neg : Bool)
  | fin (neg : Bool) (m : Nat) (e : Int)
  deriving DecidableEq, Repr

/-- The result of an operation: the FP32 word and whether a saturation was raised (R84). -/
structure FpR where
  bits : W32
  sat : Bool
  deriving DecidableEq, Repr

/-- The number of bits of `m`. -/
def bitLen (m : Nat) : Nat := if m = 0 then 0 else m.log2 + 1

/-- The canonical NaN of a mode (R70, R101). -/
def canonNan : FpMode → W32
  | .denyr => 0x7FFFFFFF
  | _ => 0x7FC00000

/-- Decodes an FP32 word; a subnormal reads as zero of its sign (R71), in DENYR as +0 (R101). -/
def decodeFp (mode : FpMode) (w : W32) : Fp :=
  let v := w.toNat
  let s := bitOf v 31
  let x := bitsOf v 23 8
  let f := bitsOf v 0 23
  if x = 255 then (if f = 0 then .inf s else .nan)
  else if x = 0 then (if f = 0 then .fin s 0 0 else .fin (s && mode != .denyr) 0 0)
  else .fin s (2 ^ 23 + f) ((x : Int) - 150)

/-- Rounds `m * 2^e` to `p` significant bits, to nearest, ties to even. -/
def roundSig (p m : Nat) (e : Int) : Nat × Int :=
  let n := bitLen m
  if n ≤ p then (m, e) else
    let s := n - p
    let q := m >>> s
    let r := m % 2 ^ s
    let half := 2 ^ (s - 1)
    let q' := if r > half || (r == half && q % 2 == 1) then q + 1 else q
    (q', e + s)

/-- The largest finite word of `p` significant bits: 0x7F7F_FFFF for FP32, 0x7F7F for BF16 (R84). -/
def maxFinite (p : Nat) : Nat := if p = 8 then 0x7F7F0000 else 0x7F7FFFFF

/-- A word with its sign bit set from `s`. -/
def withSign (s : Bool) (v : Nat) : W32 := BitVec.ofNat 32 (v + if s then 2 ^ 31 else 0)

/-- A finite result beyond the range of the format, or an infinite result from finite operands (R84, R101, R110). -/
def overflowTo (mode : FpMode) (p : Nat) (s : Bool) : FpR :=
  match mode with
  | .saturate => ⟨withSign s (maxFinite p), true⟩
  | _ => ⟨withSign s 0x7F800000, false⟩

/-- A zero result; a result that was flushed is +0 in DENYR (R101). -/
def flushed (mode : FpMode) (s : Bool) : FpR := ⟨withSign (s && mode != .denyr) 0, false⟩

/-- Encodes (-1)^s * m * 2^e rounded to `p` significant bits: to nearest even, subnormal results to zero of their sign
judged after rounding with an unbounded exponent (R71), overflow by the mode (R84). -/
def encodeFp (mode : FpMode) (p : Nat) (s : Bool) (m : Nat) (e : Int) : FpR :=
  if m = 0 then ⟨withSign s 0, false⟩ else
    let (m', e') := roundSig p m e
    let n := bitLen m'
    let x := e' + (n : Int) - 1
    if x < -126 then flushed mode s
    else if x > 127 then overflowTo mode p s
    else
      let f := if n ≤ 24 then m' <<< (24 - n) else m' >>> (n - 24)
      ⟨withSign s ((x + 127).toNat <<< 23 + (f - 2 ^ 23)), false⟩

/-- NaN as a result. -/
def nanR (mode : FpMode) : FpR := ⟨canonNan mode, false⟩

/-- An infinite result that propagates as IEEE 754 sets out. -/
def infR (s : Bool) : FpR := ⟨withSign s 0x7F800000, false⟩

/-- Encodes a decoded value, rounding finite ones to `p` bits. -/
def encodeVal (mode : FpMode) (p : Nat) : Fp → FpR
  | .nan => nanR mode
  | .inf s => infR s
  | .fin s m e => encodeFp mode p s m e

/-- The exact sum of two signed magnitudes; an exact zero sum is +0 unless both are negative. -/
def addExact (s1 : Bool) (m1 : Nat) (e1 : Int) (s2 : Bool) (m2 : Nat) (e2 : Int) : Bool × Nat × Int :=
  let e := if e1 ≤ e2 then e1 else e2
  let a := m1 <<< (e1 - e).toNat
  let b := m2 <<< (e2 - e).toNat
  if s1 = s2 then (s1, a + b, e)
  else if a = b then (false, 0, e)
  else if b < a then (s1, a - b, e)
  else (s2, b - a, e)

/-- Exact sum of two values. -/
def addVal : Fp → Fp → Fp
  | .nan, _ => .nan
  | _, .nan => .nan
  | .inf s, .inf t => if s = t then .inf s else .nan
  | .inf s, _ => .inf s
  | _, .inf t => .inf t
  | .fin s m e, .fin t n f =>
    if m = 0 then (if n = 0 then .fin (s && t) 0 0 else .fin t n f)
    else if n = 0 then .fin s m e
    else
      let (u, k, g) := addExact s m e t n f
      .fin u k g

/-- Exact product of two values. -/
def mulVal : Fp → Fp → Fp
  | .nan, _ => .nan
  | _, .nan => .nan
  | .inf s, .inf t => .inf (s != t)
  | .inf s, .fin t n _ => if n = 0 then .nan else .inf (s != t)
  | .fin s m _, .inf t => if m = 0 then .nan else .inf (s != t)
  | .fin s m e, .fin t n f => .fin (s != t) (m * n) (e + f)

/-- The opposite of a value. -/
def negVal : Fp → Fp
  | .nan => .nan
  | .inf s => .inf !s
  | .fin s m e => .fin (!s) m e

/-- Addition rounded once to `p` bits: fp32_add of R81 with p = 24. -/
def fpAdd (mode : FpMode) (p : Nat) (a b : W32) : FpR :=
  encodeVal mode p (addVal (decodeFp mode a) (decodeFp mode b))

/-- Subtraction rounded once. -/
def fpSub (mode : FpMode) (p : Nat) (a b : W32) : FpR :=
  encodeVal mode p (addVal (decodeFp mode a) (negVal (decodeFp mode b)))

/-- Multiplication rounded once: fp32_mul of R81 with p = 24. -/
def fpMul (mode : FpMode) (p : Nat) (a b : W32) : FpR :=
  encodeVal mode p (mulVal (decodeFp mode a) (decodeFp mode b))

/-- a * b + c rounded once (R112, FMA). -/
def fpFma (mode : FpMode) (p : Nat) (a b c : W32) : FpR :=
  encodeVal mode p (addVal (mulVal (decodeFp mode a) (decodeFp mode b)) (decodeFp mode c))

/-- A quotient of magnitudes with three bits more than `p` and a sticky bit. -/
def quotSticky (p m1 m2 : Nat) : Nat × Int :=
  let k := p + 3 + bitLen m2 - bitLen m1
  let q := (m1 <<< k) / m2
  let st := if (m1 <<< k) % m2 = 0 then 0 else 1
  (2 * q + st, -(k : Int) - 1)

/-- Division, correctly rounded to `p` bits; a finite non-zero value over ±0 overflows by the mode (R110). -/
def fpDiv (mode : FpMode) (p : Nat) (a b : W32) : FpR :=
  match decodeFp mode a, decodeFp mode b with
  | .nan, _ => nanR mode
  | _, .nan => nanR mode
  | .inf _, .inf _ => nanR mode
  | .inf s, .fin t _ _ => infR (s != t)
  | .fin s _ _, .inf t => ⟨withSign (s != t) 0, false⟩
  | .fin s m e, .fin t n f =>
    if n = 0 then (if m = 0 then nanR mode else overflowTo mode p (s != t))
    else if m = 0 then ⟨withSign (s != t) 0, false⟩
    else
      let (q, g) := quotSticky p m n
      encodeFp mode p (s != t) q (e - f + g)

/-- Integer square root, one bit for each unit of fuel, from bit `fuel - 1` down. -/
def isqrtBits : Nat → Nat → Nat → Nat
  | 0, _, r => r
  | k + 1, n, r =>
    let c := r + 2 ^ k
    isqrtBits k n (if c * c ≤ n then c else r)

/-- The floor of the square root. -/
def isqrt (n : Nat) : Nat := isqrtBits (bitLen n / 2 + 1) n 0

/-- Square root, correctly rounded to `p` bits (R112). -/
def fpSqrt (mode : FpMode) (p : Nat) (a : W32) : FpR :=
  match decodeFp mode a with
  | .nan => nanR mode
  | .inf s => if s then nanR mode else infR false
  | .fin s m e =>
    if m = 0 then ⟨withSign s 0, false⟩
    else if s then nanR mode
    else
      let k0 := 2 * (p + 3)
      let k := if (e - (k0 : Int)) % 2 = 0 then k0 else k0 + 1
      let n := m <<< k
      let r := isqrt n
      encodeFp mode p false (2 * r + (if r * r = n then 0 else 1)) ((e - (k : Int)) / 2 - 1)

/-- 1 / √a, correctly rounded to `p` bits; ±0 gives the overflow of its sign (R110, R112). -/
def fpRsqrt (mode : FpMode) (p : Nat) (a : W32) : FpR :=
  match decodeFp mode a with
  | .nan => nanR mode
  | .inf s => if s then nanR mode else ⟨withSign false 0, false⟩
  | .fin s m e =>
    if m = 0 then overflowTo mode p s
    else if s then nanR mode
    else
      let m' := if e % 2 = 0 then m else 2 * m
      let e' := if e % 2 = 0 then e else e - 1
      let t := p + 4 + bitLen m'
      let n := 2 ^ (2 * t) / m'
      let y := isqrt n
      let st := if y * y * m' = 2 ^ (2 * t) then 0 else 1
      encodeFp mode p false (2 * y + st) (-(t : Int) - e' / 2 - 1)

/-- 1 / a, correctly rounded (R112). -/
def fpRecip (mode : FpMode) (p : Nat) (a : W32) : FpR := fpDiv mode p 0x3F800000 a

/-- Fixed-point fraction bits of EXP2 and LOG2: enough for the correct rounding of every FP32 operand (log 5). -/
def fixQ : Nat := 256

/-- The product of the constants 2^(2^-i) for the set bits of a fraction, taken from its top bit down. `c` is the
present constant and `y` the product so far, both scaled by 2^fixQ; `f` is scaled by 2^n. -/
def exp2Bits : Nat → Nat → Nat → Nat → Nat
  | 0, _, _, y => y
  | n + 1, f, c, y =>
    exp2Bits n f (isqrt (c <<< fixQ)) (if bitOf f n then (y * c) >>> fixQ else y)

/-- 2^(f / 2^n) scaled by 2^fixQ, for f < 2^n. -/
def exp2Frac (n f : Nat) : Nat := exp2Bits n f (isqrt (2 <<< (2 * fixQ))) (2 ^ fixQ)

/-- 2^a, correctly rounded (R112). -/
def fpExp2 (mode : FpMode) (p : Nat) (a : W32) : FpR :=
  match decodeFp mode a with
  | .nan => nanR mode
  | .inf s => if s then ⟨withSign false 0, false⟩ else infR false
  | .fin s m e =>
    if m = 0 || e + bitLen m < -40 then ⟨0x3F800000, false⟩
    else if e + bitLen m > 9 then (if s then flushed mode false else overflowTo mode p false)
    else
      let n := (if e < 0 then -e else 0).toNat
      let x : Int := (m <<< e.toNat : Nat)
      let x := if s then -x else x
      let i := x / ((2 ^ n : Nat) : Int)
      let f := (x % ((2 ^ n : Nat) : Int)).toNat
      let y := exp2Frac n f
      encodeFp mode p false (2 * y + (if f = 0 then 0 else 1)) (i - fixQ - 1)

/-- Fraction bits of log2 of t / 2^fixQ in [1, 2), by repeated squaring, gathered in `acc`. -/
def log2Bits : Nat → Nat → Nat → Nat
  | 0, _, acc => acc
  | n + 1, t, acc =>
    let t2 := (t * t) >>> fixQ
    if t2 < 2 ^ (fixQ + 1) then log2Bits n t2 (2 * acc) else log2Bits n (t2 / 2) (2 * acc + 1)

/-- log2 of m * 2^e as a fixed-point value with 120 fraction bits, rounded down, and whether it is exact. -/
def log2Fix (m : Nat) (e : Int) : Int × Bool :=
  let n := bitLen m
  let exact := m == 2 ^ (n - 1)
  let t := if n ≤ fixQ + 1 then m <<< (fixQ + 1 - n) else m >>> (n - fixQ - 1)
  let fr := if exact then 0 else log2Bits 120 t 0
  ((e + n - 1) * ((2 ^ 120 : Nat) : Int) + fr, exact)

/-- log₂ a, correctly rounded (R112); ±0 gives the overflow with the sign of minus infinity (R110). -/
def fpLog2 (mode : FpMode) (p : Nat) (a : W32) : FpR :=
  match decodeFp mode a with
  | .nan => nanR mode
  | .inf s => if s then nanR mode else infR false
  | .fin s m e =>
    if m = 0 then overflowTo mode p true
    else if s then nanR mode
    else
      let (l, exact) := log2Fix m e
      let v := 2 * l + (if exact then 0 else 1)
      encodeFp mode p (v < 0) v.natAbs (-121)

/-! The five functions within 1 ulp (R112). Each true result is bracketed by fixed-point arithmetic with 512 fraction
bits; the free choice Config.elementaryUp takes one of the two neighbouring values. -/

/-- Fraction bits of the bracket. -/
def eQ : Nat := 512

/-- One in the fixed point of the bracket. -/
def eOne : Int := ((2 ^ eQ : Nat) : Int)

/-- Product in the fixed point of the bracket. -/
def eMul (a b : Int) : Int := a * b / eOne

/-- Sum of x^k / k! from term `k` on, `t` being the present term. -/
def expSeries : Nat → Int → Int → Int → Int → Int
  | 0, _, _, _, acc => acc
  | n + 1, x, k, t, acc => expSeries n x (k + 1) (eMul t x / k) (acc + t)

/-- ln 2 as the sum of 1 / (k 2^k). -/
def ln2Series : Nat → Int → Int → Int → Int
  | 0, _, _, acc => acc
  | n + 1, k, t, acc => ln2Series n (k + 1) (t / 2) (acc + t / k)

/-- ln 2 in the fixed point of the bracket. -/
def eLn2 : Int := ln2Series 520 1 (eOne / 2) 0

/-- e^x of a fixed-point x, as a fixed-point mantissa and a power of two. -/
def eExp (x : Int) : Int × Int :=
  let n := x / eLn2
  (expSeries 90 (x - n * eLn2) 1 eOne 0, n)

/-- A decoded finite value in the fixed point of the bracket (magnitudes below 2^-512 do not occur in FP32). -/
def eOf (s : Bool) (m : Nat) (e : Int) : Int :=
  let v : Int := (m <<< (e + eQ).toNat : Nat)
  if s then -v else v

/-- Arctangent of 1/q by its series, for Machin's formula. -/
def atanSeries : Nat → Int → Int → Int → Int → Int
  | 0, _, _, _, acc => acc
  | n + 1, q2, k, t, acc => atanSeries n q2 (k + 2) (-(t / q2)) (acc + t / k)

/-- π in the fixed point of the bracket. -/
def ePi : Int := 16 * atanSeries 130 25 1 (eOne / 5) 0 - 4 * atanSeries 60 57121 1 (eOne / 239) 0

/-- The series of erf without its factor 2 / √π; `t` is x^(2n+1) / n! with its sign. -/
def erfSeries : Nat → Int → Int → Int → Int → Int
  | 0, _, _, _, acc => acc
  | n + 1, x2, k, t, acc => erfSeries n x2 (k + 1) (-(eMul t x2) / (k + 1)) (acc + t / (2 * k + 1))

/-- A value between two neighbours, taken at the one that `up` names: away from zero when set. -/
def bracketTo (mode : FpMode) (p : Nat) (up : Bool) (v e : Int) : FpR :=
  let m := v.natAbs
  let n := bitLen m
  if n ≤ p then encodeFp mode p (v < 0) m e else
    let s := n - p
    encodeFp mode p (v < 0) ((m >>> s) + (if up then 1 else 0)) (e + s)

/-- EXP, LOG, SIGMOID, TANH and ERF (R112) at special values and within 1 ulp elsewhere. -/
def fpElementary (f : Config.Elementary) (mode : FpMode) (p : Nat) (a : W32) : FpR :=
  let up := Config.elementaryUp f a
  match f, decodeFp mode a with
  | _, .nan => nanR mode
  | .exp, .inf s => if s then ⟨withSign false 0, false⟩ else infR false
  | .log, .inf s => if s then nanR mode else infR false
  | .sigmoid, .inf s => if s then ⟨withSign false 0, false⟩ else ⟨0x3F800000, false⟩
  | .tanh, .inf s => ⟨withSign s 0x3F800000, false⟩
  | .erf, .inf s => ⟨withSign s 0x3F800000, false⟩
  | .exp, .fin s m e =>
    if m = 0 then ⟨0x3F800000, false⟩
    else if e + bitLen m > 9 then (if s then flushed mode false else overflowTo mode p false)
    else
      let (v, n) := eExp (eOf s m e)
      bracketTo mode p up v (n - eQ)
  | .log, .fin s m e =>
    if m = 0 then overflowTo mode p true
    else if s then nanR mode
    else
      let (l, exact) := log2Fix m e
      if exact && l = 0 then ⟨withSign false 0, false⟩
      else bracketTo mode p up (l * eLn2) (-(eQ : Int) - 120)
  | .sigmoid, .fin s m e =>
    if m = 0 then ⟨0x3F000000, false⟩
    else if e + bitLen m > 9 then (if s then flushed mode false else bracketTo mode p up (eOne - 1) (-(eQ : Int)))
    else
      let (v, n) := eExp (eOf (!s) m e)
      let ex := if n ≥ 0 then v <<< n.toNat else v >>> (-n).toNat
      bracketTo mode p up (eOne * eOne / (eOne + if ex = 0 then 1 else ex)) (-(eQ : Int))
  | .tanh, .fin s m e =>
    if m = 0 then ⟨withSign s 0, false⟩
    else if e + bitLen m > 6 then bracketTo mode p up (if s then 1 - eOne else eOne - 1) (-(eQ : Int))
    else
      let (v, n) := eExp (-2 * eOf false m e)
      let ex := v >>> (-n).toNat
      let t := (eOne - ex) * eOne / (eOne + ex)
      bracketTo mode p up (if s then -t else t) (-(eQ : Int))
  | .erf, .fin s m e =>
    if m = 0 then ⟨withSign s 0, false⟩
    else if e + bitLen m > 3 then bracketTo mode p up (if s then 1 - eOne else eOne - 1) (-(eQ : Int))
    else
      let x := eOf false m e
      let root : Int := (isqrt (ePi * eOne).toNat : Nat)
      let t := 2 * erfSeries 400 (eMul x x) 0 x 0 * eOne / root
      bracketTo mode p up (if s then -t else t) (-(eQ : Int))

/-- ABS (R112): clears the sign; a NaN becomes the canonical NaN with its sign clear. -/
def fpAbs (mode : FpMode) (a : W32) : FpR :=
  match decodeFp mode a with
  | .nan => nanR mode
  | v => match v with
    | .fin _ m e => encodeFp mode 24 false m e
    | _ => infR false

/-- NEG (R112): inverts the sign; a NaN becomes the canonical NaN with its sign bit inverted (not in DENYR, R125). -/
def fpNeg (mode : FpMode) (a : W32) : FpR :=
  match decodeFp mode a with
  | .nan =>
    if mode = .denyr then nanR mode
    else ⟨withSign (!bitOf a.toNat 31) 0x7FC00000, false⟩
  | .inf s => infR !s
  | .fin s m e => encodeFp mode 24 (!s) m e

/-- Whether a < b; none when one is a NaN. -/
def ltVal : Fp → Fp → Option Bool
  | .nan, _ => none
  | _, .nan => none
  | .inf s, .inf t => some (s && !t)
  | .inf s, _ => some s
  | _, .inf t => some !t
  | .fin s m e, .fin t n f =>
    if m = 0 && n = 0 then some false
    else
      let g := if e ≤ f then e else f
      let a : Int := (m <<< (e - g).toNat : Nat)
      let b : Int := (n <<< (f - g).toNat : Nat)
      some (decide ((if s then -a else a) < (if t then -b else b)))

/-- 1.0 or +0 (R112). -/
def truthR (b : Bool) : FpR := ⟨if b then 0x3F800000 else 0, false⟩

/-- CMPLT (R112): 1.0 if a < b, else +0; a NaN compares false. -/
def fpCmpLt (mode : FpMode) (a b : W32) : FpR :=
  truthR ((ltVal (decodeFp mode a) (decodeFp mode b)).getD false)

/-- CMPEQ (R112): 1.0 if a = b, else +0. -/
def fpCmpEq (mode : FpMode) (a b : W32) : FpR :=
  let x := decodeFp mode a
  let y := decodeFp mode b
  truthR (ltVal x y == some false && ltVal y x == some false)

/-- Whether the sign of a decoded value is set. -/
def signOf : Fp → Bool
  | .nan => false
  | .inf s => s
  | .fin s _ _ => s

/-- MAX (R116): the canonical NaN if either is NaN, and +0 of the two zeros. -/
def fpMax (mode : FpMode) (a b : W32) : FpR :=
  let x := decodeFp mode a
  let y := decodeFp mode b
  match ltVal x y with
  | none => nanR mode
  | some true => encodeVal mode 24 y
  | some false =>
    if ltVal y x = some true then encodeVal mode 24 x
    else if signOf x then encodeVal mode 24 y else encodeVal mode 24 x

/-- MIN (R116): the canonical NaN if either is NaN, and −0 of the two zeros. -/
def fpMin (mode : FpMode) (a b : W32) : FpR :=
  let x := decodeFp mode a
  let y := decodeFp mode b
  match ltVal x y with
  | none => nanR mode
  | some true => encodeVal mode 24 x
  | some false =>
    if ltVal y x = some true then encodeVal mode 24 y
    else if signOf x then encodeVal mode 24 x else encodeVal mode 24 y

/-- SEL (R112): b if a ≠ 0, else c; a NaN a selects b. -/
def fpSel (mode : FpMode) (a b c : W32) : FpR :=
  match decodeFp mode a with
  | .fin _ m _ => if m = 0 then encodeVal mode 24 (decodeFp mode c) else encodeVal mode 24 (decodeFp mode b)
  | _ => encodeVal mode 24 (decodeFp mode b)

/-- A word as the numeric rules read it: a subnormal is zero and a NaN canonical (R71, R101). -/
def readFp (mode : FpMode) (a : W32) : W32 := (encodeVal mode 24 (decodeFp mode a)).bits

/-- An FP32 word rounded to nearest even to BF16, still in FP32 layout. -/
def toBf16 (mode : FpMode) (a : W32) : FpR := encodeVal mode 8 (decodeFp mode a)

/-- A BF16 word in FP32 layout. -/
def ofBf16 (h : W16) : W32 := BitVec.ofNat 32 (h.toNat <<< 16)

/-- The upper half of an FP32 word: its BF16 word when it is a BF16 value. -/
def bf16Bits (a : W32) : W16 := BitVec.ofNat 16 (a.toNat >>> 16)

/-- Truncation toward zero to BF16 (R49). -/
def truncBf16 (a : W32) : W32 := BitVec.ofNat 32 ((a.toNat >>> 16) <<< 16)

/-- `x - hi` for the truncated `hi`, exact and rounded once to BF16 (R49). -/
def splitLo (mode : FpMode) (x : W32) : W32 :=
  (encodeVal mode 8 (addVal (decodeFp mode x) (negVal (decodeFp mode (truncBf16 x))))).bits

/-- Whether a word is NaN or infinite. -/
def isNonFinite (a : W32) : Bool := bitsOf a.toNat 23 8 == 255

/-- Whether a word is NaN. -/
def isNan (a : W32) : Bool := isNonFinite a && bitsOf a.toNat 0 23 != 0

/-- Whether a word is a zero of either sign. -/
def isZero (a : W32) : Bool := bitsOf a.toNat 0 31 == 0

/-- FP32 of an integer times a power of two, rounded to nearest even. -/
def fpOfInt (mode : FpMode) (i : Int) (e : Int) : FpR :=
  if i = 0 then ⟨0, false⟩ else encodeFp mode 24 (i < 0) i.natAbs e

/-- The integer nearest to (-1)^s m 2^e, ties to even, as a magnitude. -/
def roundNe (m : Nat) (e : Int) : Nat :=
  if e ≥ 0 then m <<< e.toNat else
    let s := (-e).toNat
    let q := m >>> s
    let r := m % 2 ^ s
    let half := 2 ^ (s - 1)
    if r > half || (r == half && q % 2 == 1) then q + 1 else q

end Sys2Proof.Machine
end

