-- ==== Sys2Proof/Machine/Blocks.lean ====
section
/-! DEFINITION. Block formats and wire blocks: conversion, decoding, promotion (R65 to R80, R119) and residues (R73). -/

namespace Sys2Proof.Machine

open Sys2Proof

/-- The element formats of R70, R106 and R171. -/
inductive Fmt where
  | fp32 | bf16 | bs8 | bs4 | e4m3 | e5m2
  deriving DecidableEq, Repr

/-- A block: its elements and exponent. -/
structure Block where
  elems : List Int
  exp : Nat
  deriving DecidableEq, Repr

/-- The largest element magnitude of a block format: 127 or 7 (R74). -/
def Fmt.limit : Fmt → Nat
  | .bs4 => 7
  | _ => 127

/-- The constant c of R74. -/
def Fmt.bias : Fmt → Nat
  | .bs4 => 125
  | _ => 121

/-- |x| of an FP32 word as a monotonic key; a subnormal is 0 (R71). -/
def magKey (x : W32) : Nat :=
  let v := bitsOf x.toNat 0 31
  if v < 2 ^ 23 then 0 else v

/-- Mantissa and exponent of a finite FP32 magnitude key. -/
def keyParts (k : Nat) : Nat × Int :=
  if k = 0 then (0, 0) else (2 ^ 23 + bitsOf k 0 23, (bitsOf k 23 8 : Int) - 150)

/-- The largest of some keys. -/
def maxKey (xs : List W32) : Nat := xs.foldl (fun m x => if m < magKey x then magKey x else m) 0

/-- round_ne(x * 2^(127 - e)) with its sign. -/
def quantise (e : Nat) (x : W32) : Int :=
  let (m, ex) := keyParts (magKey x)
  let r : Int := (roundNe m (ex + 127 - e) : Nat)
  if bitOf x.toNat 31 then -r else r

/-- R74: conversion of a group of values to one block. -/
def toBlock (f : Fmt) (xs : List W32) : Block :=
  if xs.any isNonFinite then ⟨xs.map fun _ => 0, 0xFF⟩ else
    let k := maxKey xs
    if k = 0 then ⟨xs.map fun _ => 0, 0⟩ else
      let em : Int := (bitsOf k 23 8 : Int) - 127
      let e := (em + f.bias).toNat
      let (m, ex) := keyParts k
      let e := if roundNe m (ex + 127 - e) > f.limit then e + 1 else e
      ⟨xs.map (quantise e), e⟩

/-- R119: conversion at a forced exponent, and how many elements were clamped. -/
def toBlockForced (f : Fmt) (ef : Nat) (xs : List W32) : Block × Nat :=
  if xs.any isNonFinite then (⟨xs.map fun _ => 0, 0xFF⟩, 0) else
    let q : Int := f.limit
    let raw := xs.map (quantise ef)
    (⟨raw.map fun a => if a > q then q else if a < -q then -q else a, ef⟩,
      (raw.filter fun a => a > q || a < -q).length)

/-- R77: one element of a block as an FP32 word (p = 24), under the overflow mode. -/
def blockElem (mode : FpMode) (exp : Nat) (a : Int) : FpR :=
  if exp = 0xFF then ⟨canonNan mode, false⟩
  else if a = 0 then ⟨0, false⟩
  else encodeFp mode 24 (a < 0) a.natAbs ((exp : Int) - 127)

/-- Sign-extended element bytes of a BS8 block. -/
def bs8Elems (bs : List Byte) : List Int := bs.map fun b => b.toInt

/-- A stored remainder: -128 is read as -127 (R70). -/
def remOf (b : Byte) : Int := if b = 0x80 then -127 else b.toInt

/-- Elements of BS4 bytes: low nibble first (R67). -/
def bs4Elems (bs : List Byte) : List Int :=
  bs.flatMap fun b => [signed 4 (b.toNat % 16), signed 4 (b.toNat / 16)]

/-- Bytes of BS8 elements. -/
def bs8Bytes (es : List Int) : List Byte := es.map fun a => BitVec.ofInt 8 a

/-- Bytes of BS4 elements, two to a byte. -/
def bs4Bytes : List Int → List Byte
  | a :: b :: r => BitVec.ofNat 8 (unsigned 4 a + 16 * unsigned 4 b) :: bs4Bytes r
  | [a] => [BitVec.ofNat 8 (unsigned 4 a)]
  | [] => []

/-- R75: an E4M3 code as an FP32 word, exactly. -/
def ofE4m3 (b : Byte) : W32 :=
  let v := b.toNat
  let s := bitOf v 7
  let x := bitsOf v 3 4
  let f := bitsOf v 0 3
  if x = 15 && f = 7 then 0x7FC00000
  else if x = 0 then (encodeFp .infinity 24 s f (-9)).bits
  else (encodeFp .infinity 24 s (8 + f) ((x : Int) - 10)).bits

/-- R75: an E5M2 code as an FP32 word, exactly. -/
def ofE5m2 (b : Byte) : W32 :=
  let v := b.toNat
  let s := bitOf v 7
  let x := bitsOf v 2 5
  let f := bitsOf v 0 2
  if x = 31 then (if f = 0 then withSign s 0x7F800000 else 0x7FC00000)
  else if x = 0 then (encodeFp .infinity 24 s f (-16)).bits
  else (encodeFp .infinity 24 s (4 + f) ((x : Int) - 17)).bits

/-- R79: the exact sum of the products of a block. -/
def blockSum (a w : List Int) : Int := (a.zip w).foldl (fun t p => t + p.1 * p.2) 0

/-- R80: promotion of a block sum to FP32. -/
def promote (mode : FpMode) (s : Int) (ea ew : Nat) : FpR :=
  if ea = 0xFF || ew = 0xFF then ⟨0x7FC00000, false⟩
  else if s = 0 then ⟨0, false⟩
  else encodeFp mode 24 (s < 0) s.natAbs ((ea : Int) + ew - 254)

/-- R73: the residue of a wire block. -/
def residue (es : List Int) : Nat :=
  ((es.foldl (fun (t : Nat × Nat) a => (t.1 + 1, t.2 + t.1 * (a % 8191).toNat)) (1, 0)).2) % 8191

/-- R73: the check word. -/
def checkWord (es : List Int) (spill srcSat : Bool) : Nat :=
  packFields [(0, residue es), (13, bit spill), (14, bit srcSat)]

/-- The width codes of R293 and R298: 1 BS8, 2 W16, 3 W32. -/
def widthOf (es : List Int) (spillIn probe : Bool) : Nat :=
  if probe || spillIn then 3
  else if es.all fun a => decide (-128 ≤ a) && decide (a ≤ 127) then 1
  else if es.all fun a => decide (-32768 ≤ a) && decide (a ≤ 32767) then 2
  else 3

/-- R294: a block formed with an element outside 16 bits. -/
def outside16 (es : List Int) : Bool := es.any fun a => decide (a < -32768) || decide (32767 < a)

/-- Bytes of an element of each width code. -/
def widthBytes (w : Nat) : Nat := if w = 1 then 1 else if w = 2 then 2 else 4

/-- A wire block (R72) of a width code: elements and check word. -/
def wireBlock (w : Nat) (es : List Int) (check : Nat) : List Byte :=
  (es.flatMap fun a => toLe (widthBytes w) (unsigned (8 * widthBytes w) a)) ++ toLe 2 check

/-- Elements of `n` bytes each, little-endian two's complement. -/
def intElems (n : Nat) (bs : List Byte) : List Int :=
  (piecesOf n bs.length bs).map fun p => signed (8 * n) (leNat p)

/-- Bytes of a BS8 or BS4 tensor's element plane and of one block (R68). -/
def elemPlane (f : Fmt) (elements : Nat) : Nat := if f = .bs4 then ceilDiv elements 2 else elements

/-- Where the exponent plane begins relative to the base (R68). -/
def expOffset (f : Fmt) (elements : Nat) : Nat := alignUp (elemPlane f elements) 32

/-- The size of a block tensor: both planes (R68); `per` elements share an exponent. -/
def tensorBytes (f : Fmt) (elements per : Nat) : Nat := expOffset f elements + alignUp (elements / per) 32

/-- Element-plane byte of element (r, c) of a tiled R × C tensor (R68). -/
def tiledByte (cols r c : Nat) : Nat := 1024 * (r / 32 * (cols / 32) + c / 32) + 32 * (r % 32) + c % 32

/-- Exponent number of the tile of (r, c) (R68). -/
def tileOf (cols r c : Nat) : Nat := r / 32 * (cols / 32) + c / 32

/-- Bytes of one element of a floating format. -/
def Fmt.size : Fmt → Nat
  | .fp32 => 4
  | .bf16 => 2
  | _ => 1

end Sys2Proof.Machine
end

