-- ==== Sys2Proof/Machine/Operands.lean ====
section
/-! DEFINITION. Argument blocks: every operand form of the ring commands (R169 to R171, R201, R218, R219, R285, R329,
R344, R353, R354), and the checks that their bytes alone decide. -/

namespace Sys2Proof.Machine

open Sys2Proof

/-! ### ARRAY_OP and FLUME_OP (R169) -/

/-- The product modes. -/
inductive ArrayMode where
  | bs8 | bf16 | fp32x3 | cbs8 | cbf16 | denyr
  deriving DecidableEq, Repr

/-- MODE codes. -/
def arrayMode : Nat → Option ArrayMode
  | 0 => some .bs8
  | 1 => some .bf16
  | 2 => some .fp32x3
  | 3 => some .cbs8
  | 4 => some .cbf16
  | 5 => some .denyr
  | _ => none

/-- Output formats of the epilogue. -/
def outFmt : Nat → Option Fmt
  | 0 => some .fp32
  | 1 => some .bf16
  | 2 => some .bs8
  | _ => none

/-- The parameters of R38. -/
structure ArrayArgs where
  a : Nat
  w : Nat
  y : Nat
  e : Nat
  m : Nat
  k : Nat
  n : Nat
  mode : ArrayMode
  tw : Bool
  s : Nat
  split16 : Bool
  epi : Nat
  shape : Nat
  eBf16 : Bool
  out : Fmt
  alpha : W32
  im : Nat
  deriving DecidableEq, Repr

/-- Complex modes. -/
def ArrayArgs.complex (x : ArrayArgs) : Bool := x.mode == .cbs8 || x.mode == .cbf16

/-- The fields of an ARRAY_OP or FLUME_OP block; none where a code is not listed, a reserved field is not 0 or a limit of
R38 is broken. -/
def arrayArgs (b : List Byte) : Option ArrayArgs :=
  let c := fieldAt b 44 1
  let f := fieldAt b 45 1
  match arrayMode (bitsOf c 0 3), outFmt (bitsOf f 5 2) with
  | some mode, some out =>
    let x : ArrayArgs :=
      { a := fieldAt b 0 8, w := fieldAt b 8 8, y := fieldAt b 16 8, e := fieldAt b 24 8, m := fieldAt b 32 4
        k := fieldAt b 36 4, n := fieldAt b 40 4, mode := mode, tw := bitOf c 3, s := 2 ^ bitsOf c 4 3
        split16 := bitOf c 7, epi := bitsOf f 0 2, shape := bitsOf f 2 2, eBf16 := bitOf f 4, out := out
        alpha := BitVec.ofNat 32 (fieldAt b 48 4), im := fieldAt b 56 8 }
    let ok := decide (bitsOf c 4 3 ≤ 4) && !bitOf f 7 && zeroAt b 46 2 && zeroAt b 52 4
      && decide (x.epi < 3) && decide (x.shape < 3) && (x.epi != 0 || x.e == 0) && (x.complex || x.im == 0)
      && decide (1 ≤ x.m) && decide (x.m ≤ 1048576)
      && decide (32 ≤ x.k) && decide (x.k ≤ 1048576) && aligned x.k 32
      && decide (32 ≤ x.n) && decide (x.n ≤ 1048576) && aligned x.n 32
    if ok then some x else none
  | _, _ => none

/-! ### MOVE (R148, R170) -/

/-- Moves and their source and destination forms. -/
inductive MoveKind where
  /-- COPY of raw bytes. -/
  | copy
  /-- TRANSPOSE of raw elements of a size. -/
  | transposeRaw (elem : Nat)
  /-- TRANSPOSE of a tiled BS8 tensor. -/
  | transposeTiled
  /-- CONVERT from a format to BS8, tiled or row-blocked. -/
  | convert (fmt : Fmt) (tiled : Bool)
  deriving DecidableEq, Repr

/-- The parameters of R148. -/
structure MoveArgs where
  src : Nat
  dst : Nat
  rows : Nat
  rowBytes : Nat
  srcStride : Nat
  dstStride : Nat
  kind : MoveKind
  tc : Nat
  deriving DecidableEq, Repr

/-- OP, ELEM, FMT_IN and FMT_OUT together; ELEM 3 is no code of R170, whatever the OP. -/
def moveKind (op elem fmtIn fmtOut : Nat) : Option MoveKind :=
  if 3 ≤ elem then none else
  match op with
  | 0 => if fmtIn ≤ 1 then some .copy else none
  | 1 =>
    if fmtIn = 0 then some (.transposeRaw (2 ^ elem))
    else if fmtIn = 1 then some .transposeTiled else none
  | 2 =>
    let tiled := fmtOut == 1
    match fmtIn with
    | 2 => some (.convert .fp32 tiled)
    | 3 => some (.convert .bf16 tiled)
    | 4 => some (.convert .e4m3 tiled)
    | 5 => some (.convert .e5m2 tiled)
    | 6 => if tiled then none else some (.convert .bs4 false)
    | _ => none
  | _ => none

/-- Elements of a source row of a CONVERT (R152): two to a byte for BS4. -/
def convertLen (f : Fmt) (rowBytes : Nat) : Nat := if f = .bs4 then 2 * rowBytes else rowBytes / f.size

/-- The fields of a MOVE block; none where a code is not listed, a reserved field is not 0, or a limit of R148, R151 or
R152 is broken. Strides are ignored where a side is a block tensor: the rows of a COPY of BS8T lie one after the other. -/
def moveArgs (b : List Byte) : Option MoveArgs :=
  let o := fieldAt b 40 1
  let t := fieldAt b 42 1
  match moveKind (bitsOf o 0 2) (bitsOf o 2 2) (fieldAt b 41 1) (bitsOf t 0 1) with
  | none => none
  | some kind =>
    let n := fieldAt b 20 4
    let dense := kind == .copy && fieldAt b 41 1 == 1
    let x : MoveArgs :=
      { src := fieldAt b 0 8, dst := fieldAt b 8 8, rows := fieldAt b 16 4, rowBytes := n
        srcStride := if dense then n else fieldAt b 24 8, dstStride := if dense then n else fieldAt b 32 8
        kind := kind, tc := if bitOf t 1 then 2 else 0 }
    let strided := fun (s len : Nat) => aligned s 32 && decide (len ≤ s)
    let shape := match kind with
      | .copy => strided x.srcStride x.rowBytes && strided x.dstStride x.rowBytes
      | .transposeRaw n =>
        strided x.srcStride x.rowBytes && strided x.dstStride (x.rows * n) && aligned x.rows 32
          && aligned (x.rowBytes / n) 32
      | .transposeTiled => aligned x.rows 32 && aligned x.rowBytes 32
      | .convert f tiled =>
        (f == .bs4 || strided x.srcStride x.rowBytes) && aligned (convertLen f x.rowBytes) 32
          && (!tiled || aligned x.rows 32)
    let ok := decide (o < 16) && decide (t < 4) && decide (fieldAt b 41 1 < 8) && zeroAt b 43 5
      && aligned x.src 32 && aligned x.dst 32 && decide (1 ≤ x.rows) && decide (x.rows ≤ 16777216)
      && decide (32 ≤ x.rowBytes) && decide (x.rowBytes ≤ 2 ^ 30) && aligned x.rowBytes 32 && shape
    if ok then some x else none

/-! ### VECTOR_OP (R105, R171) -/

/-- Stage opcodes of R171. -/
inductive VecOp where
  | add | sub | mul | fma | max | min | abs | neg | cmplt | cmpeq | sel
  | permute | shufXor | shufRot | shufBcast | pack2 | unpack2
  | redSum | redMax | redMin | recip | sqrt | rsqrt | exp2 | log2 | div | exp | log | sigmoid | tanh | erf
  deriving DecidableEq, Repr

/-- The stage opcodes in the order of their codes, from 0x01. -/
def vecOps : List VecOp :=
  [.add, .sub, .mul, .fma, .max, .min, .abs, .neg, .cmplt, .cmpeq, .sel, .permute, .shufXor, .shufRot, .shufBcast, .pack2,
    .unpack2, .redSum, .redMax, .redMin, .recip, .sqrt, .rsqrt, .exp2, .log2, .div, .exp, .log, .sigmoid, .tanh, .erf]

/-- How many sources a stage takes (R112). -/
def VecOp.arity : VecOp → Nat
  | .fma => 3
  | .sel => 3
  | .add => 2
  | .sub => 2
  | .mul => 2
  | .max => 2
  | .min => 2
  | .cmplt => 2
  | .cmpeq => 2
  | .pack2 => 2
  | .div => 2
  | _ => 1

/-- Reduction stages. -/
def VecOp.reduces (o : VecOp) : Bool := o == .redSum || o == .redMax || o == .redMin

/-- Stages that PACKED allows (R112). -/
def VecOp.packable (o : VecOp) : Bool :=
  [.add, .sub, .mul, .fma, .max, .min, .abs, .neg, .cmplt, .cmpeq, .sel, .permute, .shufXor, .shufRot, .shufBcast].contains o

/-- Stages that a Denyr context accepts (R125). -/
def VecOp.denyr (o : VecOp) : Bool :=
  [.add, .sub, .mul, .max, .min, .abs, .neg, .cmplt, .cmpeq, .sel, .permute, .shufXor, .shufRot, .shufBcast, .recip, .sqrt,
    .rsqrt, .exp2, .log2, .redSum, .redMax].contains o

/-- A source code of R171. -/
inductive Src where
  | none | input (i : Nat) | const (i : Nat) | stage (i : Nat)
  deriving DecidableEq, Repr

/-- Source codes. -/
def srcOf (v : Nat) : Option Src :=
  if v = 0 then some .none
  else if v ≤ 3 then some (.input (v - 1))
  else if 8 ≤ v && v ≤ 11 then some (.const (v - 8))
  else if 16 ≤ v && v ≤ 23 then some (.stage (v - 16))
  else Option.none

/-- Formats of R171, by code. -/
def vecFmt : Nat → Option Fmt
  | 0 => some .fp32
  | 1 => some .bf16
  | 2 => some .bs8
  | 3 => some .bs4
  | 4 => some .e4m3
  | 5 => some .e5m2
  | _ => none

/-- An input stream: kind 1 ELEMENT, 2 ROW, 3 COLUMN. -/
structure VecIn where
  addr : Nat
  fmt : Fmt
  kind : Nat
  stride : Nat
  phase : Nat
  deriving DecidableEq, Repr

/-- A stage. -/
structure VecStage where
  op : VecOp
  srcs : List Src
  imm : Nat
  deriving DecidableEq, Repr

/-- An element output. -/
structure VecOut where
  addr : Nat
  fmt : Fmt
  forced : Option Nat
  src : Nat
  stride : Nat
  phase : Nat
  deriving DecidableEq, Repr

/-- The parameters of R105. -/
structure VecArgs where
  m : Nat
  l : Nat
  ins : List (Option VecIn)
  consts : List W32
  stages : List (Option VecStage)
  outs : List VecOut
  reds : List (Nat × Nat)
  packed : Bool
  tiled : Bool
  perm : Nat
  deriving DecidableEq, Repr

/-- Collects a list of options. -/
def allSome {α : Type} : List (Option α) → Option (List α)
  | [] => some []
  | Option.none :: _ => Option.none
  | some x :: r => (allSome r).map (x :: ·)

/-- IN `i`: none where a code is not listed; kind 0 is an unused stream, whose other bytes hold listed codes too, or 0, and whose
address names no device (R495). -/
def vecIn (b : List Byte) (i : Nat) : Option (Option VecIn) :=
  let o := 8 + 12 * i
  let kind := fieldAt b (o + 9) 1
  if kind = 0 then
    if (vecFmt (fieldAt b (o + 8) 1)).isSome && fieldAt b (o + 10) 1 ≤ 2 && fieldAt b (o + 11) 1 ≤ 1
        && bitsOf (fieldAt b o 8) 44 20 == 0 then some Option.none
    else Option.none
  else match vecFmt (fieldAt b (o + 8) 1) with
    | Option.none => Option.none
    | some f =>
      let x : VecIn := { addr := fieldAt b o 8, fmt := f, kind := kind, stride := fieldAt b (o + 10) 1
                         phase := fieldAt b (o + 11) 1 }
      if kind ≤ 3 && (x.stride == 1 || x.stride == 2) && x.phase ≤ 1 then some (some x) else Option.none

/-- STAGE `i`: none where a code is not listed; opcode 0 is an unused stage, whose bytes 4 and 5 are 0. -/
def vecStage (b : List Byte) (i : Nat) : Option (Option VecStage) :=
  let o := 60 + 6 * i
  let code := fieldAt b o 1
  if code = 0 then
    if zeroAt b (o + 4) 2 && (List.range 3).all fun j => (srcOf (fieldAt b (o + 1 + j) 1)).isSome then some Option.none
    else Option.none
  else match vecOps[code - 1]?, allSome ((List.range 3).map fun j => srcOf (fieldAt b (o + 1 + j) 1)) with
    | some op, some ss =>
      let imm := fieldAt b (o + 4) 2
      let shuffle := op == .shufXor || op == .shufRot || op == .shufBcast
      let used := ss.take op.arity
      let ok := used.all (fun s => s != Src.none) && (ss.drop op.arity).all (fun s => s == Src.none)
        && (shuffle || imm == 0) && decide (imm < 512)
        && used.all fun s => match s with
          | .stage j => decide (j < i)
          | _ => true
      if ok then some (some { op := op, srcs := used, imm := imm }) else Option.none
    | _, _ => Option.none

/-- OUT `i`: none where a code is not listed; source 0 is an unused output, whose other bytes hold listed codes and bits too, and
whose address names no device (R495). -/
def vecOut (b : List Byte) (i : Nat) : Option (Option VecOut) :=
  let o := 108 + 12 * i
  let s := fieldAt b (o + 9) 1
  if s = 0 then
    if fieldAt b (o + 8) 1 < 16 && fieldAt b (o + 8) 1 % 8 < 4 && fieldAt b (o + 10) 1 < 4
        && bitsOf (fieldAt b o 8) 44 20 == 0 then some Option.none
    else Option.none
  else match vecFmt (fieldAt b (o + 8) 1 % 8), srcOf s with
    | some f, some (.stage j) =>
      let g := fieldAt b (o + 8) 1
      let h := fieldAt b (o + 10) 1
      let blockFmt := f == .bs8 || f == .bs4
      let forced := bitOf g 3
      if g < 16 && (blockFmt || f == .fp32 || f == .bf16) && (!forced || blockFmt) && h < 4
          && (!forced || decide (fieldAt b (o + 11) 1 ≤ 254)) then
        some (some { addr := fieldAt b o 8, fmt := f, forced := if forced then some (fieldAt b (o + 11) 1) else Option.none
                     src := j, stride := bitsOf h 0 1 + 1, phase := bitsOf h 1 1 })
      else Option.none
    | _, _ => Option.none

/-- RED `i` as (address, source stage). -/
def vecRed (b : List Byte) (i : Nat) : Option (Option (Nat × Nat)) :=
  let v := fieldAt b (132 + 8 * i) 8
  let s := bitsOf v 48 8
  if bitsOf v 44 4 ≠ 0 || bitsOf v 56 8 ≠ 0 then Option.none
  else if s = 0 then some Option.none
  else match srcOf s with
    | some (.stage j) => some (some (bitsOf v 0 44, j))
    | _ => Option.none

/-- The fields of a VECTOR_OP block; none where a code is not listed or a reserved field is not 0. The limits of R105 to
R108 are judged by `VecArgs.ok`. -/
def vecArgs (b : List Byte) : Option VecArgs :=
  match allSome ((List.range 3).map (vecIn b)), allSome ((List.range 8).map (vecStage b)),
    allSome ((List.range 2).map (vecOut b)), allSome ((List.range 2).map (vecRed b)) with
  | some ins, some stages, some outs, some reds =>
    let f := fieldAt b 148 1
    if f < 4 && zeroAt b 149 3 && bitsOf (fieldAt b 152 8) 44 20 == 0 then
      some { m := fieldAt b 0 4, l := fieldAt b 4 4, ins := ins
             consts := (List.range 4).map fun i => BitVec.ofNat 32 (fieldAt b (44 + 4 * i) 4)
             stages := stages, outs := outs.filterMap id, reds := reds.filterMap id, packed := bitOf f 0
             tiled := bitOf f 1, perm := fieldAt b 152 8 }
    else Option.none
  | _, _, _, _ => Option.none

/-! ### REDUCE (R285) -/

/-- The arguments of REDUCE. -/
structure ReduceArgs where
  job : Nat
  ring : Bool
  probeExp : Nat
  count : Nat
  index : Nat
  deadlineUs : Nat
  n : Nat
  src : Nat
  region : Nat
  regionBytes : Nat
  list : Nat
  deriving DecidableEq, Repr

/-- The fields of a REDUCE block; none where a reserved field is not 0 or a limit of R285 is broken. -/
def reduceArgs (b : List Byte) : Option ReduceArgs :=
  let pe := fieldAt b 3 1
  let x : ReduceArgs :=
    { job := fieldAt b 0 2, ring := bitOf (fieldAt b 2 1) 0, probeExp := if pe = 0 then 116 else pe
      count := fieldAt b 4 4, index := fieldAt b 8 4, deadlineUs := fieldAt b 12 4, n := fieldAt b 16 8
      src := fieldAt b 24 8, region := fieldAt b 32 8, regionBytes := fieldAt b 40 8, list := fieldAt b 48 8 }
  if x.job < 4096 && fieldAt b 2 1 < 2 && pe ≤ 254 && zeroAt b 56 8 && 1 ≤ x.count && x.count ≤ 4096
      && x.index < x.count && 32 ≤ x.n && aligned x.n 32 && aligned x.region 4096 && aligned x.list 8 then some x
  else none

/-! ### UPDATE and OUTER_ROUND (R201, R329) -/

/-- The header of UPDATE. -/
structure UpdateHead where
  lr : W32
  beta1 : W32
  beta2 : W32
  eps : W32
  wd : W32
  gradMul : W32
  eps1 : W32
  count : Nat
  rms : Bool
  deriving DecidableEq, Repr

/-- An FP32 word at an offset. -/
def wordAt (b : List Byte) (o : Nat) : W32 := BitVec.ofNat 32 (fieldAt b o 4)

/-- The fields of the UPDATE header. -/
def updateHead (b : List Byte) : UpdateHead where
  lr := wordAt b 0
  beta1 := wordAt b 4
  beta2 := wordAt b 8
  eps := wordAt b 12
  wd := wordAt b 16
  gradMul := wordAt b 20
  eps1 := wordAt b 24
  count := fieldAt b 28 2
  rms := bitOf (fieldAt b 30 1) 0

/-- Reserved fields and limits of the UPDATE header. -/
def updateHeadOk (b : List Byte) : Bool :=
  let n := fieldAt b 28 2
  decide (1 ≤ n) && decide (n ≤ 127) && decide (fieldAt b 30 1 < 2) && zeroAt b 31 33

/-- An entry of UPDATE. -/
structure UpdateEntry where
  handle : Nat
  localGrad : Bool
  ndest : Nat
  job : Nat
  grad : Nat
  dest : Nat
  deriving DecidableEq, Repr

/-- Entry `i` of an UPDATE block. -/
def updateEntry (b : List Byte) (i : Nat) : UpdateEntry :=
  let o := 64 + 32 * i
  { handle := fieldAt b o 2, localGrad := bitOf (fieldAt b (o + 2) 1) 0, ndest := fieldAt b (o + 3) 1
    job := fieldAt b (o + 4) 2, grad := fieldAt b (o + 8) 8, dest := fieldAt b (o + 16) 8 }

/-- Reserved fields and limits of an entry. -/
def updateEntryOk (b : List Byte) (i : Nat) : Bool :=
  let o := 64 + 32 * i
  decide (fieldAt b (o + 2) 1 < 2) && decide (fieldAt b (o + 3) 1 ≤ 31) && decide (fieldAt b (o + 4) 2 < 4096)
    && zeroAt b (o + 6) 2 && zeroAt b (o + 24) 8

/-- The header of OUTER_ROUND. -/
structure OuterHead where
  round : Nat
  apply : Bool
  count : Nat
  boundary : W64
  lrO : W32
  mu : W32
  deriving DecidableEq, Repr

/-- The fields of the OUTER_ROUND header. -/
def outerHead (b : List Byte) : OuterHead where
  round := fieldAt b 0 4
  apply := bitOf (fieldAt b 4 1) 0
  count := fieldAt b 5 2
  boundary := BitVec.ofNat 64 (fieldAt b 8 8)
  lrO := wordAt b 16
  mu := wordAt b 20

/-- Reserved fields and limits of the OUTER_ROUND header; BOUNDARY_STEP is 0 for APPLY. -/
def outerHeadOk (b : List Byte) : Bool :=
  let n := fieldAt b 5 2
  decide (1 ≤ n) && decide (n ≤ 127) && decide (fieldAt b 4 1 < 2) && zeroAt b 7 1 && zeroAt b 24 40
    && (!bitOf (fieldAt b 4 1) 0 || zeroAt b 8 8)

/-- Entry `i` of OUTER_ROUND: HANDLE, NDEST, DEST_LIST. -/
def outerEntry (b : List Byte) (i : Nat) : Nat × Nat × Nat :=
  let o := 64 + 32 * i
  (fieldAt b o 2, fieldAt b (o + 2) 1, fieldAt b (o + 8) 8)

/-- Reserved fields and limits of an entry; SEND has no destinations. -/
def outerEntryOk (b : List Byte) (i : Nat) : Bool :=
  let o := 64 + 32 * i
  let apply := bitOf (fieldAt b 4 1) 0
  decide (fieldAt b (o + 2) 1 ≤ 31) && zeroAt b (o + 3) 5 && zeroAt b (o + 16) 16
    && (apply || (zeroAt b (o + 2) 1 && zeroAt b (o + 8) 8))

/-! ### SHARD_EXPORT, SHARD_IMPORT, SIPHON and STAGE_SEND (R218, R219, R344, R353, R354) -/

/-- The arguments of SHARD_EXPORT. -/
structure ExportArgs where
  handle : Nat
  set : Nat
  dst : Nat
  dstLen : Nat
  tc : Nat
  deriving DecidableEq, Repr

/-- The fields of a SHARD_EXPORT block. -/
def exportArgs (b : List Byte) : Option ExportArgs :=
  let x : ExportArgs :=
    { handle := fieldAt b 0 2, set := fieldAt b 2 1, dst := fieldAt b 8 8, dstLen := fieldAt b 16 8
      tc := if bitOf (fieldAt b 24 1) 0 then 2 else 0 }
  if x.set ≤ 2 && zeroAt b 3 5 && fieldAt b 24 1 < 2 && zeroAt b 25 7 && aligned x.dst 32 then some x else none

/-- The fields of a SHARD_IMPORT block: HANDLE, SRC, TC. -/
def importArgs (b : List Byte) : Option (Nat × Nat × Nat) :=
  if zeroAt b 2 6 && fieldAt b 16 1 < 2 && zeroAt b 17 15 then
    some (fieldAt b 0 2, fieldAt b 8 8, if bitOf (fieldAt b 16 1) 0 then 2 else 0)
  else none

/-- Saved-record modes of R351: 0 COPY, 1 BS8, 2 BS4, 3 MASK. -/
structure SiphonArgs where
  src : Nat
  dst : Nat
  rows : Nat
  l : Nat
  mode : Nat
  srcBf16 : Bool
  tag : Nat
  dstLen : Nat
  out : Nat
  deriving DecidableEq, Repr

/-- The fields of a SIPHON_SAVE or SIPHON_LOAD block, with the limits that their bytes alone decide. -/
def siphonArgs (isLoad : Bool) (b : List Byte) : Option SiphonArgs :=
  let f := fieldAt b 24 1
  let x : SiphonArgs :=
    { src := fieldAt b 0 8, dst := fieldAt b 8 8, rows := fieldAt b 16 4, l := fieldAt b 20 4, mode := bitsOf f 0 2
      srcBf16 := bitOf f 2, tag := fieldAt b 28 4, dstLen := if isLoad then 0 else fieldAt b 32 8
      out := if isLoad then bitsOf (fieldAt b 25 1) 0 2 else 0 }
  let reserved := if isLoad then fieldAt b 25 1 < 4 && zeroAt b 26 2 && zeroAt b 32 16
    else zeroAt b 25 3 && zeroAt b 40 8
  let place := if isLoad then aligned x.dst 32 else aligned x.src 32 && aligned x.dst 64
  if f < 8 && reserved && place && 1 ≤ x.rows && x.rows ≤ 16777216 && 1 ≤ x.l && x.l ≤ 1048576
      && (x.mode == 0 || aligned x.l 32) then some x else none

/-- The arguments of STAGE_SEND. -/
structure StageArgs where
  loc : Nat
  remote : Nat
  bytes : Nat
  channel : Nat
  receive : Bool
  peerCtx : Nat
  peer : Nat
  deriving DecidableEq, Repr

/-- The fields of a STAGE_SEND block. -/
def stageArgs (b : List Byte) : Option StageArgs :=
  let x : StageArgs :=
    { loc := fieldAt b 0 8, remote := fieldAt b 8 8, bytes := fieldAt b 16 8, channel := fieldAt b 24 4
      receive := bitOf (fieldAt b 28 1) 0, peerCtx := fieldAt b 29 1, peer := fieldAt b 32 4 }
  if fieldAt b 28 1 < 2 && x.peerCtx < 16 && zeroAt b 30 2 && x.peer < 2 ^ 20 && zeroAt b 36 12
      && aligned x.loc 32 && aligned x.remote 32 && 32 ≤ x.bytes && x.bytes ≤ 2 ^ 32 && aligned x.bytes 32
      && (if x.receive then x.remote == 0 else x.peer == 0) then some x else none

end Sys2Proof.Machine
end

