-- ==== Sys2Proof/Machine/Ring.lean ====
section
/-! DEFINITION. Ring entries, progress slots, LAST_SEQ and HEAD, and the removal of units: what the ditch rider keeps of a
context's commands (R164 to R187), below the sluice. -/

namespace Sys2Proof.Machine

open Sys2Proof

/-! ### Opcodes (R168, R183) -/

/-- NOP -/
def opNop : Nat := 0x0000
/-- MARKER -/
def opMarker : Nat := 0x0001
/-- ARRAY_OP -/
def opArray : Nat := 0x0010
/-- FLUME_OP -/
def opFlume : Nat := 0x0011
/-- VECTOR_OP -/
def opVector : Nat := 0x0020
/-- MOVE -/
def opMove : Nat := 0x0030
/-- STEP_BEGIN -/
def opStepBegin : Nat := 0x0040
/-- STEP_END -/
def opStepEnd : Nat := 0x0041
/-- REDUCE -/
def opReduce : Nat := 0x0050
/-- UPDATE -/
def opUpdate : Nat := 0x0060
/-- SHARD_EXPORT -/
def opExport : Nat := 0x0061
/-- SHARD_IMPORT -/
def opImport : Nat := 0x0062
/-- SIPHON_SAVE -/
def opSave : Nat := 0x0070
/-- SIPHON_LOAD -/
def opLoad : Nat := 0x0071
/-- STAGE_SEND -/
def opStage : Nat := 0x0072
/-- OUTER_ROUND -/
def opOuter : Nat := 0x0080

/-- The opcodes of R168. -/
def listedOpcodes : List Nat :=
  [opNop, opMarker, opArray, opFlume, opVector, opMove, opStepBegin, opStepEnd, opReduce, opUpdate, opExport, opImport,
    opSave, opLoad, opStage, opOuter]

/-- ENGINE of CTX_PROGi_A (R183). -/
def engineOf (op : Nat) : Nat :=
  if op = opArray then 1
  else if op = opFlume then 2
  else if op = opVector then 3
  else if [opMove, opExport, opImport, opSave, opLoad, opStage].contains op then 4
  else if [opUpdate, opOuter].contains op then 5
  else if op = opReduce then 6
  else 7

/-- Opcodes whose arguments are in an argument block (R168). -/
def takesBlock (op : Nat) : Bool := !([opNop, opMarker, opStepBegin, opStepEnd].contains op)

/-- The length that ARG_LEN must have, given COUNT of the block for UPDATE and OUTER_ROUND (R168, R201, R329, R344). -/
def blockLength (op count : Nat) : Nat :=
  if op = opArray then 64
  else if op = opFlume then 64
  else if op = opVector then 160
  else if op = opMove then 48
  else if op = opReduce then 64
  else if op = opUpdate then 64 + 32 * count
  else if op = opExport then 32
  else if op = opImport then 32
  else if op = opSave then 48
  else if op = opLoad then 48
  else if op = opStage then 48
  else 64 + 32 * count

/-- The commands that R168 lets run speculatively; MOVE only when both sides are local. -/
def speculable (op : Nat) (localMove : Bool) : Bool :=
  [opNop, opArray, opFlume, opVector, opStepBegin, opSave, opLoad].contains op || (op == opMove && localMove)

/-! ### Entries (R166) -/

/-- The fields of the 64 bytes of an entry. -/
def entryOf (bs : List Byte) : Entry where
  seq := BitVec.ofNat 32 (fieldAt bs 0 4)
  wait := BitVec.ofNat 32 (fieldAt bs 4 4)
  opcode := fieldAt bs 8 2
  notify := bitOf (fieldAt bs 10 1) 0
  indirect := bitOf (fieldAt bs 10 1) 1
  noSpec := bitOf (fieldAt bs 10 1) 2
  phase := fieldAt bs 11 1 % 4
  layer := fieldAt bs 12 2 % 4096
  micro := fieldAt bs 14 1
  energy := fieldAt bs 16 4
  argLen := fieldAt bs 20 4
  args := (bs.drop 24).take 40

/-- Reserved bytes of the inline arguments of an opcode, beginning at byte 24 of the entry. -/
def inlineReservedOk (op : Nat) (bs : List Byte) : Bool :=
  if op = opNop then zeroAt bs 24 40
  else if op = opMarker then decide (fieldAt bs 32 1 < 2) && zeroAt bs 33 31
  else if op = opStepBegin then decide (fieldAt bs 32 1 < 2) && zeroAt bs 33 31
  else if op = opStepEnd then zeroAt bs 32 32
  else true

/-- Every reserved field of the entry is 0 (R9, R166). -/
def entryReservedOk (bs : List Byte) : Bool :=
  let e := entryOf bs
  decide (fieldAt bs 10 1 < 8) && decide (fieldAt bs 11 1 < 4) && decide (fieldAt bs 12 2 < 4096) && zeroAt bs 15 1
    && (if e.indirect then zeroAt bs 32 32 else zeroAt bs 20 4 && inlineReservedOk e.opcode bs)

/-- WAIT lies in the range of R167. -/
def waitOk (e : Entry) : Bool := let k := dist32 e.wait e.seq; decide (1 ≤ k) && decide (k ≤ 2 ^ 31)

/-- R166: what the device checks when it reads an entry that should carry `seq`. -/
def entryOk (seq : W32) (bs : List Byte) : Bool :=
  let e := entryOf bs
  e.seq == seq && waitOk e && listedOpcodes.contains e.opcode && entryReservedOk bs

/-- A WAIT is met when LAST_SEQ has reached it (R167). -/
def waitMet (last wait : W32) : Bool := decide (dist32 wait last < 2 ^ 31)

/-! ### Commands of a context -/

/-- The outstanding command SEQ. -/
def Ctx.cmd? (x : Ctx) (seq : W32) : Option Cmd := x.cmds.find? fun k => k.entry.seq == seq

/-- Changes the outstanding command SEQ. -/
def Dev.modCmd (d : Dev) (c : Fin 16) (seq : W32) (f : Cmd → Cmd) : Dev :=
  d.modCtx c fun x => { x with cmds := mapWhere (fun k => k.entry.seq == seq) f x.cmds }

/-- Frees the slot of the command SEQ. -/
def Dev.dropCmd (d : Dev) (c : Fin 16) (seq : W32) : Dev :=
  d.modCtx c fun x => { x with cmds := x.cmds.filter fun k => k.entry.seq != seq }

/-- Moves a 32-bit mark over the longest run of listed values behind it; one value for each unit of fuel. -/
def advance32 : Nat → W32 → List W32 → W32 × List W32
  | 0, m, l => (m, l)
  | n + 1, m, l => if l.contains (m + 1) then advance32 n (m + 1) (l.erase (m + 1)) else (m, l)

/-- Records completed sequence numbers and moves LAST_SEQ over its prefix (R183). -/
def Ctx.complete (x : Ctx) (seqs : List W32) : Ctx :=
  let l := x.doneSeqs ++ seqs
  let r := advance32 l.length x.lastSeq l
  { x with lastSeq := r.1, doneSeqs := r.2 }

/-- Records released entries by ring index and moves HEAD over its prefix (R175). -/
def Ctx.release (x : Ctx) (idx : List W32) : Ctx :=
  let l := x.freed ++ idx
  let r := advance32 l.length (x.head - 1) l
  { x with head := r.1 + 1, freed := r.2 }

/-- The indices from `a` to `b` inclusive, counted modulo 2^32. -/
def indices (a b : W32) : List W32 := (List.range (dist32 a b + 1)).map fun i => a + BitVec.ofNat 32 i

/-- Whether a ring index belongs to a step (R175). -/
def StepSpan.has (sp : StepSpan) (i : W32) : Bool :=
  match sp.endIndex with
  | none => decide (dist32 sp.beginIndex i < 2 ^ 31)
  | some e => decide (dist32 sp.beginIndex i ≤ dist32 sp.beginIndex e)

/-- The step at a ring index: the one in force (0), the next (1), or none. -/
def Ctx.spanOf (x : Ctx) (i : W32) : Option StepSpan := x.steps.find? fun sp => sp.has i

/-- The place of a ring entry's step among the steps read and not resolved: 0 is the oldest. -/
def Ctx.spanPos (x : Ctx) (i : W32) : Option Nat := x.steps.findIdx? fun sp => sp.has i

/-- Rows and columns of the chunks of a VECTOR_OP of L elements a row (R118, R121): the largest that the limits allow. -/
def chunkShape (l : Nat) (tiled : Bool) : Nat × Nat :=
  if tiled then (if 32768 < l then (32, 32768) else (min 512 (2 ^ 20 / l) / 32 * 32, l))
  else (min 512 (max 1 (2 ^ 20 / l)), l)

/-- Rows of a chunk and chunks across a row of a VECTOR_OP, from its argument block. -/
def Cmd.chunks (k : Cmd) : Nat × Nat :=
  let l := fieldAt k.args 4 4
  let s := chunkShape l (bitOf (fieldAt k.args 148 1) 1)
  (s.1, ceilDiv l s.2)

/-- Units that a command releases: chunks of a VECTOR_OP (R121), four parts for each vector of a FLUME_OP (R61), and the
descriptor of an export after its payload (R218); otherwise UNITS_TOTAL. -/
def Cmd.units (k : Cmd) : Nat :=
  if k.entry.opcode = opFlume then 4 * k.total
  else if k.entry.opcode = opVector then ceilDiv k.total k.chunks.1 * k.chunks.2
  else if k.entry.opcode = opExport then k.total + 1
  else k.total

/-- UNITS_DONE of a command (R183): vectors of a FLUME_OP, rows of a VECTOR_OP (R122). -/
def Cmd.unitsDone (k : Cmd) : Nat :=
  if k.entry.opcode = opFlume then prefixLen 0 k.did / 4
  else if k.entry.opcode = opVector then satTo k.total (prefixLen 0 k.did / k.chunks.2 * k.chunks.1)
  else satTo k.total (prefixLen 0 k.did)

/-- Places the completion event of a command with NOTIFY (R185). -/
def Dev.notify (d : Dev) (c : Fin 16) (k : Cmd) (status : Nat) : Dev :=
  if k.entry.notify && k.issued then d.event c k.entry.seq 0x0001 status k.total else d

/-- Restarts a context's watchdog (R399). -/
def Dev.feed (d : Dev) (c : Fin 16) : Dev := d.modCtx c fun x => { x with watchdogNs := 0 }

/-- The phases a command's issue and completion are measured in (R356). -/
def Meters.started (m : Meters) (k : Cmd) (now : Nat) : Meters :=
  let m := if k.entry.phase = 0 then m else
    match m.phaseFirst.toList.getD k.entry.phase none with
    | none => { m with phaseFirst := modVec m.phaseFirst k.entry.phase fun _ => some now }
    | some _ => m
  if k.entry.opcode = opReduce && m.redFirst.isNone then { m with redFirst := some now } else m

/-- The same at its completion. -/
def Meters.ended (m : Meters) (k : Cmd) (now : Nat) : Meters :=
  let m := if k.entry.phase = 0 then m else { m with phaseLast := modVec m.phaseLast k.entry.phase fun _ => now }
  if k.entry.opcode = opReduce then { m with redLast := now } else m

/-- Changes the meters a command's work counts in: those of the next step while it is speculative (R176). -/
def Dev.measure (d : Dev) (c : Fin 16) (k : Cmd) (f : Meters → Meters) : Dev :=
  if k.step.isNone then d
  else if k.spec then d.modSlc c fun s => { s with specMeters := f s.specMeters }
  else d.modMeters c f

/-- A step is open in a context (R245). -/
def Dev.stepOpen (d : Dev) (c : Fin 16) : Bool := (d.slc c).stepState != .idle

/-- R179: with no step open, a pending hold is reached once no issued command is left. -/
def Dev.holdIfQuiet (d : Dev) (c : Fin 16) : Dev :=
  let x := d.ctx c
  if x.holdPending && x.state == .running && !d.stepOpen c && x.cmds.all (fun k => !k.issued || k.ended.isSome) then
    d.setState c .holding 2
  else d

/-- The home controller of entry `i` of an UPDATE or OUTER_ROUND. -/
def Dev.homeOf (d : Dev) (k : Cmd) (i : Nat) : Option Nat :=
  ((d.upd.shards.find? fun e => e.1 == fieldAt k.args (64 + 32 * i) 2).map (·.2.home))

/-- Homes of the entries of a command of class 5 that have not completed. -/
def Dev.homesLeft (d : Dev) (k : Cmd) : List Nat :=
  ((List.range k.total).filter fun i => !k.did.contains i).filterMap (d.homeOf k)

/-- R206: the step waits for nothing but update entries homed on LPDDR5X controllers. Its STEP_END has been read, and
issues once they have completed (R234; DEDUCED, log 16). -/
def Dev.slowOnly (d : Dev) (c : Fin 16) : Bool :=
  let x := d.ctx c
  let s := d.slc c
  let mine := x.cmds.filter fun k => x.spanPos k.index == some 0 && k.entry.opcode != opStepEnd
  let slow := fun (k : Cmd) => k.issued && k.failing.isNone && (k.entry.opcode == opUpdate || k.entry.opcode == opOuter)
    && (d.homesLeft k).all fun h => decide (12 ≤ h)
  (x.state == .running || x.state == .draining) && s.stepState == .active && !s.overflow && s.ownAbort.isNone && (x.steps.head?).any (fun sp => sp.endIndex.isSome)
    && !mine.isEmpty && mine.all slow && d.upd.shards.all fun e => e.2.ctx != c || !e.2.imported || e.2.state == .staged

/-- The late controllers of a context's slow-tier wait. -/
def Dev.lateHomes (d : Dev) (c : Fin 16) : List Nat :=
  ((d.ctx c).cmds.filter fun k => k.issued && k.step.isSome && (k.entry.opcode == opUpdate || k.entry.opcode == opOuter)).foldl
    (fun l k => (d.homesLeft k).foldl (fun l h => if 12 ≤ h then insertAsc h l else l) l) []

/-- Marks when a slow-tier wait begins and ends (R206). -/
def Dev.noteSlow (d : Dev) (c : Fin 16) : Dev :=
  let s := d.slc c
  match s.slowSince, d.slowOnly c with
  | none, true => d.modSlc c fun s => { s with slowSince := some d.now }
  | some t, false =>
    let wait := d.now - t
    let d := d.modSlc c fun s => { s with slowSince := none, meters := { s.meters with slowNs := s.meters.slowNs + wait } }
    if s.stallReported then { d with upd := { d.upd with stallWaitMs := satTo 0xFFFFFFFF (wait / 1000000) } } else d
  | _, _ => d

/-- R173: a command completes with OK. LAST_SEQ moves on; an entry outside any step is released (R175). -/
def Dev.finishCmd (d : Dev) (c : Fin 16) (seq : W32) : Dev :=
  match (d.ctx c).cmd? seq with
  | none => d
  | some k =>
    let d := d.measure c k fun m => m.ended k d.now
    let d := d.modCtx c fun x =>
      let x := { x with cmds := x.cmds.filter fun k => k.entry.seq != seq, watchdogNs := 0 }
      let x := x.complete [seq]
      if k.step.isNone then x.release [k.index] else x
    let d := if k.entry.opcode = opStepEnd then d.modSlc c fun s => { s with stepEnded := true } else d
    ((d.notify c k stOk).noteSlow c).holdIfQuiet c

/-! ### Units -/

/-- Whether a unit is of context `c` and of a command that `p` selects. -/
def UnitRef.ofCmd (c : Fin 16) (p : W32 → Bool) (u : UnitRef) : Bool := u.ctx == c && p u.seq

/-- Removes units from one engine: accepted ones go, the running one completes with its writes suppressed (R177, R401);
where `atOnce`, as for update entries, the running one goes too. Units held for replay behind the one under replay go. -/
def Engine.remove (atOnce : Bool) (mine : UnitRef → Bool) (e : Engine) : Engine :=
  let units := match e.units with
    | [] => []
    | u :: r =>
      if mine u then (if atOnce then [] else [{ u with suppressed := true }]) ++ r.filter fun v => !mine v
      else u :: r.filter fun v => !mine v
  let replay := e.replay.map fun p =>
    { p with held := p.held.filter fun u => p.current == some u.ctx || !mine u }
  { e with units := units, replay := replay }

/-- Whether an outstanding request belongs to a command of context `c` that `p` selects. -/
def Owner.ofCmd (c : Fin 16) (p : W32 → Bool) : Owner → Bool
  | .culvert _ x s _ => x == c && p s
  | .stage x s _ _ => x == c && p s
  | .fetch x s => x == c && p s
  | .workCopy _ x s _ => x == c && p s
  | _ => false

/-- Requests that `p` selects keep their entries, but their replies will be discarded (R275). -/
def Dev.disown (d : Dev) (p : Owner → Bool) : Dev :=
  { d with fab := { d.fab with
    entries := d.fab.entries.map fun e => if p e.2.owner then (e.1, { e.2 with discard := true, waitUntil := none }) else e } }

/-- Removes the units of a context's commands that `p` selects from every engine. -/
def Dev.removeUnits (d : Dev) (c : Fin 16) (p : W32 → Bool) : Dev :=
  let mine := UnitRef.ofCmd c p
  let d := d.disown (Owner.ofCmd c p)
  { d with
    mxa := { d.mxa with arrays := d.mxa.arrays.map (Engine.remove false mine) }
    flm := { d.flm with flumes := d.flm.flumes.map (Engine.remove false mine) }
    vxe := { d.vxe with engines := d.vxe.engines.map (Engine.remove false mine) }
    clv := { d.clv with engines := d.clv.engines.map (Engine.remove false mine) }
    ctl := { d.ctl with engines := d.ctl.engines.map (Engine.remove true mine) } }

/-- The units that the engines hold for a context. -/
def Dev.unitsOf (d : Dev) (c : Fin 16) : List UnitRef :=
  allEngines.flatMap fun e => (d.engine e.1 e.2).units.filter fun u => u.ctx == c

/-- Whether a suppressed unit of the context still runs: its step is not begun again before it ends (R251;
DEDUCED, log 16). -/
def Dev.residual (d : Dev) (c : Fin 16) : Bool := (d.unitsOf c).any fun u => u.suppressed

/-- The lowest free progress slot. -/
def Ctx.freeSlot (x : Ctx) : Nat :=
  ((List.range 32).find? fun i => x.cmds.all fun k => k.slot != i).getD 0

/-- A unit of a command completes: it joins the completed units (R183). -/
def Cmd.unitDone (k : Cmd) (idx : Nat) : Cmd := { k with did := insertAsc idx k.did }

/-- Whether every unit of a command is complete. -/
def Cmd.allDone (k : Cmd) : Bool := decide (k.units ≤ k.did.length)

/-- Whether a command has a unit that can still be released. -/
def Cmd.hasUnit (k : Cmd) : Bool :=
  k.issued && k.failing.isNone && k.ended.isNone && k.withheld.isNone && (!k.requeued.isEmpty || decide (k.next < k.units))

/-- The next unit to release, and the command after its release. -/
def Cmd.takeUnit (k : Cmd) : Nat × Cmd :=
  match k.requeued with
  | i :: r => (i, { k with requeued := r })
  | [] => (k.next, { k with next := k.next + 1 })

/-- The overflow mode of a context (CTX_CREATE's OVF and DENYR bits). -/
def Ctx.mode (x : Ctx) : FpMode :=
  if bitOf x.flags 1 then .denyr else if bitOf x.flags 0 then .infinity else .saturate

/-- The overflow mode of culvert, update and reduction work, which follows the Potiram rules in a Denyr context too
(R84, R103). -/
def Ctx.ovf (x : Ctx) : FpMode := if bitOf x.flags 0 then .infinity else .saturate

/-- RUNAHEAD of a context (R176). -/
def Ctx.runahead (x : Ctx) : Nat := bitsOf x.flags 2 2

/-- DRY_STOP of a context (R361). -/
def Ctx.dryStop (x : Ctx) : Bool := bitOf x.flags 4

end Sys2Proof.Machine
end

