-- ==== Sys2Proof/Machine/Geometry.lean ====
section
/-! DEFINITION. How the units of ARRAY_OP, FLUME_OP, VECTOR_OP and MOVE divide their results (R40, R41, R61, R121, R154),
and what becomes of destination bytes beyond the progress mark when such a command ends without OK (R45, R122, R154). -/

namespace Sys2Proof.Machine

open Sys2Proof

/-! ### Array and flume operations (R40, R41, R47, R50, R61) -/

/-- The arithmetic of a mode: DENYR's own, otherwise the context's overflow mode. -/
def ArrayArgs.fp (x : ArrayArgs) (mode : FpMode) : FpMode := if x.mode = .denyr then .denyr else mode

/-- Columns of a column tile (R40): 64 where the cells work in pairs (R47, R49, R50; DEDUCED, log 13). -/
def ArrayArgs.tileCols (x : ArrayArgs) : Nat :=
  if x.mode = .bf16 || x.mode = .fp32x3 || x.mode = .cbf16 then 64 else 128

/-- Column tiles of a row group. -/
def ArrayArgs.colTiles (x : ArrayArgs) : Nat := ceilDiv x.n x.tileCols

/-- Output tiles of the operation (R40, R45). The spec does not say whether the progress mark of a complex operation counts the
tiles of each plane: a tile is one unit for both (DESIGN CHOICE, log 13). -/
def ArrayArgs.tiles (x : ArrayArgs) : Nat := ceilDiv x.m 512 * x.colTiles

/-- First row, rows, first column and columns of a tile. -/
def ArrayArgs.tile (x : ArrayArgs) (t : Nat) : Nat × Nat × Nat × Nat :=
  let r := 512 * (t / x.colTiles)
  let c := x.tileCols * (t % x.colTiles)
  (r, min 512 (x.m - r), c, min x.tileCols (x.n - c))

/-- Blocks along the reduction of one plane (R41, R50). -/
def ArrayArgs.blocks (x : ArrayArgs) : Nat := (if x.complex then 2 * x.k else x.k) / 32

/-- The split-K factor in force: DENYR runs as if S = 1 (R51). -/
def ArrayArgs.parts (x : ArrayArgs) : Nat := if x.mode = .denyr then 1 else x.s

/-- Blocks of a part (R41). -/
def ArrayArgs.partLen (x : ArrayArgs) : Nat := ceilDiv x.blocks x.parts

/-- Planes of the result. -/
def ArrayArgs.planeCount (x : ArrayArgs) : Nat := if x.complex then 2 else 1

/-- Sweeps over the whole reduction (R49). -/
def ArrayArgs.sweeps (x : ArrayArgs) : Nat := if x.mode = .fp32x3 then 3 else 1

/-- Passes of a tile: K chunks of 128, for each sweep, for each plane. -/
def ArrayArgs.passes (x : ArrayArgs) : Nat := x.planeCount * x.sweeps * ceilDiv x.blocks 4

/-- Plane, sweep and blocks of pass `i` of a tile. -/
def ArrayArgs.pass (x : ArrayArgs) (i : Nat) : Nat × Nat × List Nat :=
  let chunks := ceilDiv x.blocks 4
  let ch := i % chunks
  (i / (chunks * x.sweeps), i / chunks % x.sweeps, (List.range (min 4 (x.blocks - 4 * ch))).map (4 * ch + ·))

/-- BS8 operands. -/
def ArrayArgs.blocky (x : ArrayArgs) : Bool := x.mode == .bs8 || x.mode == .cbs8

/-- Bytes of an element of A and W. -/
def ArrayArgs.elemBytes (x : ArrayArgs) : Nat := if x.blocky then 1 else if x.mode = .fp32x3 then 4 else 2

/-- Size of one plane of A. -/
def ArrayArgs.aSize (x : ArrayArgs) : Nat :=
  if x.blocky then tensorBytes .bs8 (x.m * x.k) 32 else x.m * x.k * x.elemBytes

/-- Size of one plane of W: tiled where BS8 (R52, R68). -/
def ArrayArgs.wSize (x : ArrayArgs) : Nat :=
  if x.blocky then tensorBytes .bs8 (x.k * x.n) 1024 else x.k * x.n * x.elemBytes

/-- Size of one plane of Y. -/
def ArrayArgs.ySize (x : ArrayArgs) : Nat :=
  if x.out = .bs8 then tensorBytes .bs8 (x.m * x.n) 32 else x.m * x.n * x.out.size

/-- Size of one plane of E (R54). -/
def ArrayArgs.eSize (x : ArrayArgs) : Nat :=
  if x.epi = 0 then 0 else
    (if x.shape = 0 then x.m * x.n else if x.shape = 1 then x.n else x.m) * (if x.eBf16 then 2 else 4)

/-- Both planes of an operand, or the one. -/
def ArrayArgs.sides (x : ArrayArgs) (a n : Nat) : List (Nat × Nat) :=
  if x.complex then [(a, n), (a + x.im, n)] else [(a, n)]

/-- The columns of part `p` of four of a flume operation. R61 leaves it to the ditch rider where the four contiguous ranges are cut:
here at p/4 of the N/32 blocks, rounded down (DESIGN CHOICE, log 13). -/
def ArrayArgs.flumeCols (x : ArrayArgs) (p : Nat) : Nat × Nat :=
  let b := x.n / 32
  let lo := p * b / 4
  (32 * lo, 32 * ((p + 1) * b / 4 - lo))

/-- Bytes that tile `t` of the result covers (R40, R68). -/
def ArrayArgs.tileRuns (x : ArrayArgs) (t : Nat) : List (Nat × Nat) :=
  let (r, nr, c, nc) := x.tile t
  (List.range x.planeCount).flatMap fun plane =>
    let y := x.y + plane * x.im
    (List.range nr).flatMap fun i =>
      if x.out = .bs8 then
        [(y + (r + i) * x.n + c, nc), (y + expOffset .bs8 (x.m * x.n) + (r + i) * (x.n / 32) + c / 32, nc / 32)]
      else [(y + x.out.size * ((r + i) * x.n + c), x.out.size * nc)]

/-- Bytes that vector `m` of a flume operation's result covers (R61). -/
def ArrayArgs.vectorRuns (x : ArrayArgs) (m : Nat) : List (Nat × Nat) :=
  if x.out = .bs8 then
    [(x.y + m * x.n, x.n), (x.y + expOffset .bs8 (x.m * x.n) + m * (x.n / 32), x.n / 32)]
  else [(x.y + x.out.size * (m * x.n), x.out.size * x.n)]

/-! ### Vector operations (R68, R106, R121) -/

/-- Rows and columns of chunk `i`: first row, rows, first column, columns. -/
def VecArgs.chunk (x : VecArgs) (i : Nat) : Nat × Nat × Nat × Nat :=
  let s := chunkShape x.l x.tiled
  let across := ceilDiv x.l s.2
  let r := s.1 * (i / across)
  let c := s.2 * (i % across)
  (r, min s.1 (x.m - r), c, min s.2 (x.l - c))

/-- Bytes of an output's part of a row: `n` elements from column `c` of row `m`, row-major; a tiled output's rows come in
groups of 32, whose bytes its first row stands for. -/
def VecArgs.outRuns (x : VecArgs) (o : VecOut) (m c n : Nat) : List (Nat × Nat) :=
  let at_ := m * x.l + c
  if o.fmt = .bs4 then [(o.addr + at_ / 2, n / 2), (o.addr + expOffset .bs4 (x.m * x.l) + at_ / 32, n / 32)]
  else if o.fmt = .bs8 then
    if x.tiled then
      if m % 32 = 0 then
        let t := tileOf x.l m c
        [(o.addr + 1024 * t, 32 * n), (o.addr + expOffset .bs8 (x.m * x.l) + t, n / 32)]
      else []
    else [(o.addr + at_, n), (o.addr + expOffset .bs8 (x.m * x.l) + at_ / 32, n / 32)]
  else if o.stride = 1 then [(o.addr + o.fmt.size * at_, o.fmt.size * n)]
  else (List.range n).map fun j => (o.addr + o.fmt.size * (2 * (at_ + j) + o.phase), o.fmt.size)

/-- Bytes of row `m` of every output (R122). -/
def VecArgs.rowRuns (x : VecArgs) (m : Nat) : List (Nat × Nat) :=
  (x.outs.flatMap fun o => x.outRuns o m 0 x.l) ++ x.reds.map fun r => (r.1 + 4 * m, 4)

/-! ### Moves (R150 to R154) -/

/-- Elements of a source row of a CONVERT. -/
def MoveArgs.len (x : MoveArgs) : Nat :=
  match x.kind with
  | .convert f _ => convertLen f x.rowBytes
  | _ => x.rowBytes

/-- Destination rows, and bytes of elements of one. A tiled destination's row is a row of tiles (DEDUCED, log 14). -/
def MoveArgs.dstShape (x : MoveArgs) : Nat × Nat :=
  match x.kind with
  | .copy => (x.rows, x.rowBytes)
  | .transposeRaw e => (x.rowBytes / e, x.rows * e)
  | .transposeTiled => (x.rowBytes / 32, 32 * x.rows)
  | .convert _ false => (x.rows, x.len)
  | .convert _ true => (x.rows / 32, 32 * x.len)

/-- The pieces of one destination row: 64 KiB each (R154). -/
def MoveArgs.perRow (x : MoveArgs) : Nat := ceilDiv x.dstShape.2 65536

/-- The pieces of the move. -/
def MoveArgs.pieces (x : MoveArgs) : Nat := x.dstShape.1 * x.perRow

/-- Destination row, first byte in it and bytes of piece `i`. -/
def MoveArgs.piece (x : MoveArgs) (i : Nat) : Nat × Nat × Nat :=
  let off := 65536 * (i % x.perRow)
  (i / x.perRow, off, min 65536 (x.dstShape.2 - off))

/-- Elements and elements to an exponent of a block destination; none for a raw one. -/
def MoveArgs.blocked (x : MoveArgs) : Option (Nat × Nat) :=
  match x.kind with
  | .transposeTiled => some (x.rows * x.rowBytes, 1024)
  | .convert _ tiled => some (x.rows * x.len, if tiled then 1024 else 32)
  | _ => none

/-- Local destination bytes that piece `i` writes: elements, and exponents of a block tensor. -/
def MoveArgs.pieceRuns (x : MoveArgs) (i : Nat) : List (Nat × Nat) :=
  let (r, off, n) := x.piece i
  let dst := localOf x.dst
  match x.blocked with
  | none => [(dst + r * x.dstStride + off, n)]
  | some (els, per) =>
    let at_ := r * x.dstShape.2 + off
    [(dst + at_, n), (dst + expOffset .bs8 els + at_ / per, n / per)]

/-! ### Results beyond the progress mark (R45, R122, R154) -/

/-- Bytes of a command's local results beyond its progress mark; none for commands of which the manual leaves none
unspecified. -/
def Cmd.beyond (own : Nat) (k : Cmd) : List (Nat × Nat) :=
  let left := fun n => (List.range (n - k.unitsDone)).map (k.unitsDone + ·)
  if !k.issued then []
  else if k.entry.opcode = opArray then
    match arrayArgs k.args with
    | some x => (left k.total).flatMap x.tileRuns
    | none => []
  else if k.entry.opcode = opFlume then
    match arrayArgs k.args with
    | some x => (left k.total).flatMap x.vectorRuns
    | none => []
  else if k.entry.opcode = opVector then
    match vecArgs k.args with
    | some x => (left k.total).flatMap x.rowRuns
    | none => []
  else if k.entry.opcode = opMove then
    match moveArgs k.args with
    | some x => if fidOf x.dst = own then (left k.total).flatMap x.pieceRuns else []
    | none => []
  else []

/-- R45, R122, R154: results beyond the mark of a command that ended without OK hold unspecified data: free bytes
(log 2). -/
def Dev.leaveOpen (d : Dev) (k : Cmd) : Dev :=
  (k.beyond d.fab.id).foldl (fun d r =>
    let (bs, d) := d.drawBytes r.2
    (d.writeBytes r.1 bs).1) d

/-- Ends commands that `p` selects with ABORTED: completion events are placed and the slots cleared (R177). -/
def Dev.abortCmds (d : Dev) (c : Fin 16) (p : Cmd → Bool) : Dev :=
  let gone := (d.ctx c).cmds.filter p
  let d := d.removeUnits c fun s => gone.any fun k => k.entry.seq == s
  let d := d.modCtx c fun x => { x with cmds := x.cmds.filter fun k => !p k }
  gone.foldl (fun d k => if k.ended.isSome then d else ((d.leaveOpen k).notify c k stAborted).feed c) d

end Sys2Proof.Machine
end

