-- ==== Sys2Proof/Machine/Shards.lean ====
section
/-! DEFINITION. Shards: their shape and planes (R193 to R196, R216), and what a commit, an abort and a reset do to their
state (R198, R199). -/

namespace Sys2Proof.Machine

open Sys2Proof

/-! ### Shape -/

/-- Length of each range. -/
def Shard.lens (x : Shard) : List Nat := x.ranges.map fun r => r.2 - r.1

/-- The product of a list. -/
def product (l : List Nat) : Nat := l.foldl (· * ·) 1

/-- P: the shard's elements (R193). -/
def Shard.size (x : Shard) : Nat := product x.lens

/-- The length of the last axis, which is cols in a matrix layout. -/
def Shard.cols (x : Shard) : Nat := x.lens.getLast?.getD 1

/-- Rows of one matrix; 1 for VECTOR. -/
def Shard.rows (x : Shard) : Nat := if x.layout = 0 then 1 else (x.lens.reverse.getD 1 1)

/-- Matrices of the shard. -/
def Shard.mats (x : Shard) : Nat := x.size / (x.rows * x.cols)

/-- FORM [0]: factored. -/
def Shard.factored (x : Shard) : Bool := bitOf x.form 0
/-- FORM [1]: MOM present. -/
def Shard.hasMom (x : Shard) : Bool := bitOf x.form 1
/-- FORM [2]: MOM in BS8. -/
def Shard.momBs8 (x : Shard) : Bool := bitOf x.form 2
/-- FORM [3]: WC present. -/
def Shard.hasWc (x : Shard) : Bool := bitOf x.form 3

/-- Bytes of the planes W, REM, MOM, ROWV, COLV and WC; 0 for one that is absent (R195). -/
def Shard.planes (x : Shard) : List Nat :=
  let p := x.size
  [2 * p, p,
    if !x.hasMom then 0 else if x.momBs8 then alignUp p 32 + alignUp (p / 32) 32 else 2 * p,
    if x.factored then 4 * (p / x.cols) else 0,
    if x.factored then 4 * (p / x.rows) else 0,
    if x.hasWc then p + alignUp (p / 1024) 32 else 0]

/-- Sum of sizes, each rounded up to a multiple of `m`. -/
def sumAligned (m : Nat) (l : List Nat) : Nat := l.foldl (fun t n => t + alignUp n m) 0

/-- Offset of plane `i` in a slot (R195). -/
def Shard.planeOff (x : Shard) (i : Nat) : Nat := sumAligned 4096 (x.planes.take i)

/-- The slot size (R195). -/
def Shard.slotSize (x : Shard) : Nat := sumAligned 4096 x.planes

/-- Base of a slot. -/
def Shard.slotBase (x : Shard) (i : Nat) : Nat := if i = 0 then x.slot0 else x.slot1

/-- Base of the live slot, and of the staging slot (R197). -/
def Shard.liveBase (x : Shard) : Nat := x.slotBase x.live
/-- Base of the staging slot. -/
def Shard.stageBase (x : Shard) : Nat := x.slotBase (1 - x.live)

/-- The range pairs as 32 bytes, unused axes 0 (R216). -/
def Shard.rangeBytes (x : Shard) : List Byte :=
  padTo 32 (x.ranges.flatMap fun r => toLe 4 r.1 ++ toLe 4 r.2)

/-- The extents as 16 bytes, unused axes 0 (R216). -/
def Shard.extentBytes (x : Shard) : List Byte := padTo 16 (x.extent.flatMap (toLe 4))

/-- COORD_CHECK of R332. -/
def Shard.coordCheck (x : Shard) : W64 := shaCheck (toLe 4 x.tensor ++ x.rangeBytes)

/-! ### State changes -/

/-- State codes of SHARD_QUERY. -/
def ShardState.code : ShardState → Nat
  | .unseeded => 0
  | .seeded => 1
  | .staged => 2

/-- The coverage record of imports in the step, or of those outside any step (R222). -/
def Shard.coverBoxes (x : Shard) (inStep : Bool) : List (List (Nat × Nat)) := if inStep then x.boxes else x.outBoxes

/-- Changes a coverage record. -/
def Shard.withBoxes (x : Shard) (inStep : Bool) (l : List (List (Nat × Nat))) : Shard :=
  if inStep then { x with boxes := l } else { x with outBoxes := l }

/-- COLV has been set to 0 for a coverage record (R221). -/
def Shard.withColv (x : Shard) (inStep : Bool) : Shard :=
  if inStep then { x with colvCleared := true } else { x with outColv := true }

/-- A shard at the commit of step `n`: one that is STAGED becomes SEEDED and its live bit flips (R198, R247). -/
def Shard.commit (n : W64) (x : Shard) : Shard :=
  let x := if x.state = .staged then
    { x with state := .seeded, live := 1 - x.live, step := n, committed := true, outBoxes := [], outColv := false } else x
  { x with byImport := false, boxes := [], colvCleared := false, report := none, imported := false }

/-- A shard at an abort of its step, or a reset before the vote (R198): staging is discarded and the record of imports in
the step is cleared. -/
def Shard.discard (x : Shard) : Shard :=
  let st := if x.state = .staged then (if x.committed then .seeded else .unseeded) else x.state
  if x.imported || x.state = .staged || x.report.isSome then
    { x with state := st, byImport := false, boxes := [], colvCleared := false, report := none, imported := false }
  else x

/-- A shard whose partly imported live slot outside a step is given up by a context reset (R199). -/
def Shard.forget (x : Shard) : Shard :=
  if x.state = .unseeded then { x with outBoxes := [], outColv := false } else x

/-- Whether context `c` owns a shard. -/
def Shard.ofCtx (c : Fin 16) (x : Shard) : Bool := x.ctx == c

/-- The shards of a context with their handles, ascending. -/
def Dev.shardsOf (d : Dev) (c : Fin 16) : List (Nat × Shard) := d.upd.shards.filter fun e => e.2.ctx == c

/-- Whether an outstanding command reads a slot of a handle: an export, or the SEND of an outer round. The slots that were
live at its issue stand in `lists` (R218, R330). -/
def Cmd.reads (h slot : Nat) (k : Cmd) : Bool :=
  k.issued && k.ended.isNone &&
    ((k.entry.opcode == opExport && fieldAt k.args 0 2 == h && k.lists.getD 0 0 == slot)
      || (k.entry.opcode == opOuter && !bitOf (fieldAt k.args 4 1) 0
        && (List.range (fieldAt k.args 5 2)).any fun i =>
          fieldAt k.args (64 + 32 * i) 2 == h && k.lists.getD i 0 == slot && !k.did.contains i))

/-- Whether an export, a SEND or a checkpoint still reads a slot of a handle, so that its writers wait (R218, R330,
R455). -/
def Dev.pinned (d : Dev) (h slot : Nat) : Bool :=
  match d.shard? h with
  | none => false
  | some x => (d.ctx x.ctx).cmds.any (Cmd.reads h slot)
    || match d.cis.runs[x.ctx] with
      | some r => r.left.contains (h, slot)
      | none => false

/-- Whether an import of a handle is running. -/
def Dev.importing (d : Dev) (h : Nat) : Bool :=
  match d.shard? h with
  | none => false
  | some x => (d.ctx x.ctx).cmds.any fun k =>
      k.entry.opcode == opImport && k.issued && k.ended.isNone && fieldAt k.args 0 2 == h

end Sys2Proof.Machine
end

