-- ==== Sys2Proof/Machine/Sluice.lean ====
section
/-! DEFINITION. The sluice (R224 to R250): loss scale and agreed scales, records, the decision of an attempt, and what a
commit and an abort do. Layered from below: an abort is applied, then decided, then voted; a commit is applied on top of
that, since the next step's withheld failures vote at the commit point (R177), and then decided. -/

namespace Sys2Proof.Machine

open Sys2Proof

/-! ### Loss scale and agreed scales (R94 to R99, R250) -/

/-- The loss-scale state after an outcome (R94, R95, R100). -/
def lsAfter (ls : LossScale) (outer commit overflow : Bool) : LossScale :=
  if overflow then { s := ls.s - 1, warm := false, clean := 0 }
  else if commit && !outer then
    let clean := satTo 65535 (ls.clean + 1)
    if ls.s < 32 && (if ls.warm then 50 else 2000) ≤ clean then { ls with s := ls.s + 1, clean := 0 }
    else { ls with clean := clean }
  else ls

/-- Entry-wise maximum of two tables, 0xFF lowest (R239). -/
def combine (a b : List (Nat × Nat)) : List (Nat × Nat) :=
  b.foldl (fun t e => insertKey e.1 (if lookupD e.1 0 t < e.2 then e.2 else lookupD e.1 0 t) t) a

/-- The agreed-scale table after an outcome (R250): `by` is the change of s. -/
def scaleAfter (by_ : Int) (commit : Bool) (scale req : List (Nat × Nat)) : List (Nat × Nat) :=
  (if commit then combine scale req else scale).map fun e =>
    let v : Int := e.2 + by_
    (e.1, if v < 0 then 0 else if 254 < v then 254 else v.toNat)

/-- The outcome a decider computes for its own attempt (R250). -/
def Slc.outcome (s : Slc) (commit overflow byDeputy : Bool) (cause status : Nat) (abortBy : W32)
    (req : List (Nat × Nat)) : Record :=
  let ls := lsAfter s.ls s.outer commit overflow
  { step := s.step, attempt := s.attempt, commit := commit, overflow := overflow, kind := s.outer, byDeputy := byDeputy
    cause := cause, status := status, abortBy := abortBy, ls := ls
    table := scaleAfter ((ls.s : Int) - s.ls.s) commit s.scale req }

/-! ### Messages (R237) -/

/-- A message of this member for its own attempt. -/
def Dev.message (d : Dev) (c : Fin 16) : SluiceMsg :=
  let s := d.slc c
  { commit := false, overflow := false, kind := s.outer, byDeputy := false, cause := 0, status := 0, tag := s.tag
    check := s.check, step := s.step, attempt := s.attempt, sender := s.index, votes := 0
    abortBy := BitVec.allOnes 32, lsS := 0, lsWarm := false, lsClean := 0, time := BitVec.ofNat 64 d.tbNs, map := []
    src := d.fab.id }

/-- A message that carries a record. -/
def Dev.recordMessage (d : Dev) (c : Fin 16) (r : Record) : SluiceMsg :=
  { d.message c with
    commit := r.commit, overflow := r.overflow, kind := r.kind, byDeputy := r.byDeputy, cause := r.cause
    status := r.status, step := r.step, attempt := r.attempt, abortBy := r.abortBy, lsS := r.ls.s, lsWarm := r.ls.warm
    lsClean := r.ls.clean, map := r.table }

/-- The record that a message carries. -/
def recordOf (m : SluiceMsg) : Record where
  step := m.step
  attempt := m.attempt
  commit := m.commit
  overflow := m.overflow
  kind := m.kind
  byDeputy := m.byDeputy
  cause := m.cause
  status := m.status
  abortBy := m.abortBy
  ls := { s := m.lsS, warm := m.lsWarm, clean := m.lsClean }
  table := m.map

/-- Sends a message of a TYPE to member `i` of the ring: TC4, to the sluice's unit 17 (R237, R263). -/
def Dev.sendMember (d : Dev) (c : Fin 16) (i type : Nat) (m : SluiceMsg) : Dev :=
  let e := (d.slc c).members.getD i 0
  d.sendMsg 4 17 (e % 2 ^ 20) (e / 2 ^ 20 % 16) 0 (sluiceBytes type m)

/-- Sends OUTCOME once to every other member (R241, R242). -/
def Dev.broadcast (d : Dev) (c : Fin 16) (r : Record) : Dev :=
  (List.range (d.slc c).count).foldl
    (fun d i => if i = (d.slc c).index then d else d.sendMember c i msgOutcome (d.recordMessage c r)) d

/-- Sends QUERY for the own attempt to a member, and notes that the outcome is learnt by query (R243, R255). -/
def Dev.query (d : Dev) (c : Fin 16) (i : Nat) : Dev :=
  (d.modSlc c fun s => { s with queried := true }).sendMember c i msgQuery (d.message c)

/-- Keeps a record as warden or deputy (R242). -/
def Dev.keepRecord (d : Dev) (c : Fin 16) (r : Record) : Dev :=
  d.modSlc c fun s =>
    { s with records := r :: s.records.filter fun q => q.step != r.step || q.attempt != r.attempt }

/-- The record kept of an attempt. -/
def Slc.record? (s : Slc) (step : W64) (attempt : W32) : Option Record :=
  s.records.find? fun r => r.step == step && r.attempt == attempt

/-! ### Earlier and later attempts (R244, R346) -/

/-- Whether a (step, attempt) is later than another. -/
def attemptLater (s1 : W64) (a1 : W32) (s2 : W64) (a2 : W32) : Bool :=
  decide (s2.toNat < s1.toNat) || (s1 == s2 && decide (a2.toNat < a1.toNat))

/-- Whether a READY is for an attempt earlier than the receiver's. -/
def Slc.past (s : Slc) (m : ReadyMsg) : Bool :=
  !attemptLater m.step m.attempt s.step s.attempt && !(m.step == s.step && m.attempt == s.attempt)

/-- READY messages that have become earlier than the own attempt leave the table (R346). -/
def Dev.purgeReady (d : Dev) (c : Fin 16) : Dev :=
  { d with sip := { d.sip with ready := d.sip.ready.set c ((d.sip.ready[c]).filter fun m => !(d.slc c).past m) } }

/-! ### The ledger record of an attempt (R355, R356) -/

/-- The span of the own attempt: its ring entries', or the one noted when a re-arm dropped them. -/
def Dev.spanNow (d : Dev) (c : Fin 16) : Option StepSpan :=
  (((d.ctx c).steps.head?).filter (·.begun)).orElse fun _ => (d.slc c).span

/-- The local count when the own attempt's STEP_BEGIN issued. -/
def Dev.beganAt (d : Dev) (c : Fin 16) : Nat := ((d.spanNow c).map (·.beganAt)).getD d.now

/-- A duration of a phase, saturating, 0 with no command. -/
def phaseNs (first : Option Nat) (last : Nat) : Nat :=
  match first with
  | none => 0
  | some a => satTo 0xFFFFFFFF (last - a)

/-- The bytes of a KIND 0 to 2 record. -/
def Dev.attemptRecord (d : Dev) (c : Fin 16) (r : Record) (floor : Bool) (dry : List Nat) : List Byte :=
  let s := d.slc c
  let m := s.meters
  let tBegin := ((d.spanNow c).map (·.tBegin)).getD 0
  let began := d.beganAt c
  let ph := fun i => phaseNs (m.phaseFirst.toList.getD i none) (m.phaseLast.toList.getD i 0)
  let jobs := d.red.jobs.filter fun j => j.ctx == c && j.step == r.step && j.attempt == r.attempt
  let kind := if r.commit then (if r.kind then 1 else 0) else 2
  layout 256 [(8, 8, r.step.toNat), (16, 4, r.attempt.toNat), (20, 1, kind), (21, 1, c.val), (22, 1, s.ls.s),
    (23, 1, if r.commit then 0 else r.cause), (24, 8, tBegin), (32, 8, d.tbNs), (40, 4, ph 1), (44, 4, ph 2),
    (48, 4, ph 3), (52, 4, phaseNs m.redFirst m.redLast), (56, 4, satTo 0xFFFFFFFF m.recvNs),
    (60, 4, satTo 0xFFFFFFFF (m.readyNs.getD (d.now - began))),
    (64, 4, match s.readyAt with
      | some t => satTo 0xFFFFFFFF (d.now - t)
      | none => 0),
    (68, 4, satTo 0xFFFFFFFF m.slowNs), (72, 4, satTo 0xFFFFFFFF m.satCount), (76, 1, m.satSrc),
    (77, 1, packFields [(0, bit r.overflow), (1, bit m.stalled), (2, bit m.uncorrectable), (3, bit floor)]),
    (78, 1, m.stallMask), (80, 4, satTo 0xFFFFFFFF (jobs.foldl (fun t j => t + j.weirBlocks) 0)),
    (84, 2, (jobs.filter fun j => j.weirBlocks != 0).length), (86, 2, m.probeJobs), (88, 2, dry.length),
    (90, 2, dry.head?.getD 0), (92, 4, if kind = 1 then m.round else 0)]

/-! ### Applying an abort (R248) -/

/-- R267, R299: the jobs of the context's attempt are closed by an abort and give up their slots; answers to their pieces
will be discarded (R275). -/
def Dev.closeJobs (d : Dev) (c : Fin 16) : Dev :=
  let d := d.disown fun o => match o with
    | .piece x _ _ _ => x == c
    | _ => false
  { d with red := { d.red with
    jobs := d.red.jobs.map fun j => if j.ctx = c then { j with closed := true, slot := none } else j
    slots := d.red.slots.map fun o => match o with
      | some (k, j) => if k = c then none else some (k, j)
      | none => none } }

/-- The context's ring back at a step's STEP_BEGIN (R175). Entries outside any step that were read beyond it and have
completed stay complete and are not read again (DEDUCED, log 12). -/
def Ctx.rewind (x : Ctx) (sp : StepSpan) : Ctx :=
  let before := sp.beginSeq - 1
  let beyond := fun (i : W32) => decide (dist32 sp.beginIndex i < 2 ^ 31)
  let early := x.doneSeqs.filter fun s => !decide (dist32 sp.beginSeq s < 2 ^ 31)
  let late := (x.freed.filter beyond).map fun i => sp.beginSeq + (i - sp.beginIndex)
  { x with
    lastSeq := if waitMet x.lastSeq before then before else x.lastSeq
    doneSeqs := early ++ late
    readIdx := sp.beginIndex
    nextSeq := sp.beginSeq
    steps := []
    stopRead := false
    heldRefusal := none }

/-- The step's work and any speculative work go (R177, R236). -/
def Dev.removeStep (d : Dev) (c : Fin 16) : Dev :=
  if (d.ctx c).state = .faulted then d else d.abortCmds c fun k => k.step.isSome

/-- Clears what the sluice holds of an attempt. -/
def Slc.cleared (s : Slc) : Slc :=
  { s with
    frozen := false, deciding := false, readyAt := none, queryAt := none, queryDeputy := false, queried := false
    ownAbort := none, overflow := false, proposal := none, stepEnded := false, slowSince := none, stallReported := false
    require := [], span := none }

/-- Staging and coverage records of the step are discarded, and with them the APPLY that was staged (R198, R248). -/
def Dev.discardStaging (d : Dev) (c : Fin 16) : Dev :=
  let d := d.modShards (Shard.ofCtx c) Shard.discard
  { d with trn := { d.trn with enrols := mapWhere (fun e => e.ctx == c) (fun e => { e with applyStaged := false }) d.trn.enrols } }

/-- Whether a command is a receive that waits for its READY (R347). -/
def Cmd.waits (k : Cmd) : Bool :=
  k.issued && k.ended.isNone && k.entry.opcode == opStage && (stageArgs k.args).any (·.receive)

/-- The waits of an attempt that is voted down or aborted end: those of its receives and the slow tier's count in its record
(R356). -/
def Dev.endWaits (d : Dev) (c : Fin 16) : Dev :=
  let recv := (((d.ctx c).cmds.filter Cmd.waits).map fun k => d.now - k.waitSince).foldl (· + ·) 0
  d.modSlc c fun s =>
    let slow := match s.slowSince with
      | some t => d.now - t
      | none => 0
    { s with slowSince := none, meters := { s.meters with recvNs := s.meters.recvNs + recv, slowNs := s.meters.slowNs + slow } }

/-- R100, R140, R179: why a context holds after an aborted attempt, if it does. No rule orders the floor of the loss scale and a
repeated UNCORRECTABLE where both are met: the floor's cause is shown (DESIGN CHOICE, log 16). -/
def Dev.holdAfterAbort (d : Dev) (c : Fin 16) (floor : Bool) : Option Nat :=
  let x := d.ctx c
  if floor then some 3
  else if x.ueBefore && x.ueNow.isSome then some 4
  else if x.holdPending then some 2
  else none

/-- Places the events of a hold's cause (R100, R140): `ue` is the granule of a repeated UNCORRECTABLE. -/
def Dev.holdEvents (d : Dev) (c : Fin 16) (step : W64) (floor : Bool) (ue : Option Nat) : Dev :=
  let d := if floor then (d.eventAt c 0 0x000A 0 step 0).ledgerEvent (some c) 0x000A step 0 else d
  match ue with
  | some a => (d.eventAt c 0 0x0008 0 step a).ledgerEvent (some c) 0x0008 step a
  | none => d

/-- Moves a RUNNING context to HOLDING for a cause, with the events that say why; other states stay (R161, R180). -/
def Dev.holdFor (d : Dev) (c : Fin 16) (cause : Nat) (why : Dev → Dev) : Dev :=
  if (d.ctx c).state = .running then d.setStateWith c .holding cause why else why d

/-- Applies an abort of the own attempt (R246, R248). What has been read of the step, of one not yet begun too, is read again from
its STEP_BEGIN. -/
def Dev.applyAbort (d : Dev) (c : Fin 16) (r : Record) : Dev :=
  let s := d.slc c
  let wasIdle := s.stepState = .idle
  let floor := r.overflow && s.ls.s == 0
  let d := if s.stepState = .active then d.endWaits c else d
  let d := d.ledger (d.attemptRecord c r floor [])
  let d := ((d.removeStep c).closeJobs c).discardStaging c
  let d := d.modSlc c fun s =>
    { s.cleared with
      ls := r.ls, scale := r.table, attempt := s.attempt + 1, abortCause := r.cause, abortStatus := r.status
      abortOverflow := r.overflow, abortNew := true, abortBy := r.abortBy, abortStep := s.step, meters := {}
      specMeters := {}, specOverflow := false }
  let d := d.eventAt c 0 0x0010 r.status r.step
    (packFields [(0, r.cause), (8, r.status), (16, bit r.overflow), (32, r.abortBy.toNat)])
  let x := d.ctx c
  let ue := if x.ueBefore then x.ueNow else none
  let cause := d.holdAfterAbort c floor
  let d := if x.state = .faulted then d else
    match x.steps.head? with
    | some sp => d.modCtx c fun x => x.rewind sp
    | none => d
  let d := d.modCtx c fun x => { x with ueBefore := x.ueNow.isSome, ueNow := none }
  let why := fun (d : Dev) => d.holdEvents c r.step floor ue
  let d := match cause with
    | some k => d.holdFor c k why
    | none => why d
  let st := if !wasIdle && (d.ctx c).state = .running then StepState.active else .idle
  (d.modSlc c fun s => { s with stepState := st }).purgeReady c

/-! ### Deciding and voting abort (R236, R240) -/

/-- The warden decides abort, once per attempt: DECIDE goes to the deputy; alone, it applies it at once (R230, R240). -/
def Dev.decideAbort (d : Dev) (c : Fin 16) (cause status : Nat) (overflow : Bool) (abortBy : W32) : Dev :=
  let s := d.slc c
  if s.proposal.isSome then d else
    let r := s.outcome false overflow false cause status abortBy []
    if s.count ≤ 1 then (d.keepRecord c r).applyAbort c r
    else
      let d := d.modSlc c fun s =>
        { s with proposal := some r, deciding := true, decideAt := d.now + msNs s.queryNow }
      d.sendMember c 1 msgDecide (d.recordMessage c r)

/-- R236: the device votes abort on a step that it has not marked ready, and removes the step's work. A TOKEN of a later attempt
stays held (R244). -/
def Dev.voteAbort (d : Dev) (c : Fin 16) (cause status : Nat) (overflow : Bool) : Dev :=
  let s := d.slc c
  if s.stepState ≠ .active then d else
    let overflow := s.overflow || overflow
    let began := d.beganAt c
    let d := ((d.endWaits c).removeStep c).closeJobs c
    let d := d.modSlc c fun s =>
      { s with
        stepState := .repeatWait, ownAbort := some (cause, status), overflow := overflow
        queryAt := some (d.now + msNs s.queryNow)
        token := s.token.filter fun m => attemptLater m.step m.attempt s.step s.attempt
        meters := { s.meters with readyNs := some (d.now - began) } }
    if s.index = 0 then d.decideAbort c cause status overflow 0
    else d.sendMember c 0 msgAbortVote
      { d.message c with overflow := overflow, cause := cause, status := status }

/-- R97: an overflow of the present attempt is found; the device votes abort at once. -/
def Dev.overflowFound (d : Dev) (c : Fin 16) : Dev :=
  (d.modSlc c fun s => { s with overflow := true }).voteAbort c 1 stOk true

/-- An overflow found by work of a command: speculative work keeps it until the step before is decided (R177). -/
def Dev.noteOverflow (d : Dev) (c : Fin 16) (k : Cmd) : Dev :=
  if k.step.isNone then d
  else if k.spec then d.modSlc c fun s => { s with specOverflow := true }
  else d.overflowFound c

/-! ### Refusals and failures (R173, R174) -/

/-- R174: a command is refused at issue: it is not consumed, the event is placed, the context holds and the step's abort
is voted. `seq` and `op` are 0 for an entry that could not be read. -/
def Dev.refuse (d : Dev) (c : Fin 16) (idx seq nextSeq : W32) (op status : Nat) (inStep : Bool) : Dev :=
  let d := d.modCtx c fun x =>
    { x with
      cmds := x.cmds.filter fun k => k.index != idx
      readIdx := idx, nextSeq := nextSeq, stopRead := true }
  let d := if inStep && status = stUncorrectable then d.modMeters c fun m => { m with uncorrectable := true } else d
  let d := d.holdFor c 1 fun d => d.event c seq 0x0002 status op
  if inStep then d.voteAbort c 3 status false else d

/-- R166, R174: an entry is refused when it is read. The abort of its step is voted at once, or, where the step has not begun,
when it begins (DEDUCED, log 16). -/
def Dev.refuseEntry (d : Dev) (c : Fin 16) (i seq nextSeq : W32) (op status : Nat) : Dev :=
  let x := d.ctx c
  let pos := x.spanPos i
  let open_ := pos == some 0 && (x.steps.head?).any (·.begun)
  let mark := fun (sp : StepSpan) => if sp.beginIndex = i then sp else { sp with refused := some status }
  let d := match pos with
    | some p => if open_ then d else d.modCtx c fun x => { x with steps := x.steps.modify p mark }
    | none => d
  d.refuse c i seq nextSeq op status open_

/-- A command found wanting at issue: a speculative one keeps it until the step before is decided (R177). -/
def Dev.refuseCmd (d : Dev) (c : Fin 16) (k : Cmd) (status : Nat) : Dev :=
  if k.spec then
    (d.modCmd c k.entry.seq fun k => { k with withheld := some ⟨true, status⟩ }).modCtx c fun x =>
      { x with stopRead := true }
  else d.refuse c k.index k.entry.seq k.entry.seq k.entry.opcode status k.step.isSome

/-- R173: a command ends after issue with a failure. -/
def Dev.failCmd (d : Dev) (c : Fin 16) (seq : W32) (status : Nat) : Dev :=
  match (d.ctx c).cmd? seq with
  | none => d
  | some k =>
    if k.spec then d.modCmd c seq fun k => { k with withheld := some ⟨false, status⟩ }
    else
      let d := ((d.leaveOpen k).disown (Owner.ofCmd c (· == seq))).feed c
      if k.step.isSome then
        let d := d.notify c k status
        let d := if status = stUncorrectable then
          (d.modCtx c fun x => { x with ueNow := some k.ueAddr }).modMeters c fun m => { m with uncorrectable := true }
        else d
        (d.dropCmd c seq).voteAbort c 2 status false
      else
        (d.modCmd c seq fun k => { k with ended := some status }).holdFor c 8 fun d => d.notify c k status

/-- Marks a failure of one unit: no further unit is released, accepted ones are given up, and the command ends when its
running units have (R46, R123, R155). -/
def Dev.failUnit (d : Dev) (c : Fin 16) (seq : W32) (status addr : Nat) : Dev :=
  let d := d.modCmd c seq fun k =>
    { k with failing := some (k.failing.getD status), ueAddr := if k.failing.isNone then addr else k.ueAddr }
  let queued := fun (e : Engine) => { e with units := e.units.take 1 ++ (e.units.drop 1).filter fun u =>
    !(u.ctx == c && u.seq == seq) }
  d.mapEngines queued

/-- Whether a replay still holds a unit of a command (R404, R406). -/
def Dev.heldFor (d : Dev) (c : Fin 16) (seq : W32) : Bool :=
  allEngines.any fun e => ((d.engine e.1 e.2).replay).any fun r => r.held.any fun u => u.ctx == c && u.seq == seq

/-- Ends a failing command once no unit of it runs, or is held for replay. -/
def Dev.settle (d : Dev) (c : Fin 16) (seq : W32) : Dev :=
  match (d.ctx c).cmd? seq with
  | none => d
  | some k =>
    match k.failing with
    | some st =>
      if (d.unitsOf c).any (fun u => u.seq == seq && !u.suppressed) || d.heldFor c seq then d else d.failCmd c seq st
    | none => if k.issued && k.allDone && k.ended.isNone && k.withheld.isNone then d.finishCmd c seq else d

/-! ### Applying a commit (R247) -/

/-- The committed step record (R227). -/
def Dev.committedRecord (d : Dev) (c : Fin 16) (r : Record) : List Byte :=
  let s := d.slc c
  splice (layout 128 [(0, 8, r.step.toNat), (8, 4, r.attempt.toNat + 1), (12, 1, bit r.kind), (13, 1, r.ls.s),
    (14, 1, bit r.ls.warm), (16, 2, r.ls.clean), (24, 4, s.tag.toNat), (28, 4, s.count), (32, 8, s.check.toNat),
    (40, 8, d.tbNs)]) 48 (sha384 (mapBytes r.table))

/-- R453, R454: queues the journal entry's record and table, or drops it when 4,096 wait. -/
def Dev.queueJournal (d : Dev) (c : Fin 16) (r : Record) : Dev :=
  if 4096 ≤ d.cis.queue.length then
    ({ d with cis := { d.cis with dropped := satTo 0xFFFFFFFF (d.cis.dropped + 1) } }).eventAt c 0 0x0061 0 r.step
      r.step.toNat
  else { d with cis := { d.cis with queue := d.cis.queue ++ [(c.val, d.committedRecord c r ++ mapBytes r.table)] } }

/-- R359: the layers that are judged at an inner commit and whether each is dry; imports decide first. -/
def Dev.judgeLayers (d : Dev) (c : Fin 16) : List (Nat × Bool) :=
  let xs := (d.shardsOf c).map (·.2)
  let layers := (xs.filter fun x => x.report.isSome || (x.imported && x.state == .staged)).foldl
    (fun l x => insertAsc x.layer l) []
  layers.map fun l =>
    let mine := xs.filter fun x => x.layer == l
    let flags := mine.filterMap (·.report)
    (l, !(mine.any fun x => x.imported && x.state == .staged)
      && (flags.all (fun f => f.1) || flags.all fun f => f.2))

/-- R359, R360: the counts after an inner commit, and the layers that reach a report. -/
def Dev.dryCounts (d : Dev) (c : Fin 16) : List (Nat × Nat) × List Nat :=
  let th := d.ldg.threshold[c]
  (d.judgeLayers c).foldl (fun acc e =>
    let key := 4096 * c.val + e.1
    if e.2 then
      let n := satTo 0xFFFFFFFF (lookupD key 0 acc.1 + 1)
      (insertKey key n acc.1, if th != 0 && n % th == 0 then acc.2 ++ [e.1] else acc.2)
    else (eraseKey key acc.1, acc.2)) (d.ldg.dry, [])

/-- Sets every dry count of a context to 0: CTX_CREATE and ROLLBACK do (R359). -/
def Dev.clearDry (d : Dev) (c : Fin 16) : Dev :=
  { d with ldg := { d.ldg with dry := d.ldg.dry.filter fun e => e.1 / 4096 != c.val } }

/-- R331, R332: the commit of an outer transaction ends the round's APPLY of each shard: RELEASE goes to the partners
for the round that can no longer be applied, and its transmission is abandoned. -/
def Dev.turnoutMessage (d : Dev) (p : Partner) (spec round : Nat) (check : W64) : Dev :=
  let peer := ((d.trn.peers.find? fun e => e.1 == p.fid).map (·.2)).getD {}
  let slot := layout 36 [(0, 4, round), (4, 4, peer.sent), (8, 2, p.handle), (12, 8, check.toNat)]
  let peers := insertKey p.fid { peer with sent := (peer.sent + 1) % 2 ^ 32 } d.trn.peers
  ({ d with trn := { d.trn with peers := peers } }).sendMsg 6 18 p.fid p.ctx spec slot

/-- Changes the enrolment of a handle. -/
def Dev.modEnrol (d : Dev) (h : Nat) (f : Enrol → Enrol) : Dev :=
  { d with trn := { d.trn with enrols := d.trn.enrols.map fun e => if e.handle = h then f e else e } }

/-- Abandons the transmission of round `k` to a partner (R331). -/
def Dev.abandon (d : Dev) (c : Fin 16) (h k : Nat) (i : Nat) (p : Partner) : Dev :=
  if p.sending.contains k then
    let stop := fun (p : Partner) => { p with
      sending := p.sending.filter (· != k), acked := if p.sending.head? = some k then [] else p.acked }
    let d := d.modEnrol h fun e => { e with partners := modifyAt i stop e.partners }
    let d := d.disown fun o => match o with
      | .delta x j r => x == h && j == i && r == k
      | _ => false
    d.event c 0 0x0038 0 (packFields [(0, siteOf p.fid), (32, k)])
  else d

/-- The turnout's part of an outer commit for one enrolled shard. -/
def Dev.turnoutCommit (d : Dev) (c : Fin 16) (e : Enrol) : Dev :=
  let l := (d.trn.trns[c]).stale
  match e.frozenSet with
  | none => d
  | some (k, _) =>
    let check := ((d.shard? e.handle).map Shard.coordCheck).getD 0
    let d := d.modEnrol e.handle fun q => { q with lastApply := some k, applyStaged := false }
    if k < l then d else
      (e.partners.zip (List.range e.partners.length)).foldl (fun d p =>
        (d.turnoutMessage p.1 2 (k - l) check).abandon c e.handle (k - l) p.2 p.1) d

/-- The turnout's part of an outer commit. -/
def Dev.turnoutCommitAll (d : Dev) (c : Fin 16) : Dev :=
  let es := d.trn.enrols.filter fun e => e.ctx == c && e.applyStaged
  let d := es.foldl (fun d e => d.turnoutCommit c e) d
  match es.head?.bind (·.frozenSet) with
  | some (k, _) => d.modTrn c fun t => { t with applied := BitVec.ofNat 32 k }
  | none => d

/-- A step that has begun and had an entry refused before it did: its abort is voted now (R174, R236). -/
def Dev.voteRefused (d : Dev) (c : Fin 16) : Dev :=
  match (d.ctx c).steps.head? with
  | some sp =>
    match sp.refused with
    | some st =>
      (d.modCtx c fun x => { x with steps := x.steps.modify 0 fun sp => { sp with refused := none } }).voteAbort c 3 st false
    | none => d
  | none => d

/-- RED_WEIR.BLOCKS of a context is cleared when an attempt begins (R294). -/
def Dev.clearWeir (d : Dev) (c : Fin 16) : Dev := { d with red := { d.red with weir := d.red.weir.set c 0 } }

/-- Speculative work of the next step becomes ordinary work (R177). -/
def Dev.adoptSpeculative (d : Dev) (c : Fin 16) : Dev :=
  match (d.ctx c).steps.head? with
  | some sp =>
    if sp.begun then
      let d := d.modCtx c fun x => { x with cmds := x.cmds.map fun k => { k with spec := false } }
      (d.modSlc c fun s =>
        { s with
          stepState := .active, outer := sp.outer, meters := s.specMeters, specMeters := {}
          voteNow := s.voteMs, queryNow := s.queryMs }).clearWeir c |>.voteRefused c
    else d
  | none => d

/-- The withheld refusals, or the withheld failures, of commands take effect. -/
def Dev.releaseCmds (d : Dev) (c : Fin 16) (refused : Bool) : Dev :=
  (d.ctx c).cmds.foldl (fun d k =>
    match k.withheld.filter (·.refused == refused), (d.ctx c).cmd? k.entry.seq with
    | some w, some _ =>
      let d := d.modCmd c k.entry.seq fun k => { k with withheld := none, spec := false }
      if refused then d.refuseCmd c { k with spec := false } w.status else d.failCmd c k.entry.seq w.status
    | _, _ => d) d

/-- The withheld refusal of an entry takes effect. -/
def Dev.releaseEntry (d : Dev) (c : Fin 16) : Dev :=
  match (d.ctx c).heldRefusal with
  | some (i, seq, next, op, st) => (d.modCtx c fun x => { x with heldRefusal := none }).refuseEntry c i seq next op st
  | none => d

/-- What was withheld takes effect at the commit point (R177): refusals first, of which a command's comes before that of an entry
read after it, then failures, then an overflow. -/
def Dev.releaseWithheld (d : Dev) (c : Fin 16) : Dev :=
  if (d.ctx c).state = .faulted then d else
    let tooMuch := (d.slc c).specOverflow
    let d := d.modSlc c fun s => { s with specOverflow := false }
    let refusals := (d.ctx c).cmds.any fun k => k.withheld.any (·.refused)
    let d := if refusals then (d.releaseCmds c true).modCtx c fun x => { x with heldRefusal := none } else d.releaseEntry c
    let d := d.releaseCmds c false
    if tooMuch then d.overflowFound c else d

/-- Applies a commit of the own attempt in VOTED or IN_DOUBT (R247). -/
def Dev.applyCommit (d : Dev) (c : Fin 16) (r : Record) : Dev :=
  let x := d.ctx c
  let span := d.spanNow c
  let inRing := (x.steps.head?).filter (·.begun)
  let dry := if r.kind then (d.ldg.dry, []) else d.dryCounts c
  let d := d.ledger (d.attemptRecord c r false dry.2)
  let d := d.queueJournal c r
  let record := d.committedRecord c r
  -- the commit point (R226)
  let d := d.modShards (Shard.ofCtx c) (Shard.commit r.step)
  let d := { d with ldg := { d.ldg with dry := dry.1 } }
  let d := d.modSlc c fun s =>
    { s.cleared with
      stepState := .idle, epoch := r.step, step := r.step + 1, attempt := 0, ls := r.ls, scale := r.table, meters := {}
      records := s.records.filter fun q => q.step == r.step, lastRecord := some record }
  -- after it
  let d := match inRing with
    | some sp => d.modCtx c fun x =>
      ({ x with steps := x.steps.drop 1 }).release (indices sp.beginIndex (sp.endIndex.getD sp.beginIndex))
    | none => d
  let d := match span with
    | some sp => d.modCtx c fun x =>
      let x := { x with ueBefore := false, ueNow := none }
      if x.state == CtxState.faulted then { x with commitHeld := some sp.endSeq } else { x with commitSeq := sp.endSeq }
    | none => d
  let d := { d with red := { d.red with jobs := d.red.jobs.filter fun j => j.ctx != c || j.step != r.step } }
  let d := dry.2.foldl (fun d l => (d.eventAt c 0 0x000C 0 r.step l).ledgerEvent (some c) 0x000C r.step l) d
  let d := if r.kind then d.turnoutCommitAll c else d
  let d := if x.state = .faulted then d.eventAt c 0 0x0014 0 r.step 0 else d.adoptSpeculative c
  let d := d.purgeReady c
  -- holds (R179, R361): one placed before this commit is reached with it, one placed by it waits for the step in flight
  let d := if x.dryStop && !dry.2.isEmpty && (d.ctx c).state = .running then
    d.modCtx c fun x => { x with holdPending := true } else d
  let d := if x.holdPending || ((d.ctx c).holdPending && !d.stepOpen c) then d.holdFor c 2 id else d
  d.releaseWithheld c

/-! ### Deciding commit, and tokens (R239, R240) -/

/-- The warden decides commit on the requirement map that the token brought back. -/
def Dev.decideCommit (d : Dev) (c : Fin 16) (req : List (Nat × Nat)) : Dev :=
  let s := d.slc c
  if s.proposal.isSome then d else
    let r := s.outcome true false false 0 0 (BitVec.allOnes 32) req
    if s.count ≤ 1 then (d.keepRecord c r).applyCommit c r
    else
      let d := d.modSlc c fun s =>
        { s with proposal := some r, deciding := true, decideAt := d.now + msNs s.queryNow }
      d.sendMember c 1 msgDecide (d.recordMessage c r)

/-- A token of the own attempt at a member that has marked ready (R239, R240, R246). -/
def Dev.passToken (d : Dev) (c : Fin 16) (m : SluiceMsg) : Dev :=
  let s := d.slc c
  let d := d.modSlc c fun s => { s with token := none }
  if s.index = 0 then
    if m.votes = s.count && !(match s.readyAt with
      | some t => d.passed t (msNs s.voteNow)
      | none => false) then d.decideCommit c m.map else d
  else
    d.sendMember c ((s.index + 1) % s.count) msgToken
      { d.message c with votes := m.votes + 1, map := combine m.map s.require }

/-- An outcome of the own attempt is applied (R246). A commit without an own ready vote is refused. -/
def Dev.applyRecord (d : Dev) (c : Fin 16) (r : Record) (src : Nat) : Dev :=
  let st := (d.slc c).stepState
  if r.commit then
    if st = .voted || st = .inDoubt then d.applyCommit c r
    else d.eventAt c 0 0x0013 0 r.step (packFields [(0, src), (24, 2)])
  else d.applyAbort c r

end Sys2Proof.Machine
end

