-- ==== Sys2Proof/Machine/Flags.lean ====
section
/-! DEFINITION. Flags: saturation and overflow (R77, R84, R85, R91, R97, R110, R209, R292) and the access codes of register
fields (R8). -/

namespace Sys2Proof.Machine

open Sys2Proof

/-! ### Saturation and overflow -/

/-- SAT_SRC bit 0: arrays and flumes (R356). -/
def satArray : Nat := 0
/-- SAT_SRC bit 1: vector engines. -/
def satVector : Nat := 1
/-- SAT_SRC bit 2: reduction. -/
def satReduce : Nat := 2
/-- SAT_SRC bit 3: update engines. -/
def satUpdate : Nat := 3
/-- SAT_SRC bit 6: culverts decoding for SIPHON_LOAD. -/
def satCulvert : Nat := 6

/-- Sets bit `c` of a status register of one bit for each context. -/
def setCtxBit (v : BitVec 16) (c : Fin 16) : BitVec 16 := v ||| (1#16 <<< c.val)

/-- The status register that a source's saturations set: MXA_SAT_STATUS (R85), VXE_SAT_STATUS (R110), RED_SAT_STATUS
(R292) or UPD_NONFINITE (R209); a culvert sets none (R77). -/
def Dev.markSat (d : Dev) (c : Fin 16) (src : Nat) : Dev :=
  if src = satArray then { d with mxa := { d.mxa with sat := setCtxBit d.mxa.sat c } }
  else if src = satVector then { d with vxe := { d.vxe with sat := setCtxBit d.vxe.sat c } }
  else if src = satReduce then { d with red := { d.red with sat := setCtxBit d.red.sat c } }
  else if src = satUpdate then { d with upd := { d.upd with nonfinite := setCtxBit d.upd.nonfinite c } }
  else d

/-- SAT_SRC of a command's work (R356): bit 6 is SIPHON_LOAD's alone. -/
def Cmd.satBits (k : Cmd) (src : Nat) : Nat :=
  (if src = satCulvert && k.entry.opcode != opLoad then 0 else 2 ^ src)
    ||| (if k.entry.phase = 1 then 16 else if k.entry.phase = 2 then 32 else 0)

/-- Counts saturations in the status register and the ledger meters. -/
def Dev.countSat (d : Dev) (c : Fin 16) (k : Cmd) (src n : Nat) : Dev :=
  if n = 0 then d else
    (d.markSat c src).measure c k fun m =>
      { m with satCount := m.satCount + n, satSrc := m.satSrc ||| k.satBits src }

/-- The end of a unit that raised `n` tile saturation flags (R85): forward work only counts them; work of the backward or update
phase has found an overflow (R97). The unit is complete, and `fin` ends its command if it was the last, before the abort is voted
(DEDUCED, log 16). -/
def Dev.noteSat (d : Dev) (c : Fin 16) (k : Cmd) (src n : Nat) (fin : Dev → Dev) : Dev :=
  let d := d.countSat c k src n
  if n = 0 || (k.entry.phase != 2 && k.entry.phase != 3) then fin d
  else if ((d.ctx c).cmd? k.entry.seq).any fun q => q.failing.isSome then fin (d.noteOverflow c k)
  else (fin d).noteOverflow c k

/-- A saturation of a reduction is an overflow whatever the PHASE (R292). -/
def Dev.noteReduceSat (d : Dev) (c : Fin 16) (k : Cmd) (n : Nat) : Dev :=
  let d := d.countSat c k satReduce n
  if n = 0 then d else d.noteOverflow c k

/-- An update's overflow is recorded at once and voted at the step's end (R209). -/
def Dev.noteUpdateOverflow (d : Dev) (c : Fin 16) (k : Cmd) (n : Nat) : Dev :=
  if n = 0 then d else (d.countSat c k satUpdate n).modSlc c fun s => { s with overflow := true }

/-! ### Register fields (R8, R9) -/

/-- A W1C field of `len` bits after a write: a 1 clears. -/
def w1c (old new len : Nat) : Nat := Nat.land old (2 ^ len - 1 - new % 2 ^ len)

/-- One W1C bit. -/
def w1cBit (old : Bool) (new i : Nat) : Bool := old && !bitOf new i

/-- One W1S bit. -/
def w1sBit (old : Bool) (new i : Nat) : Bool := old || bitOf new i

/-- A field that stores 1 for a written 0. -/
def atLeastOne (v : Nat) : Nat := if v = 0 then 1 else v

end Sys2Proof.Machine
end

