-- ==== Sys2Proof/Machine/Arrays.lean ====
section
/-! DEFINITION. The matrix arrays and the flume: passes, sums, epilogue and results (R38 to R64, R79 to R86, R101,
R102). -/

namespace Sys2Proof.Machine

open Sys2Proof

/-! ### Reading operands -/

/-- Bytes that a unit has read, as cells. -/
abbrev View := List Host.Cell

/-- Reads ranges; none, with the address, at the first uncorrectable granule (R46, R123, R155). -/
def Dev.readView (d : Dev) : List (Nat × Nat) → View → Dev × Except Nat View
  | [], v => (d, .ok v)
  | (a, n) :: r, v =>
    match d.readBytes srcWork a n with
    | (d, some bs) => d.readView r (writeCells v a bs)
    | (d, none) => (d, .error (32 * (((granulesOf a n).find? d.mem.poisoned).getD (a / 32))))

/-- Writes byte runs in order; false when a part was refused (R139). -/
def Dev.writeAll (d : Dev) (ws : List (Nat × List Byte)) : Dev × Bool :=
  ws.foldl (fun acc w =>
    let (d, ok) := acc.1.writeBytes w.1 w.2
    (d, acc.2 && ok)) (d, true)

/-- The FP32 word at an address of a view. -/
def wordOf (v : View) (a : Nat) : W32 := BitVec.ofNat 32 (leNat (readCells v a 4))

/-- The BF16 value at an address of a view, in FP32 layout. -/
def halfOf (v : View) (a : Nat) : W32 := ofBf16 (BitVec.ofNat 16 (leNat (readCells v a 2)))

/-! ### Checks at issue (R38, R39, R55, R61, R69, R101, R103) -/

/-- E coincides exactly with Y (R55). -/
def ArrayArgs.eIsY (x : ArrayArgs) : Bool :=
  x.e == x.y && x.shape == 0 && x.out == (if x.eBf16 then Fmt.bf16 else .fp32)

/-- Every byte lies in the reservoir, block tensors are aligned, and Y overlaps nothing it may not. -/
def ArrayArgs.placed (x : ArrayArgs) : Bool :=
  let as := x.sides x.a x.aSize
  let ws := x.sides x.w x.wSize
  let ys := x.sides x.y x.ySize
  let es := if x.epi = 0 then [] else x.sides x.e x.eSize
  let clash := fun (p q : List (Nat × Nat)) => p.any fun r => q.any fun t => overlaps r.1 r.2 t.1 t.2
  (as ++ ws ++ ys ++ es).all (fun r => inReservoir r.1 r.2)
    && (!x.blocky || (as ++ ws).all fun r => aligned r.1 32)
    && (x.out != .bs8 || ys.all fun r => aligned r.1 32)
    && !clash ys as && !clash ys ws && (x.eIsY || !clash ys es)

/-- The status of an array operation at issue. -/
def ArrayArgs.check (x : ArrayArgs) (ctx : FpMode) : Nat :=
  if ctx = .denyr && x.mode ≠ .denyr then stBadArg
  else if x.mode = .denyr && x.out = .bs8 then stBadArg
  else if x.placed then stOk else stBadArg

/-- The status of a flume operation at issue (R61, R103, R169). -/
def ArrayArgs.checkFlume (x : ArrayArgs) (ctx : FpMode) : Nat :=
  if ctx = .denyr || x.mode ≠ .bs8 || x.s ≠ 1 || 65536 < x.k then stBadArg
  else if x.placed then stOk else stBadArg

/-! ### Sums (R41, R48 to R50, R79 to R82, R101) -/

/-- An FP32 value with the saturations raised on the way to it. -/
structure Tally where
  bits : W32
  sats : Nat
  deriving DecidableEq, Repr

/-- The next value of a tally. -/
def Tally.next (t : Tally) (r : FpR) : Tally := ⟨r.bits, t.sats + bit r.sat⟩

/-- Bases of the A and W planes that block `b` of a plane multiplies, its block along K, and whether it is negated. -/
def ArrayArgs.operands (x : ArrayArgs) (plane b : Nat) : Nat × Nat × Nat × Bool :=
  if !x.complex then (x.a, x.w, b, false)
  else
    let h := x.k / 32
    let second := decide (h ≤ b)
    let aIm := second
    let wIm := if plane = 0 then second else !second
    (x.a + (if aIm then x.im else 0), x.w + (if wIm then x.im else 0), b % h, second && plane == 0)

/-- A BS8 block of row `m` of A. -/
def ArrayArgs.aBlock (x : ArrayArgs) (v : View) (base m kb : Nat) : Block where
  elems := bs8Elems (readCells v (base + m * x.k + 32 * kb) 32)
  exp := (byteAt v (base + expOffset .bs8 (x.m * x.k) + m * (x.k / 32) + kb)).toNat

/-- The BS8 block of op(W) that column `n` meets along K (R52). -/
def ArrayArgs.wBlock (x : ArrayArgs) (v : View) (base kb n : Nat) : Block :=
  let cols := if x.tw then x.k else x.n
  let at_ := fun k => if x.tw then tiledByte cols n k else tiledByte cols k n
  { elems := (List.range 32).map fun i => (byteAt v (base + at_ (32 * kb + i))).toInt
    exp := (byteAt v (base + expOffset .bs8 (x.k * x.n)
      + if x.tw then tileOf cols n (32 * kb) else tileOf cols (32 * kb) n)).toNat }

/-- Element (m, k) of A in FP32 layout. -/
def ArrayArgs.aElem (x : ArrayArgs) (v : View) (base m k : Nat) : W32 :=
  if x.mode = .fp32x3 then wordOf v (base + 4 * (m * x.k + k)) else halfOf v (base + 2 * (m * x.k + k))

/-- Element (k, n) of op(W) in FP32 layout. -/
def ArrayArgs.wElem (x : ArrayArgs) (v : View) (base k n : Nat) : W32 :=
  let i := if x.tw then n * x.k + k else k * x.n + n
  if x.mode = .fp32x3 then wordOf v (base + 4 * i) else halfOf v (base + 2 * i)

/-- hi of R49. -/
def hiOf (x : W32) : W32 := if isNonFinite x then x else truncBf16 x

/-- lo of R49. -/
def loOf (mode : FpMode) (x : W32) : W32 :=
  if isNonFinite x then 0 else splitLo mode x

/-- Rounding toward zero to FP32 in DENYR: beyond the range infinity, subnormal +0 (R101). The spec does not say which of the two
comes first for a sum between the largest finite value and 2^128: it is rounded first, to that value (DESIGN CHOICE, log 14). -/
def denyrTrunc : Fp → W32
  | .nan => canonNan .denyr
  | .inf s => (infR s).bits
  | .fin s m e =>
    let n := bitLen m
    if n ≤ 24 then (encodeFp .denyr 24 s m e).bits
    else (encodeFp .denyr 24 s (m >>> (n - 24)) (e + (n - 24 : Nat))).bits

/-- The exact sum of the products of a group of four (R101). -/
def denyrGroup (ps : List (W32 × W32)) : Fp :=
  ps.foldl (fun t p => addVal t (mulVal (decodeFp .denyr p.1) (decodeFp .denyr p.2))) (.fin false 0 0)

/-- The sum of one element after block `b` of a plane and sweep: the first block of a part starts it in BS8 modes (R41),
+0 in the others. -/
def ArrayArgs.addBlock (x : ArrayArgs) (mode : FpMode) (v : View) (plane sweep m n : Nat) (t : Option Tally) (b : Nat) :
    Tally :=
  let (ab, wb, kb, neg) := x.operands plane b
  if x.blocky then
    let p := x.aBlock v ab m kb
    let q := x.wBlock v wb kb n
    let s := blockSum p.elems q.elems
    let r := promote mode (if neg then -s else s) p.exp q.exp
    match t with
    | none => ⟨r.bits, bit r.sat⟩
    | some t => (t.next r).next (fpAdd mode 24 t.bits r.bits)
  else
    let t := t.getD ⟨0, 0⟩
    let ks := (List.range 32).map (32 * kb + ·)
    let els := ks.map fun k => (x.aElem v ab m k, x.wElem v wb k n)
    if x.mode = .denyr then
      (List.range 8).foldl (fun t g =>
        let sum := denyrTrunc (denyrGroup ((els.drop (4 * g)).take 4))
        t.next (fpAdd .denyr 24 t.bits sum)) t
    else
      els.foldl (fun t e =>
        let (a, w) := if x.mode = .fp32x3 then
            (if sweep = 0 then (loOf mode e.1, hiOf e.2)
             else if sweep = 1 then (hiOf e.1, loOf mode e.2) else (hiOf e.1, hiOf e.2))
          else e
        t.next (fpFma mode 24 (if neg then (fpNeg mode a).bits else a) w t.bits)) t

/-- Sums of one part of a tile by row, after the blocks `bs` of it: `old` holds the sums so far. -/
def ArrayArgs.addBlocks (x : ArrayArgs) (mode : FpMode) (v : View) (plane sweep : Nat) (cells : List (Nat × Nat))
    (old : Option (List W32)) (bs : List Nat) : List Tally :=
  let start := match old with
    | none => cells.map fun _ => (none : Option Tally)
    | some l => l.map fun w => some ⟨w, 0⟩
  (cells.zip start).map fun c =>
    (bs.foldl (fun t b => some (x.addBlock mode v plane sweep c.1.1 c.1.2 t b)) c.2).getD ⟨0, 0⟩

/-- The cells of a tile, row by row. -/
def cellsIn (r nr c nc : Nat) : List (Nat × Nat) :=
  (List.range nr).flatMap fun i => (List.range nc).map fun j => (r + i, c + j)

/-- Adds saturations of tallies. -/
def satsOf (ts : List Tally) : Nat := ts.foldl (fun n t => n + t.sats) 0

/-- The key of a tile's partial sums. -/
def accKey (tile plane part : Nat) : Nat := (2 * tile + plane) * 16 + part

/-- A pass: the partial sums after it, and the saturations it raised. -/
def ArrayArgs.runPass (x : ArrayArgs) (mode : FpMode) (v : View) (tile i : Nat) (acc : List (Nat × List W32)) :
    List (Nat × List W32) × Nat :=
  let (plane, sweep, bs) := x.pass i
  let (r, nr, c, nc) := x.tile tile
  let cells := cellsIn r nr c nc
  let parts := (bs.map (· / x.partLen)).eraseDups
  parts.foldl (fun st j =>
    let key := accKey tile plane j
    let mine := bs.filter fun b => b / x.partLen = j
    let old := (st.1.find? fun e => e.1 == key).map (·.2)
    let ts := x.addBlocks mode v plane sweep cells old mine
    (insertKey key (ts.map (·.bits)) st.1, st.2 + satsOf ts)) (acc, 0)

/-- split_add of R82. -/
def ArrayArgs.splitAdd (x : ArrayArgs) (mode : FpMode) (t : Tally) (p : W32) : Tally :=
  if x.split16 then
    let h := toBf16 mode p
    (t.next h).next (fpAdd mode 24 t.bits h.bits)
  else t.next (fpAdd mode 24 t.bits p)

/-- The split-K reduction of one element over the parts that exist (R41). -/
def ArrayArgs.reduceParts (x : ArrayArgs) (mode : FpMode) : List W32 → Tally
  | [] => ⟨0, 0⟩
  | p :: r => r.foldl (fun t q => x.splitAdd mode t q) ⟨p, 0⟩

/-! ### Epilogue and results (R54) -/

/-- The element of E that meets (m, n) of a plane. -/
def ArrayArgs.eElem (x : ArrayArgs) (v : View) (plane m n : Nat) : W32 :=
  let i := if x.shape = 0 then m * x.n + n else if x.shape = 1 then n else m
  let base := x.e + plane * x.im
  if x.eBf16 then halfOf v (base + 2 * i) else wordOf v (base + 4 * i)

/-- The epilogue of one element before conversion. -/
def ArrayArgs.epilogue (x : ArrayArgs) (mode : FpMode) (v : View) (plane m n : Nat) (t : Tally) : Tally :=
  let t := if x.alpha = 0x3F800000 then t else t.next (fpMul mode 24 t.bits x.alpha)
  if x.epi = 1 then t.next (fpAdd mode 24 t.bits (x.eElem v plane m n))
  else if x.epi = 2 then t.next (fpMul mode 24 t.bits (x.eElem v plane m n))
  else t

/-- Little-endian bytes of FP32 words. -/
def wordBytes (ws : List W32) : List Byte := ws.flatMap fun w => toLe 4 w.toNat

/-- Little-endian bytes of BF16 values in FP32 layout. -/
def halfBytes (ws : List W32) : List Byte := ws.flatMap fun w => toLe 2 (bf16Bits w).toNat

/-- The writes of one row of a tile (columns from `c`), and the saturations of its conversion. -/
def ArrayArgs.rowWrites (x : ArrayArgs) (mode : FpMode) (plane m c : Nat) (ws : List W32) :
    List (Nat × List Byte) × Nat :=
  let y := x.y + plane * x.im
  if x.out = .fp32 then ([(y + 4 * (m * x.n + c), wordBytes ws)], 0)
  else if x.out = .bf16 then
    let rs := ws.map (toBf16 mode)
    ([(y + 2 * (m * x.n + c), halfBytes (rs.map (·.bits)))], (rs.filter (·.sat)).length)
  else
    let blocks := (List.range (ws.length / 32)).map fun i => toBlock .bs8 ((ws.drop (32 * i)).take 32)
    ([(y + m * x.n + c, blocks.flatMap fun b => bs8Bytes b.elems),
      (y + expOffset .bs8 (x.m * x.n) + m * (x.n / 32) + c / 32, blocks.map fun b => BitVec.ofNat 8 b.exp)], 0)

/-- Zero bytes at the end of an exponent plane (R68). -/
def ArrayArgs.padWrites (x : ArrayArgs) (plane : Nat) : List (Nat × List Byte) :=
  if x.out = .bs8 then
    let n := x.m * x.n / 32
    [(x.y + plane * x.im + expOffset .bs8 (x.m * x.n) + n, List.replicate (alignUp n 32 - n) 0)]
  else []

/-- The writes of a tile whose sums are complete, and the saturations on the way. -/
def ArrayArgs.finishTile (x : ArrayArgs) (mode : FpMode) (v : View) (tile : Nat) (acc : List (Nat × List W32)) :
    List (Nat × List Byte) × Nat :=
  let (r, nr, c, nc) := x.tile tile
  let last := tile + 1 = x.tiles
  (List.range x.planeCount).foldl (fun st plane =>
    let parts := (List.range x.parts).filterMap fun j =>
      (acc.find? fun e => e.1 == accKey tile plane j).map (·.2)
    (List.range nr).foldl (fun st i =>
      let ts := (List.range nc).map fun j =>
        let sums := parts.map fun p => p.getD (i * nc + j) 0
        x.epilogue mode v plane (r + i) (c + j) (x.reduceParts mode sums)
      let (ws, n) := x.rowWrites mode plane (r + i) c (ts.map (·.bits))
      (st.1 ++ ws, st.2 + n + satsOf ts)) st
    |> fun st => (st.1 ++ (if last then x.padWrites plane else []), st.2)) ([], 0)

/-! ### Ranges a pass reads -/

/-- What blocks `bs` of rows and columns of a plane read of A and W. -/
def ArrayArgs.reads (x : ArrayArgs) (plane : Nat) (bs : List Nat) (r nr c nc : Nat) : List (Nat × Nat) :=
  bs.flatMap fun b =>
    let (ab, wb, kb, _) := x.operands plane b
    let rows := (List.range nr).map (r + ·)
    if x.blocky then
      rows.flatMap (fun m => [(ab + m * x.k + 32 * kb, 32),
        (ab + expOffset .bs8 (x.m * x.k) + m * (x.k / 32) + kb, 1)])
      ++ (List.range (nc / 32)).flatMap fun q =>
        let cols := if x.tw then x.k else x.n
        let col := c + 32 * q
        let t := if x.tw then tileOf cols col (32 * kb) else tileOf cols (32 * kb) col
        [(wb + 1024 * t, 1024), (wb + expOffset .bs8 (x.k * x.n) + t, 1)]
    else
      let z := x.elemBytes
      rows.map (fun m => (ab + z * (m * x.k + 32 * kb), 32 * z))
      ++ (if x.tw then (List.range nc).map fun j => (wb + z * ((c + j) * x.k + 32 * kb), 32 * z)
          else (List.range 32).map fun i => (wb + z * ((32 * kb + i) * x.n + c), nc * z))

/-- What the epilogue of a tile reads of E. -/
def ArrayArgs.eReads (x : ArrayArgs) (r nr c nc : Nat) : List (Nat × Nat) :=
  if x.epi = 0 then [] else
    let z := if x.eBf16 then 2 else 4
    (List.range x.planeCount).flatMap fun plane =>
      let base := x.e + plane * x.im
      if x.shape = 0 then (List.range nr).map fun i => (base + z * ((r + i) * x.n + c), z * nc)
      else if x.shape = 1 then [(base + z * c, z * nc)]
      else [(base + z * r, z * nr)]

/-! ### Running a unit -/

/-- Writes a unit's results, and the unit is complete; a refused part ends the operation with UNCORRECTABLE (R139). -/
def Dev.writeUnit (d : Dev) (c : Fin 16) (seq : W32) (idx : Nat) (ws : List (Nat × List Byte)) : Dev :=
  match d.writeAll ws with
  | (d, true) => d.modCmd c seq fun k => k.unitDone idx
  | (d, false) =>
    let bad := (ws.flatMap fun w => granulesOf w.1 w.2.length).find? d.mem.poisoned
    d.failUnit c seq stUncorrectable (32 * bad.getD 0)

/-- A pass of an array ends (R43): its sums are kept until the tile's last pass, which runs the epilogue and writes. The one array
that R58 keeps after a failed calibration may compute wrongly; here it computes as every other (DESIGN CHOICE, log 2). -/
def Dev.runArray (d : Dev) (u : UnitRef) : Dev :=
  match (d.ctx u.ctx).cmd? u.seq with
  | none => d
  | some k =>
    match arrayArgs k.args with
    | none => d
    | some x =>
      let mode := x.fp (d.ctx u.ctx).mode
      let i := lookupD u.idx 0 k.passes
      let last := i + 1 = x.passes
      let (plane, _, bs) := x.pass i
      let (r, nr, c, nc) := x.tile u.idx
      match d.readView (x.reads plane bs r nr c nc ++ if last then x.eReads r nr c nc else []) [] with
      | (d, .error a) => (d.failUnit u.ctx u.seq stUncorrectable a).settle u.ctx u.seq
      | (d, .ok v) =>
        let (acc, sats) := x.runPass mode v u.idx i k.acc
        if last then
          let (ws, more) := x.finishTile mode v u.idx acc
          let d := d.writeUnit u.ctx u.seq u.idx ws
          let d := d.modCmd u.ctx u.seq fun k =>
            { k with acc := acc.filter fun e => e.1 / 32 != u.idx, passes := eraseKey u.idx k.passes }
          d.noteSat u.ctx k satArray (sats + more) fun d => d.settle u.ctx u.seq
        else
          let d := d.modCmd u.ctx u.seq fun k =>
            { k with acc := acc, passes := insertKey u.idx (i + 1) k.passes, requeued := u.idx :: k.requeued }
          d.noteSat u.ctx k satArray sats fun d => d.settle u.ctx u.seq

/-- A flume pass ends: one vector's part of the columns is summed, converted and written (R61, R62). Unit 4m + p is part p
of vector m. -/
def Dev.runFlume (d : Dev) (u : UnitRef) : Dev :=
  match (d.ctx u.ctx).cmd? u.seq with
  | none => d
  | some k =>
    match arrayArgs k.args with
    | none => d
    | some x =>
      let mode := (d.ctx u.ctx).mode
      let m := u.idx / 4
      let (c, nc) := x.flumeCols (u.idx % 4)
      let bs := List.range x.blocks
      match d.readView (x.reads 0 bs m 1 c nc ++ x.eReads m 1 c nc) [] with
      | (d, .error a) => (d.failUnit u.ctx u.seq stUncorrectable a).settle u.ctx u.seq
      | (d, .ok v) =>
        let sums := x.addBlocks mode v 0 0 (cellsIn m 1 c nc) none bs
        let ts := (sums.zip (List.range nc)).map fun t => x.epilogue mode v 0 m (c + t.2) t.1
        let (ws, n) := x.rowWrites mode 0 m c (ts.map (·.bits))
        let pad := if u.idx + 1 = 4 * x.m then x.padWrites 0 else []
        let d := d.writeUnit u.ctx u.seq u.idx (ws ++ pad)
        d.noteSat u.ctx k satArray (n + satsOf ts) fun d => d.settle u.ctx u.seq

/-- The running unit of an engine ends: the next accepted one runs, and the context's watchdog restarts (R399). -/
def Dev.popUnit (d : Dev) (cls inst : Nat) (c : Fin 16) : Dev :=
  (d.modEngine cls inst fun e =>
    { e with units := (e.units.drop 1).mapIdx fun i u => if i = 0 then { u with still := 0 } else u }).feed c

/-- A command that has failed on an instance runs no unit that the instance had accepted behind the failing one: only what runs on
other instances completes (R46, R122). -/
def Dev.dropAccepted (d : Dev) (cls inst : Nat) (u : UnitRef) : Dev :=
  if ((d.ctx u.ctx).cmd? u.seq).any (·.failing.isSome) then
    (d.modEngine cls inst fun e => { e with units := e.units.filter fun v => v.suppressed || !(v.ctx == u.ctx && v.seq == u.seq) }).settle
      u.ctx u.seq
  else d

/-- The running unit of an engine ends; a suppressed one writes nothing (R44, R121, R156). -/
def Dev.completeUnit (d : Dev) (cls inst : Nat) (run : Dev → UnitRef → Dev) : Dev :=
  match (d.engine cls inst).units with
  | [] => d
  | u :: _ =>
    let d := d.popUnit cls inst u.ctx
    if u.suppressed then d else (run d u).dropAccepted cls inst u

/-- ARRAY_PASS_COMPLETE (R43 to R46). -/
def execArrayPassComplete (a : Fin 64) (s : State) : Host.Outcome State Fault Refusal :=
  done s (s.dev.completeUnit 1 a.val Dev.runArray)

/-- FLUME_PASS_COMPLETE (R60 to R62). -/
def execFlumePassComplete (f : Fin 4) (s : State) : Host.Outcome State Fault Refusal :=
  done s (s.dev.completeUnit 2 f.val Dev.runFlume)

end Sys2Proof.Machine
end

