-- ==== Sys2Proof/Machine/Vector.lean ====
section
/-! DEFINITION. The vector engines: limits of a vector operation (R105 to R108, R111, R113, R118, R125), stages
(R110 to R116), outputs (R118, R119) and chunks (R121 to R123, R126). -/

namespace Sys2Proof.Machine

open Sys2Proof

/-! ### Limits (R105 to R108, R111, R113, R118, R119, R125) -/

/-- A block format. -/
def Fmt.block (f : Fmt) : Bool := f == .bs8 || f == .bs4

/-- The stage of a number, if it is used. -/
def VecArgs.stage? (x : VecArgs) (i : Nat) : Option VecStage := x.stages.getD i none

/-- The input of a number, if it is used. -/
def VecArgs.input? (x : VecArgs) (i : Nat) : Option VecIn := x.ins.getD i none

/-- The stages in use, with their numbers. -/
def VecArgs.used (x : VecArgs) : List (Nat × VecStage) :=
  (List.range 8).filterMap fun i => (x.stage? i).map fun s => (i, s)

/-- Which stages are row stages (R107); a reduction is none, since it takes one value for each element. -/
def VecArgs.rowStages (x : VecArgs) : List Bool :=
  (List.range 8).foldl (fun rows i =>
    let r := match x.stage? i with
      | none => false
      | some s => !s.op.reduces && s.srcs.all fun t => match t with
        | .input j => (x.input? j).any fun v => v.kind == 2
        | .const _ => true
        | .stage j => rows.getD j false
        | .none => false
    rows ++ [r]) []

/-- A row stage. -/
def VecArgs.rowStage (x : VecArgs) (i : Nat) : Bool := x.rowStages.getD i false

/-- An input stream keeps the limits of R106 and R69. STRIDE and PHASE have a meaning for element streams only: of a ROW or COLUMN
stream they are ignored (DESIGN CHOICE, log 14). -/
def VecArgs.inOk (x : VecArgs) (v : VecIn) : Bool :=
  if v.kind = 1 then !v.fmt.block || (v.stride == 1 && v.phase == 0 && aligned x.l 32 && aligned v.addr 32)
  else v.fmt == .fp32 || v.fmt == .bf16

/-- A stage reads only streams in use and earlier stages (R107), and keeps the condition of R113; UNPACK2 of a stream takes FP32. A
reduction's value is there only once its row has passed, and R107 gives it to RED0 or RED1: a stage that names one as its source is
refused (DESIGN CHOICE, log 14). -/
def VecArgs.stageOk (x : VecArgs) (s : VecStage) : Bool :=
  let reads := s.srcs.all fun t => match t with
    | .input j => (x.input? j).isSome && (s.op != .unpack2 || (x.input? j).any fun v => v.fmt == .fp32)
    | .stage j => (x.stage? j).any fun t => !t.op.reduces
    | _ => true
  let cond := match s.op with
    | .permute => aligned x.l 512
    | .shufXor => [1, 2, 4, 8, 16, 32, 64, 128, 256].contains s.imm && aligned x.l (2 * s.imm)
    | .shufRot => aligned x.l 512
    | .shufBcast => aligned x.l 512
    | _ => true
  reads && cond

/-- An element output keeps the limits of R106, R113, R118 and R69. TILED shapes block outputs, so that it refuses BS4; an FP32 or
BF16 output beside it stays row-major (DEDUCED, log 14). One whose source is a reduction is refused, as a stage is (DESIGN CHOICE,
log 14). -/
def VecArgs.outOk (x : VecArgs) (o : VecOut) : Bool :=
  (!o.fmt.block || (o.stride == 1 && o.phase == 0 && aligned x.l 32 && aligned o.addr 32))
    && (!x.tiled || o.fmt != .bs4)
    && (x.stage? o.src).any fun s => !s.op.reduces && (s.op != .pack2 || o.fmt == .fp32)

/-- Bytes of one stream: first address, pieces, bytes of a piece, distance between pieces. -/
structure Run where
  first : Nat
  count : Nat
  size : Nat
  pitch : Nat
  deriving DecidableEq, Repr

/-- One solid run. -/
def Run.solid (a n : Nat) : Run := ⟨a, 1, n, n⟩

/-- The end of a run. -/
def Run.stop (r : Run) : Nat := r.first + (r.count - 1) * r.pitch + r.size

/-- Whether a byte lies in a run. -/
def Run.has (r : Run) (b : Nat) : Bool :=
  decide (r.first ≤ b) && decide (b < r.stop) && (r.count == 1 || decide ((b - r.first) % r.pitch < r.size))

/-- Whether two runs share a byte (R108). Pitches of strided runs divide 8, so 8 bytes of the common stretch decide. -/
def Run.meets (r q : Run) : Bool :=
  let lo := max r.first q.first
  let hi := min r.stop q.stop
  if r.count = 1 && q.count = 1 then decide (lo < hi)
  else (List.range (min 8 (hi - lo))).any fun i => r.has (lo + i) && q.has (lo + i)

/-- The bytes of an element stream: M rows of L elements (R68, R106). -/
def VecArgs.elementRuns (x : VecArgs) (addr : Nat) (f : Fmt) (stride phase : Nat) (tiled isOut : Bool) : List Run :=
  let n := x.m * x.l
  if f.block then
    let blocks := n / if tiled then 1024 else 32
    [Run.solid addr (elemPlane f n), Run.solid (addr + expOffset f n) (if isOut then alignUp blocks 32 else blocks)]
  else if stride = 1 then [Run.solid addr (n * f.size)]
  else [⟨addr + phase * f.size, n, f.size, 2 * f.size⟩]

/-- The bytes of an input stream. -/
def VecArgs.inRuns (x : VecArgs) (v : VecIn) : List Run :=
  if v.kind = 1 then x.elementRuns v.addr v.fmt v.stride v.phase false false
  else [Run.solid v.addr ((if v.kind = 2 then x.m else x.l) * v.fmt.size)]

/-- The bytes of an output. -/
def VecArgs.outStream (x : VecArgs) (o : VecOut) : List Run :=
  x.elementRuns o.addr o.fmt o.stride o.phase x.tiled true

/-- R108: an output coincides exactly with an ELEMENT input. A tiled block output has no input of its layout. -/
def VecArgs.coincides (x : VecArgs) (v : VecIn) (o : VecOut) : Bool :=
  v.kind == 1 && v.addr == o.addr && v.fmt == o.fmt && v.stride == o.stride && v.phase == o.phase
    && !(x.tiled && o.fmt.block)

/-- The permutation table's bytes, where a PERMUTE stage uses it. -/
def VecArgs.permRuns (x : VecArgs) : List Run :=
  if x.used.any fun s => s.2.op == .permute then [Run.solid x.perm 1024] else []

/-- Whether two lists of runs share a byte. -/
def runsMeet (p q : List Run) : Bool := p.any fun r => q.any r.meets

/-- Whether some two of a list meet. -/
def pairsMeet : List (List Run) → Bool
  | [] => false
  | p :: r => r.any (runsMeet p) || pairsMeet r

/-- R108: every byte lies in the reservoir, and nothing written overlaps another stream or the table. -/
def VecArgs.placed (x : VecArgs) : Bool :=
  let ins := x.ins.filterMap id
  let reds := x.reds.map fun r => [Run.solid r.1 (4 * x.m)]
  let outs := x.outs.map x.outStream
  let written := outs ++ reds
  (ins.flatMap x.inRuns ++ written.flatten ++ x.permRuns).all (fun r => decide (r.stop ≤ 8 * gib))
    && !pairsMeet written
    && ins.all (fun v => x.outs.all (fun o => x.coincides v o || !runsMeet (x.inRuns v) (x.outStream o))
      && reds.all fun q => !runsMeet (x.inRuns v) q)
    && written.all fun w => !runsMeet x.permRuns w

/-- R111: what packed BF16 allows. -/
def VecArgs.packedOk (x : VecArgs) : Bool :=
  (x.ins.filterMap id).all (fun v => v.fmt == .bf16 && v.kind != 3)
    && x.outs.all (fun o => o.fmt == .bf16) && x.used.all (fun s => s.2.op.packable && !x.rowStage s.1)

/-- R125: what a Denyr context allows. -/
def VecArgs.denyrOk (x : VecArgs) : Bool :=
  !x.packed && x.used.all (fun s => s.2.op.denyr) && (x.ins.filterMap id).all (fun v => !v.fmt.block)
    && x.outs.all fun o => !o.fmt.block

/-- Every limit that the argument block decides. -/
def VecArgs.ok (x : VecArgs) (mode : FpMode) : Bool :=
  let reductions := x.used.filter fun s => s.2.op.reduces
  decide (1 ≤ x.m) && decide (x.m ≤ 1048576) && decide (1 ≤ x.l) && decide (x.l ≤ 1048576)
    && (!x.tiled || (aligned x.m 32 && aligned x.l 32 && (decide (x.l ≤ 32768) || (reductions.isEmpty && x.reds.isEmpty))))
    && (x.ins.filterMap id).all x.inOk && x.used.all (fun s => x.stageOk s.2) && x.outs.all x.outOk
    && x.reds.all (fun r => (x.stage? r.2).any (fun s => s.op.reduces) || x.rowStage r.2)
    && decide (reductions.length ≤ 2) && reductions.all (fun s => x.reds.any fun r => r.2 == s.1)
    && (!x.packed || x.packedOk) && (mode != .denyr || x.denyrOk) && x.placed

/-- R113: every entry of the permutation table has zero above bit 8. -/
def permOk (table : List Byte) : Bool := (List.range 512).all fun i => decide (fieldAt table (2 * i) 2 < 512)

/-- The status of a VECTOR_OP at issue; a table that cannot be read refuses it (R174). -/
def Dev.checkVector (d : Dev) (x : VecArgs) (mode : FpMode) : Dev × Nat :=
  if !x.ok mode then (d, stBadArg)
  else if x.permRuns.isEmpty then (d, stOk)
  else match d.readBytes srcWork x.perm 1024 with
    | (d, some t) => (d, if permOk t then stOk else stBadArg)
    | (d, none) => (d, stUncorrectable)

/-! ### Stages (R110 to R113, R116) -/

/-- A rounded value to BF16. A NaN becomes the canonical one; `signed` says that it comes from ABS or NEG, whose sign
stands (R71, R111, R112). -/
def roundBf16 (mode : FpMode) (signed : Bool) (a : W32) : FpR :=
  if isNan a then ⟨withSign (signed && bitOf a.toNat 31) (bitsOf (canonNan mode).toNat 16 15 <<< 16), false⟩
  else toBf16 mode a

/-- The stages whose NaN keeps the sign they give it (R71, R112); in DENYR no NaN has one (R125). -/
def VecOp.setsSign (o : VecOp) : Bool := o == .abs || o == .neg

/-- An element-wise stage of up to three operands, rounded to `p` significant bits (R81, R110 to R112, R116). -/
def VecOp.apply (o : VecOp) (mode : FpMode) (p : Nat) (a b c : W32) : FpR :=
  match o with
  | .add => fpAdd mode p a b
  | .sub => fpSub mode p a b
  | .mul => fpMul mode p a b
  | .fma => fpFma mode p a b c
  | .max => fpMax mode a b
  | .min => fpMin mode a b
  | .abs => fpAbs mode a
  | .neg => fpNeg mode a
  | .cmplt => fpCmpLt mode a b
  | .cmpeq => fpCmpEq mode a b
  | .sel => fpSel mode a b c
  | .recip => fpRecip mode p a
  | .sqrt => fpSqrt mode p a
  | .rsqrt => fpRsqrt mode p a
  | .exp2 => fpExp2 mode p a
  | .log2 => fpLog2 mode p a
  | .div => fpDiv mode p a b
  | .exp => fpElementary .exp mode p a
  | .log => fpElementary .log mode p a
  | .sigmoid => fpElementary .sigmoid mode p a
  | .tanh => fpElementary .tanh mode p a
  | .erf => fpElementary .erf mode p a
  | .pack2 =>
    let x := toBf16 mode a
    let y := toBf16 mode b
    ⟨BitVec.ofNat 32 ((bf16Bits x.bits).toNat + (bf16Bits y.bits).toNat * 65536), x.sat || y.sat⟩
  | _ => ⟨a, false⟩

/-- The combination of a reduction stage. -/
def VecOp.combine (o : VecOp) (mode : FpMode) (t : Tally) (b : Tally) : Tally :=
  let r := match o with
    | .redMax => fpMax mode t.bits b.bits
    | .redMin => fpMin mode t.bits b.bits
    | _ => fpAdd mode 24 t.bits b.bits
  ⟨r.bits, t.sats + b.sats + bit r.sat⟩

/-- R114: the partial of lane `i`. -/
def VecOp.lane (o : VecOp) (mode : FpMode) (vs : List W32) (i : Nat) : Option Tally :=
  let mine := (List.range (ceilDiv (vs.length - i) 512)).map fun k => (⟨vs.getD (512 * k + i) 0, 0⟩ : Tally)
  match mine with
  | [] => none
  | v :: r => some (r.foldl (o.combine mode) v)

/-- One fold step over the first `2 * n` lanes. -/
def VecOp.foldStep (o : VecOp) (mode : FpMode) (n : Nat) (ps : List (Option Tally)) : List (Option Tally) :=
  (List.range n).map fun i =>
    match ps.getD i none, ps.getD (i + n) none with
    | some a, some b => some (o.combine mode a b)
    | none, q => q
    | p, none => p

/-- R114: the reduction of a row; in a Denyr context in ascending order, one at a time (R126). Subnormal values count
as zero (R71). -/
def VecOp.reduce (o : VecOp) (mode : FpMode) (vs : List W32) : Tally :=
  let vs := vs.map (readFp mode)
  if mode = .denyr then
    match vs with
    | [] => ⟨0, 0⟩
    | v :: r => r.foldl (fun t w => o.combine mode t ⟨w, 0⟩) ⟨v, 0⟩
  else
    let lanes := (List.range 512).map (o.lane mode vs)
    (([256, 128, 64, 32, 16, 8, 4, 2, 1].foldl (fun ps n => o.foldStep mode n ps) lanes).getD 0 none).getD ⟨0, 0⟩

/-- R113: where element `l` of a row takes its value from, in its 512-element segment. -/
def VecStage.from_ (s : VecStage) (table : List Nat) (l : Nat) : Nat :=
  let base := l / 512 * 512
  let j := l % 512
  match s.op with
  | .permute => base + table.getD j 0
  | .shufXor => base + (j ^^^ s.imm)
  | .shufRot => base + (j + s.imm) % 512
  | .shufBcast => base + s.imm
  | _ => l

/-! ### Rows -/

/-- The values of a stream or stage along a part of a row: one for a row value, otherwise one for each element. -/
structure RowVal where
  isRow : Bool
  vals : List W32
  sats : Nat
  deriving DecidableEq, Repr

/-- The value at element `l`. -/
def RowVal.get (v : RowVal) (l : Nat) : W32 := v.vals.getD (if v.isRow then 0 else l) 0

/-- Decodes one element of a non-block stream exactly (R75, R106). -/
def decodeElem (v : View) (f : Fmt) (a : Nat) : W32 :=
  match f with
  | .fp32 => wordOf v a
  | .bf16 => halfOf v a
  | .e4m3 => ofE4m3 (byteAt v a)
  | .e5m2 => ofE5m2 (byteAt v a)
  | _ => 0

/-- Elements of a block stream of `n` elements in all, decoded by R77. -/
def decodeBlocks (mode : FpMode) (v : View) (f : Fmt) (base n first count : Nat) : List FpR :=
  let es := if f = .bs4 then bs4Elems (readCells v (base + first / 2) (count / 2))
    else bs8Elems (readCells v (base + first) count)
  let exps := readCells v (base + expOffset f n + first / 32) (count / 32)
  (es.zip (List.range count)).map fun e => blockElem mode ((exps.getD (e.2 / 32) 0).toNat) e.1

/-- The values of an input along columns [c, c + n) of row `m`. -/
def VecArgs.inVal (x : VecArgs) (mode : FpMode) (v : View) (s : VecIn) (m c n : Nat) : RowVal :=
  if s.kind = 2 then ⟨true, [decodeElem v s.fmt (s.addr + s.fmt.size * m)], 0⟩
  else if s.kind = 3 then ⟨false, (List.range n).map fun j => decodeElem v s.fmt (s.addr + s.fmt.size * (c + j)), 0⟩
  else if s.fmt.block then
    let rs := decodeBlocks mode v s.fmt s.addr (x.m * x.l) (m * x.l + c) n
    ⟨false, rs.map (·.bits), (rs.filter (·.sat)).length⟩
  else
    let pos := fun j => if s.stride = 1 then m * x.l + c + j else 2 * (m * x.l + c + j) + s.phase
    ⟨false, (List.range n).map fun j => decodeElem v s.fmt (s.addr + s.fmt.size * pos j), 0⟩

/-- R113: the half that UNPACK2 takes: PHASE of the stream it reads (DEDUCED, log 14). -/
def VecArgs.unpackHigh (x : VecArgs) (s : VecStage) : Bool :=
  match s.srcs with
  | .input j :: _ => (x.input? j).any fun v => v.phase == 1
  | _ => false

/-- One stage of a row, over what stands before it. -/
def VecArgs.runStage (x : VecArgs) (mode : FpMode) (table : List Nat) (n : Nat) (ins : List RowVal)
    (done : List RowVal) (i : Nat) : RowVal :=
  match x.stage? i with
  | none => ⟨true, [0], 0⟩
  | some s =>
    let value : Src → RowVal := fun t => match t with
      | .input j => ins.getD j ⟨true, [0], 0⟩
      | .const j => ⟨true, [x.consts.getD j 0], 0⟩
      | .stage j => done.getD j ⟨true, [0], 0⟩
      | .none => ⟨true, [0], 0⟩
    let a := value (s.srcs.getD 0 .none)
    let b := value (s.srcs.getD 1 .none)
    let c := value (s.srcs.getD 2 .none)
    let len := if x.rowStage i then 1 else n
    if s.op.reduces then
      let t := s.op.reduce mode ((List.range n).map a.get)
      ⟨true, [t.bits], t.sats⟩
    else if s.op = .unpack2 then
      let high := x.unpackHigh s
      ⟨x.rowStage i, (List.range len).map fun l =>
        readFp mode (ofBf16 (if high then bf16Bits (a.get l) else BitVec.ofNat 16 (a.get l).toNat)), 0⟩
    else if [VecOp.permute, .shufXor, .shufRot, .shufBcast].contains s.op then
      ⟨x.rowStage i, (List.range len).map fun l => readFp mode (a.get (s.from_ table l)), 0⟩
    else
      let rs := (List.range len).map fun l =>
        let r := s.op.apply mode (if x.packed then 8 else 24) (a.get l) (b.get l) (c.get l)
        let q := roundBf16 mode s.op.setsSign r.bits
        if x.packed then ⟨q.bits, r.sat || q.sat⟩ else r
      ⟨x.rowStage i, rs.map (·.bits), (rs.filter (·.sat)).length⟩

/-- Every stage of a part of a row, and the saturations raised. -/
def VecArgs.runRow (x : VecArgs) (mode : FpMode) (v : View) (table : List Nat) (m c n : Nat) : List RowVal × Nat :=
  let ins := x.ins.map fun o => match o with
    | some s => x.inVal mode v s m c n
    | none => ⟨true, [0], 0⟩
  let stages := (List.range 8).foldl (fun done i => done ++ [x.runStage mode table n ins done i]) []
  (stages, (ins ++ stages).foldl (fun t r => t + r.sats) 0)

/-! ### Outputs (R110, R118, R119) -/

/-- One block of an output and the elements that a forced exponent clamped (R119). -/
def VecOut.block (o : VecOut) (xs : List W32) : Block × Nat :=
  match o.forced with
  | some ef => toBlockForced o.fmt ef xs
  | none => (toBlock o.fmt xs, 0)

/-- Element bytes of a block. -/
def blockBytes (f : Fmt) (b : Block) : List Byte := if f = .bs4 then bs4Bytes b.elems else bs8Bytes b.elems

/-- The writes of an output for `n` elements from column `c` of row `m`, and its saturations. -/
def VecArgs.outWrites (x : VecArgs) (mode : FpMode) (o : VecOut) (m c : Nat) (vs : List W32) :
    List (Nat × List Byte) × Nat :=
  let at_ := m * x.l + c
  if o.fmt.block then
    let bs := (List.range (vs.length / 32)).map fun i => o.block ((vs.drop (32 * i)).take 32)
    ([(o.addr + elemPlane o.fmt at_, bs.flatMap fun b => blockBytes o.fmt b.1),
      (o.addr + expOffset o.fmt (x.m * x.l) + at_ / 32, bs.map fun b => BitVec.ofNat 8 b.1.exp)],
      bs.foldl (fun t b => t + b.2) 0)
  else
    let signed := (x.stage? o.src).any fun s => s.op.setsSign
    let rs := if o.fmt = .bf16 then vs.map (roundBf16 mode signed) else vs.map fun v => ⟨v, false⟩
    let bytes := fun (r : FpR) => if o.fmt = .bf16 then toLe 2 (bf16Bits r.bits).toNat else toLe 4 r.bits.toNat
    let sats := (rs.filter (·.sat)).length
    if o.stride = 1 then ([(o.addr + o.fmt.size * at_, rs.flatMap bytes)], sats)
    else ((rs.zip (List.range rs.length)).map fun r =>
      (o.addr + o.fmt.size * (2 * (at_ + r.2) + o.phase), bytes r.1), sats)

/-- The writes of a tiled output for a group of 32 rows from row `m`, and the elements clamped. -/
def VecArgs.tileWrites (x : VecArgs) (o : VecOut) (m c n : Nat) (rows : List (List W32)) :
    List (Nat × List Byte) × Nat :=
  (List.range (n / 32)).foldl (fun acc q =>
    let (b, k) := o.block (rows.flatMap fun r => (r.drop (32 * q)).take 32)
    let t := tileOf x.l m (c + 32 * q)
    (acc.1 ++ [(o.addr + 1024 * t, bs8Bytes b.elems),
      (o.addr + expOffset .bs8 (x.m * x.l) + t, [BitVec.ofNat 8 b.exp])], acc.2 + k)) ([], 0)

/-- Zero bytes at the end of a block output's exponent plane (R68). -/
def VecArgs.padWrites (x : VecArgs) : List (Nat × List Byte) :=
  (x.outs.filter fun o => o.fmt.block).map fun o =>
    let blocks := x.m * x.l / if x.tiled then 1024 else 32
    (o.addr + expOffset o.fmt (x.m * x.l) + blocks, List.replicate (alignUp blocks 32 - blocks) 0)

/-- The writes of a chunk and its saturations; `last` chunks pad the exponent planes. -/
def VecArgs.chunkWrites (x : VecArgs) (mode : FpMode) (v : View) (i : Nat) : List (Nat × List Byte) × Nat :=
  let (r, nr, c, nc) := x.chunk i
  let table := (List.range 512).map fun j => leNat (readCells v (x.perm + 2 * j) 2)
  let table := if x.permRuns.isEmpty then [] else table
  let rows := (List.range nr).map fun k => x.runRow mode v table (r + k) c nc
  let along := fun (s : Nat) (row : List RowVal × Nat) =>
    let w := row.1.getD s ⟨true, [0], 0⟩
    (List.range nc).map w.get
  let outs := x.outs.map fun o =>
    if x.tiled && o.fmt.block then
      (List.range (nr / 32)).foldl (fun acc g =>
        let ws := x.tileWrites o (r + 32 * g) c nc (((rows.drop (32 * g)).take 32).map (along o.src))
        (acc.1 ++ ws.1, acc.2 + ws.2)) ([], 0)
    else
      (rows.zip (List.range nr)).foldl (fun acc row =>
        let ws := x.outWrites mode o (r + row.2) c (along o.src row.1)
        (acc.1 ++ ws.1, acc.2 + ws.2)) ([], 0)
  let reds := x.reds.flatMap fun e => (rows.zip (List.range nr)).map fun row =>
    (e.1 + 4 * (r + row.2), toLe 4 ((row.1.1.getD e.2 ⟨true, [0], 0⟩).get 0).toNat)
  let pad := if r + nr = x.m && c + nc = x.l then x.padWrites else []
  (outs.flatMap (·.1) ++ reds ++ pad,
    outs.foldl (fun t o => t + o.2) 0 + rows.foldl (fun t row => t + row.2) 0)

/-- What a chunk reads: its part of each element stream, row values, columns and the table. -/
def VecArgs.chunkReads (x : VecArgs) (i : Nat) : List (Nat × Nat) :=
  let (r, nr, c, nc) := x.chunk i
  let table := x.permRuns.map fun q => (q.first, q.size)
  table ++ (x.ins.filterMap id).flatMap fun s =>
    if s.kind = 2 then [(s.addr + s.fmt.size * r, s.fmt.size * nr)]
    else if s.kind = 3 then [(s.addr + s.fmt.size * c, s.fmt.size * nc)]
    else (List.range nr).flatMap fun k =>
      let at_ := (r + k) * x.l + c
      if s.fmt.block then
        [(s.addr + elemPlane s.fmt at_, elemPlane s.fmt nc),
          (s.addr + expOffset s.fmt (x.m * x.l) + at_ / 32, nc / 32)]
      else if s.stride = 1 then [(s.addr + s.fmt.size * at_, s.fmt.size * nc)]
      else (List.range nc).map fun j => (s.addr + s.fmt.size * (2 * (at_ + j) + s.phase), s.fmt.size)

/-- A chunk ends: everything it reads is read before anything is written (R108); an uncorrectable read leaves it with
nothing written (R123). -/
def Dev.runVector (d : Dev) (u : UnitRef) : Dev :=
  match (d.ctx u.ctx).cmd? u.seq with
  | none => d
  | some k =>
    match vecArgs k.args with
    | none => d
    | some x =>
      match d.readView (x.chunkReads u.idx) [] with
      | (d, .error a) => (d.failUnit u.ctx u.seq stUncorrectable a).settle u.ctx u.seq
      | (d, .ok v) =>
        let (ws, sats) := x.chunkWrites (d.ctx u.ctx).mode v u.idx
        let d := d.writeUnit u.ctx u.seq u.idx ws
        d.noteSat u.ctx k satVector sats fun d => d.settle u.ctx u.seq

/-- VECTOR_CHUNK_COMPLETE (R121 to R123). -/
def execVectorChunkComplete (e : Fin 16) (s : State) : Host.Outcome State Fault Refusal :=
  done s (s.dev.completeUnit 3 e.val Dev.runVector)

end Sys2Proof.Machine
end

