-- ==== Sys2Proof/Machine/Culverts.lean ====
section
/-! DEFINITION. Culvert pieces: what a piece reads and writes, on this device or over the fabric (R147 to R156, R263,
R273, R495), and MOVE. -/

namespace Sys2Proof.Machine

open Sys2Proof

/-! ### Access to local memory (R37, R389, R427) -/

/-- The controllers and the reservoir port that local ranges use. -/
def unitsOfRanges (rs : List (Nat × Nat)) : List Nat :=
  (rs.flatMap fun r => if r.2 = 0 then [] else [unitOf r.1, unitOf (r.1 + r.2 - 1)]).eraseDups

/-- Whether a unit of R263 is in service. -/
def Dev.unitInService (d : Dev) (u : Nat) : Bool :=
  if u < 16 then (d.ctl.engines.toList.getD u {}).service else d.fab.service.toList.getD (u - 16) false

/-- Whether work that a unit of R263 has taken in may use local ranges now: their memory is not stalled by a REFCLK loss
(R389), no other unit of them is in service (R275, R409), and the host holds no line of them (R427). -/
def Dev.accessBy (d : Dev) (unit : Nat) (rs : List (Nat × Nat)) : Dev × Bool :=
  if d.stalled rs || (unitsOfRanges rs).any (fun u => u != unit && d.unitInService u) then (d, false)
  else
    let (d, wait) := d.snoopAll rs
    (d, !wait)

/-- The same for work of any other unit. -/
def Dev.access (d : Dev) (rs : List (Nat × Nat)) : Dev × Bool := d.accessBy 32 rs

/-- Whether ranges touch a window that a retirement has removed: work that was accepted before ends with NO_RESOURCE at its next
access there (R146). -/
def Dev.removedIn (d : Dev) (rs : List (Nat × Nat)) : Bool := rs.any fun r => d.inRemoved r.1 r.2

/-! ### Pieces -/

/-- A piece of a culvert command. `src` and `dst` name a remote device; `reads` are its source ranges, local addresses
there; `own` are ranges of this device that it reads besides. -/
structure Piece where
  src : Option Nat
  dst : Option Nat
  tc : Nat
  reads : List (Nat × Nat)
  own : List (Nat × Nat)
  /-- The CHANNEL of a STAGE_SEND. -/
  channel : Option Nat := none
  /-- What it writes, from the source and the own ranges as read, and the saturations raised. -/
  build : View → View → List (Nat × List Byte) × Nat

/-- The fabric ID of an address field, where it names another device (R495). -/
def Dev.remoteOf (d : Dev) (a : Nat) : Option Nat := if d.isOwn a then none else some (fidOf a)

/-! ### Packets of a piece (R262, R263) -/

/-- Cuts [a, a + n) at multiples of 4 KiB, which is what one packet carries. -/
def cut4k (a n : Nat) : List (Nat × Nat) :=
  if n = 0 then [] else
    (List.range ((a + n - 1) / 4096 + 1 - a / 4096)).map fun i =>
      let lo := max a (4096 * (a / 4096 + i))
      let hi := min (a + n) (4096 * (a / 4096 + i + 1))
      (lo, hi - lo)

/-- READ packets for whole granules around source ranges. -/
def readPackets (fid tc : Nat) (rs : List (Nat × Nat)) : List Packet :=
  let blocks := (rs.flatMap fun r => if r.2 = 0 then [] else
    cut4k (r.1 / 32 * 32) (alignUp (r.1 + r.2) 32 - r.1 / 32 * 32)).eraseDups
  blocks.map fun b =>
    { emptyPacket with type := .read, tc := tc, unit := unitOf b.1, dest := fid, addr := b.1, len := b.2 / 32 }

/-- The payload slots of whole granules: 32 data bytes and their check bytes each (R136, R263). -/
def granuleSlots (bs : List Byte) : List Byte :=
  (piecesOf 32 (bs.length / 32) bs).flatMap fun g => g ++ furrowCheck g

/-- A partial WRITE of part of one granule (R263). -/
def partialWrite (fid tc a : Nat) (bs : List Byte) : Packet :=
  let off := a % 32
  let mask := ((2 ^ bs.length - 1) <<< off)
  { emptyPacket with
    type := .write, tc := tc, unit := unitOf a, dest := fid, addr := a - off, len := 1, spec := mask
    data := padTo 36 (List.replicate off 0 ++ bs) }

/-- WRITE packets for bytes from `a`: whole granules in packets of up to 4 KiB, and partial writes at the ends. -/
def writePackets (fid tc a : Nat) (bs : List Byte) : List Packet :=
  let stop := a + bs.length
  let lo := alignUp a 32
  let hi := stop / 32 * 32
  let part := fun (x y : Nat) => if x < y then [partialWrite fid tc x ((bs.drop (x - a)).take (y - x))] else []
  if hi < lo then part a stop
  else
    part a lo
    ++ ((cut4k lo (hi - lo)).map fun b =>
      { emptyPacket with
        type := .write, tc := tc, unit := unitOf b.1, dest := fid, addr := b.1, len := b.2 / 32
        data := granuleSlots ((bs.drop (b.1 - a)).take b.2) })
    ++ part hi stop

/-- What marks an answered packet in a unit's record: a read's address, a write's address, mask and destination. -/
def ackKey (p : Packet) : Nat := if p.type = .read then p.addr else p.addr + 2 ^ 44 * p.spec + 2 ^ 76 * p.dest

/-- Issues the packets of a unit that are neither answered nor outstanding; it stalls where no entry is free (R273). -/
def Dev.issueMissing (d : Dev) (owner : Owner) (have_ : List (Nat × List Byte)) (ps : List Packet) : Dev :=
  ps.foldl (fun d p =>
    let known := have_.any (fun r => r.1 == ackKey p)
      || d.fab.entries.any fun e => e.2.owner == owner && !e.2.discard && ackKey e.2.packet == ackKey p
    if known then d else (d.request owner p).getD d) d

/-- Whether every packet of a unit has been answered. -/
def answered (have_ : List (Nat × List Byte)) (ps : List Packet) : Bool :=
  ps.all fun p => have_.any fun r => r.1 == ackKey p

/-- The bytes that answered reads brought, as cells. -/
def viewOf (have_ : List (Nat × List Byte)) : View :=
  have_.foldl (fun v r => writeCells v r.1 r.2) []

/-! ### Running a piece -/

/-- The accepted unit of a command that an engine of class 4 holds. -/
def Dev.pieceUnit? (d : Dev) (c : Fin 16) (seq : W32) (idx : Nat) : Option (Nat × UnitRef) :=
  (List.range 16).findSome? fun i =>
    ((d.engine 4 i).units.find? fun u => u.ctx == c && u.seq == seq && u.idx == idx && !u.suppressed).map (i, ·)

/-- Changes a unit that an engine of class 4 holds. -/
def Dev.modPiece (d : Dev) (c : Fin 16) (seq : W32) (idx : Nat) (f : UnitRef → UnitRef) : Dev :=
  { d with clv := { d.clv with engines := d.clv.engines.map fun e =>
    { e with units := mapWhere (fun u => u.ctx == c && u.seq == seq && u.idx == idx && !u.suppressed) f e.units } } }

/-- Takes a unit from the engine of class 4 that holds it. -/
def Dev.dropPiece (d : Dev) (c : Fin 16) (seq : W32) (idx : Nat) : Dev :=
  { d with clv := { d.clv with engines := d.clv.engines.map fun e =>
    { e with units := e.units.filter fun u => u.suppressed || !(u.ctx == c && u.seq == seq && u.idx == idx) } } }

/-- A piece ends its command with a status (R155, R173). -/
def Dev.failPiece (d : Dev) (c : Fin 16) (seq : W32) (idx status addr : Nat) : Dev :=
  let mine : Owner → Bool := fun o => match o with
    | .culvert _ x s i => x == c && s == seq && i == idx
    | .stage x s i _ => x == c && s == seq && i == idx
    | _ => false
  (((d.failUnit c seq status addr).dropPiece c seq idx).disown mine).settle c seq

/-- Reads what a piece needs on this device. -/
def Dev.readPiece (d : Dev) (p : Piece) (u : UnitRef) : Dev × Except Nat (View × View) :=
  match d.readView p.own [] with
  | (d, .error a) => (d, .error a)
  | (d, .ok own) =>
    if p.src.isSome then (d, .ok (viewOf u.rx, own))
    else match d.readView p.reads [] with
      | (d, .error a) => (d, .error a)
      | (d, .ok v) => (d, .ok (v, own))

/-- The packets of a piece with a remote side: reads, or writes built from its source, which is read once, before the first of them
is sent (R155). -/
def Dev.piecePackets (d : Dev) (p : Piece) (u : UnitRef) : Dev × Except Nat (List Packet) :=
  match p.src, p.dst with
  | some fid, _ => (d, .ok (readPackets fid p.tc p.reads))
  | none, some fid =>
    let packets := fun (ws : List (Nat × List Byte)) => ws.flatMap fun w => writePackets fid p.tc w.1 w.2
    match u.built with
    | some ws => (d, .ok (packets ws))
    | none =>
      match d.readPiece p u with
      | (d, .error a) => (d, .error a)
      | (d, .ok (v, own)) =>
        let ws := (p.build v own).1
        (d.modPiece u.ctx u.seq u.idx fun u => { u with built := some ws }, .ok (packets ws))
  | none, none => (d, .ok [])

/-- Local ranges that a piece reads. -/
def Piece.local_ (p : Piece) : List (Nat × Nat) := p.own ++ if p.src.isSome then [] else p.reads

/-- Sends what a piece with a remote side has still to send; a device that R25 finds no way to ends it. -/
def Dev.pushPiece (d : Dev) (inst : Nat) (u : UnitRef) (p : Piece) : Dev :=
  match p.src.orElse fun _ => p.dst with
  | none => d
  | some fid =>
    let st := d.judgeRemote fid
    if st ≠ stOk then d.failPiece u.ctx u.seq u.idx st 0
    else if d.removedIn p.local_ then d.failPiece u.ctx u.seq u.idx stNoResource 0
    else match d.access p.local_ with
      | (d, false) => d
      | (d, true) =>
        match d.piecePackets p u with
        | (d, .error a) => d.failPiece u.ctx u.seq u.idx stUncorrectable a
        | (d, .ok ps) =>
          let owner := match p.channel with
            | some ch => Owner.stage u.ctx u.seq u.idx ch
            | none => .culvert inst u.ctx u.seq u.idx
          d.issueMissing owner u.rx ps

/-- The unit at the head of a culvert has finished its piece: it leaves the engine. -/
def Dev.endPiece (d : Dev) (inst : Nat) (u : UnitRef) : Dev := d.popUnit 4 inst u.ctx

/-- A piece that completes if it can: a remote one when everything it sent is answered. Nothing is written after an
uncorrectable read (R155), nor in a window removed since its command issued (R146). `finish` runs after the unit is complete. -/
def Dev.tryPiece (d : Dev) (inst : Nat) (u : UnitRef) (k : Cmd) (p : Piece) (finish : Dev → Dev) : Dev :=
  if d.removedIn p.local_ then d.failPiece u.ctx u.seq u.idx stNoResource 0 else
  match d.access p.local_ with
  | (d, false) => d
  | (d, true) =>
    match d.piecePackets p u with
    | (d, .error a) => d.failPiece u.ctx u.seq u.idx stUncorrectable a
    | (d, .ok ps) =>
      if !answered u.rx ps then d.pushPiece inst u p
      else if p.dst.isSome then
        finish ((d.endPiece inst u).modCmd u.ctx u.seq fun k => k.unitDone u.idx)
      else
        match d.readPiece p u with
        | (d, .error a) => d.failPiece u.ctx u.seq u.idx stUncorrectable a
        | (d, .ok (v, own)) =>
          let (ws, sats) := p.build v own
          if d.removedIn (ws.map fun w => (w.1, w.2.length)) then d.failPiece u.ctx u.seq u.idx stNoResource 0 else
          match d.access (ws.map fun w => (w.1, w.2.length)) with
          | (d, false) => d
          | (d, true) =>
            let d := (d.endPiece inst u).writeUnit u.ctx u.seq u.idx ws
            d.noteSat u.ctx k satCulvert sats finish

/-! ### MOVE (R148 to R152) -/

/-- Source ranges of the whole move. -/
def MoveArgs.srcRanges (x : MoveArgs) : List (Nat × Nat) :=
  let src := localOf x.src
  match x.kind with
  | .transposeTiled => [(src, tensorBytes .bs8 (x.rows * x.rowBytes) 1024)]
  | .convert .bs4 _ => [(src, tensorBytes .bs4 (x.rows * x.len) 32)]
  | _ => (List.range x.rows).map fun r => (src + r * x.srcStride, x.rowBytes)

/-- Destination ranges of the whole move. -/
def MoveArgs.dstRanges (x : MoveArgs) : List (Nat × Nat) :=
  let dst := localOf x.dst
  match x.blocked with
  | some (els, per) => [(dst, tensorBytes .bs8 els per)]
  | none => (List.range x.dstShape.1).map fun r => (dst + r * x.dstStride, x.dstShape.2)

/-- R149: how a side is judged: BAD_ARG in the register region or the reserved range, NO_RESOURCE in a removed window. A
remote side is judged for its regions and the reserved range where R134 puts it (DEDUCED, log 11); where the peer's start has
moved that range, and what the peer has removed, the peer judges. -/
def Dev.sideStatus (d : Dev) (isLocal : Bool) (rs : List (Nat × Nat)) : Nat :=
  let st := fun (r : Nat × Nat) =>
    if isLocal then d.rangeStatus r.1 r.2
    else match regionOfRange r.1 r.2 with
      | .none => stBadArg
      | .registers => stBadArg
      | _ => if overlaps r.1 r.2 hbmBase reservedBytes then stBadArg else stOk
  if rs.any fun r => st r == stBadArg then stBadArg
  else if rs.any fun r => st r != stOk then stNoResource
  else stOk

/-- The status of a MOVE at issue (R149, R25). -/
def Dev.checkMove (d : Dev) (x : MoveArgs) : Nat :=
  let ls := d.isOwn x.src
  let ld := d.isOwn x.dst
  let s := d.sideStatus ls x.srcRanges
  let t := d.sideStatus ld x.dstRanges
  let clash := ls && ld && x.srcRanges.any fun r => x.dstRanges.any fun q => overlaps r.1 r.2 q.1 q.2
  if (!ls && !ld) || s = stBadArg || t = stBadArg || clash then stBadArg
  else if s ≠ stOk || t ≠ stOk then stNoResource
  else if !ls then d.judgeRemote (fidOf x.src)
  else if !ld then d.judgeRemote (fidOf x.dst)
  else stOk

/-- Source ranges of piece `i`. -/
def MoveArgs.pieceReads (x : MoveArgs) (i : Nat) : List (Nat × Nat) :=
  let (r, off, n) := x.piece i
  let src := localOf x.src
  match x.kind with
  | .copy => [(src + r * x.srcStride + off, n)]
  | .transposeRaw e => (List.range (n / e)).map fun j => (src + (off / e + j) * x.srcStride + r * e, e)
  | .transposeTiled => (List.range (n / 1024)).flatMap fun j =>
    let t := (off / 1024 + j) * (x.rowBytes / 32) + r
    [(src + 1024 * t, 1024), (src + expOffset .bs8 (x.rows * x.rowBytes) + t, 1)]
  | .convert .bs4 _ =>
    let e := r * x.len + off
    [(src + e / 2, n / 2), (src + expOffset .bs4 (x.rows * x.len) + e / 32, n / 32)]
  | .convert f false => [(src + r * x.srcStride + f.size * off, f.size * n)]
  | .convert f true => (List.range 32).map fun j =>
    (src + (32 * r + j) * x.srcStride + f.size * (off / 32), f.size * (n / 32))

/-- FP32 words of a run of elements of a floating format. -/
def decodeRun (v : View) (f : Fmt) (a n : Nat) : List W32 :=
  (List.range n).map fun i => decodeElem v f (a + f.size * i)

/-- What piece `i` writes, from its source (R150 to R152); the last piece pads the exponent plane (R68). -/
def MoveArgs.pieceWrites (x : MoveArgs) (i : Nat) (v : View) : List (Nat × List Byte) :=
  let (r, off, n) := x.piece i
  let src := localOf x.src
  let runs := x.pieceRuns i
  let at_ := (runs.getD 0 (0, 0)).1
  let expAt := (runs.getD 1 (0, 0)).1
  let pad := match x.blocked with
    | some (els, per) => if i + 1 = x.pieces then
        [(localOf x.dst + expOffset .bs8 els + els / per, List.replicate (alignUp (els / per) 32 - els / per) 0)] else []
    | none => []
  let blocks := fun (bs : List Block) =>
    [(at_, bs.flatMap fun b => bs8Bytes b.elems), (expAt, bs.map fun b => BitVec.ofNat 8 b.exp)]
  (match x.kind with
  | .copy => [(at_, readCells v (src + r * x.srcStride + off) n)]
  | .transposeRaw e => [(at_, (List.range (n / e)).flatMap fun j =>
      readCells v (src + (off / e + j) * x.srcStride + r * e) e)]
  | .transposeTiled =>
    let tiles := (List.range (n / 1024)).map fun j => (off / 1024 + j) * (x.rowBytes / 32) + r
    [(at_, tiles.flatMap fun t => (List.range 32).flatMap fun a => (List.range 32).map fun b =>
        byteAt v (src + 1024 * t + 32 * b + a)),
      (expAt, tiles.map fun t => byteAt v (src + expOffset .bs8 (x.rows * x.rowBytes) + t))]
  | .convert .bs4 _ =>
    let e := r * x.len + off
    [(at_, bs8Bytes (bs4Elems (readCells v (src + e / 2) (n / 2)))),
      (expAt, readCells v (src + expOffset .bs4 (x.rows * x.len) + e / 32) (n / 32))]
  | .convert f false => blocks ((List.range (n / 32)).map fun j =>
      toBlock .bs8 (decodeRun v f (src + r * x.srcStride + f.size * (off + 32 * j)) 32))
  | .convert f true => blocks ((List.range (n / 1024)).map fun j =>
      toBlock .bs8 ((List.range 32).flatMap fun b =>
        decodeRun v f (src + (32 * r + b) * x.srcStride + f.size * (off / 32 + 32 * j)) 32)))
  ++ pad

/-- Piece `i` of a MOVE. -/
def Dev.movePiece (d : Dev) (x : MoveArgs) (i : Nat) : Piece where
  src := d.remoteOf x.src
  dst := d.remoteOf x.dst
  tc := x.tc
  reads := x.pieceReads i
  own := []
  build := fun v _ => (x.pieceWrites i v, 0)

end Sys2Proof.Machine
end

