-- ==== Sys2Proof/Machine/Master.lean ====
section
/-! DEFINITION. Master weights (R88 to R92, R215). -/

namespace Sys2Proof.Machine

open Sys2Proof

/-- The exponent of ulp(w) of a BF16 value in FP32 layout (R88). -/
def ulpExp (w : W32) : Int :=
  let x := bitsOf w.toNat 23 8
  if x = 0 then -133 else (x : Int) - 134

/-- The master value w + r * ulp(w) / 256, exact (R89); with r = 0 it is w, whose zero keeps its sign (DEDUCED, log 14). -/
def masterValue (w : W32) (r : Int) : W32 :=
  let v := decodeFp .infinity w
  (encodeVal .infinity 24 (if r = 0 then v else addVal v (.fin (decide (r < 0)) r.natAbs (ulpExp w - 8)))).bits

/-- A finite value in units of 2^e, to nearest even. -/
def unitsOf (v : Fp) (e : Int) : Int :=
  match v with
  | .fin s m x =>
    let n : Int := (roundNe m (x - e) : Nat)
    if s then -n else n
  | _ => 0

/-- A master weight as stored: the BF16 value in FP32 layout and its remainder. -/
structure Master where
  w : W32
  r : Int
  sat : Bool
  deriving DecidableEq, Repr

/-- R90, R91: the master weight of a value v, or none for a non-finite update. -/
def toMaster (mode : FpMode) (v : W32) : Option Master :=
  if isNonFinite v then none else
    let b := toBf16 mode v
    if isNonFinite b.bits then none
    else if b.sat then some ⟨b.bits, if bitOf v.toNat 31 then -127 else 127, true⟩
    else if isZero b.bits then some ⟨b.bits, 0, false⟩
    else
      let diff := addVal (decodeFp mode v) (negVal (decodeFp mode b.bits))
      let r := unitsOf diff (ulpExp b.bits - 8)
      some ⟨b.bits, if 127 < r then 127 else if r < -127 then -127 else r, false⟩

end Sys2Proof.Machine
end

