-- ==== Sys2Proof/Machine/ShardIo.lean ====
section
/-! DEFINITION. Descriptors and payloads of shards (R216, R217), SHARD_EXPORT (R218) and SHARD_IMPORT (R219 to R222,
R215). -/

namespace Sys2Proof.Machine

open Sys2Proof

/-! ### Payloads (R216, R217) -/

/-- Planes of a SET by number. -/
def setPlanes (set : Nat) : List Nat := if set = 0 then [0, 1, 2, 3, 4] else if set = 1 then [0, 1] else [5]

/-- Packs sizes at multiples of 32: (plane, offset, size) of the planes that are present. -/
def packPlanes : List (Nat × Nat) → Nat → List (Nat × Nat × Nat)
  | [], _ => []
  | (i, n) :: r, off => if n = 0 then packPlanes r off else (i, off, n) :: packPlanes r (alignUp (off + n) 32)

/-- The planes of a payload (R217). -/
def Shard.packed (x : Shard) (set : Nat) : List (Nat × Nat × Nat) :=
  packPlanes ((setPlanes set).map fun i => (i, x.planes.getD i 0)) 0

/-- The planes of an EVD-32 payload: W and, for SET 0, one moment, in FP32 (R219). -/
def Shard.packedEvd (x : Shard) (set : Nat) : List (Nat × Nat × Nat) :=
  packPlanes ((0, 4 * x.size) :: if set = 0 then [(2, 4 * x.size)] else []) 0

/-- The size of packed planes. -/
def packedBytes (l : List (Nat × Nat × Nat)) : Nat :=
  match l.getLast? with
  | some p => p.2.1 + p.2.2
  | none => 0

/-- PAYLOAD_LEN of a SET. -/
def Shard.payloadLen (x : Shard) (set : Nat) : Nat := packedBytes (x.packed set)

/-- The local ranges that bytes [b, b + n) of a payload stand in, in a slot at `base`; gaps between planes read 0. -/
def Shard.payloadRanges (x : Shard) (set base b n : Nat) : List (Nat × Nat × Nat) :=
  (x.packed set).filterMap fun p =>
    let lo := max b p.2.1
    let hi := min (b + n) (p.2.1 + p.2.2)
    if lo < hi then some (base + x.planeOff p.1 + (lo - p.2.1), lo - b, hi - lo) else none

/-- Payload bytes [b, b + n) from a view of the slot. -/
def Shard.payloadBytes (x : Shard) (v : View) (set base b n : Nat) : List Byte :=
  (x.payloadRanges set base b n).foldl (fun bs r => splice bs r.2.1 (readCells v r.1 r.2.2)) (List.replicate n 0)

/-- The 128-byte descriptor of FORMAT 0 (R216). -/
def Shard.descriptor (x : Shard) (set slot : Nat) (step : W64) (digest : List Byte) : List Byte :=
  let head := Machine.layout 128 [(0, 4, x.tensor), (4, 2, x.layer), (6, 1, x.layout), (8, 1, set), (9, 1, slot), (10, 1, x.form),
    (11, 1, x.axes), (16, 8, step.toNat), (72, 8, x.payloadLen set)]
  splice (splice (splice head 24 x.rangeBytes) 56 x.extentBytes) 80 digest

/-! ### SHARD_EXPORT (R218) -/

/-- Whether an export would overlap what it reads: the source and destination that R149 names (R218; DEDUCED, log 14). -/
def Shard.exportClash (s : Shard) (x : ExportArgs) : Bool :=
  (s.payloadRanges x.set (s.slotBase s.live) 0 (s.payloadLen x.set)).any fun r =>
    overlaps r.1 r.2.2 (localOf x.dst) (128 + s.payloadLen x.set)

/-- The status of an export at issue. -/
def Dev.checkExport (d : Dev) (c : Fin 16) (x : ExportArgs) : Nat :=
  match d.shard? x.handle with
  | none => stBadArg
  | some s =>
    let len := s.payloadLen x.set
    if s.ctx ≠ c then stBadArg
    else if s.lost then stNoResource
    else if s.state = .unseeded || (x.set = 2 && !s.hasWc) || x.dstLen < 128 + len then stBadArg
    else
      let isLocal := d.isOwn x.dst
      let st := d.sideStatus isLocal [(localOf x.dst, 128 + len)]
      if isLocal && s.exportClash x then stBadArg
      else if st ≠ stOk then st else if isLocal then stOk else d.judgeRemote (fidOf x.dst)

/-- 64 KiB pieces of a payload. -/
def payloadPieces (len : Nat) : Nat := ceilDiv len 65536

/-- Piece `i` of an export: a piece of payload, or after the last one the descriptor with the payload's digest. -/
def Dev.exportPiece (d : Dev) (k : Cmd) (x : ExportArgs) (s : Shard) (i : Nat) : Piece :=
  let slot := k.lists.getD 0 0
  let base := s.slotBase slot
  let len := s.payloadLen x.set
  let whole := decide (i = payloadPieces len)
  let b := if whole then 0 else 65536 * i
  let n := if whole then len else min 65536 (len - b)
  { src := none, dst := d.remoteOf x.dst, tc := x.tc
    reads := (s.payloadRanges x.set base b n).map fun r => (r.1, r.2.2), own := []
    build := fun v _ =>
      let bs := s.payloadBytes v x.set base b n
      if whole then
        ([(localOf x.dst, s.descriptor x.set slot (BitVec.ofNat 64 (k.lists.getD 1 0)) (sha384 bs))], 0)
      else ([(localOf x.dst + 128 + b, bs)], 0) }

/-! ### Index boxes (R193, R220) -/

/-- The coordinates of row-major offset `o` in ranges of these lengths, first axis first. -/
def unravel : List Nat → Nat → List Nat
  | [], _ => []
  | _ :: r, o => (o / product r) :: unravel r (o % product r)

/-- The row-major offset of coordinates. -/
def ravel : List Nat → List Nat → Nat
  | _ :: r, x :: xs => x * product r + ravel r xs
  | _, _ => 0

/-- The absolute index of offset `o` of a shard. -/
def Shard.indexOf (x : Shard) (o : Nat) : List Nat :=
  (x.ranges.zip (unravel x.lens o)).map fun e => e.1.1 + e.2

/-- The offset of an absolute index in a shard's ranges. -/
def Shard.offsetOf (x : Shard) (i : List Nat) : Nat :=
  ravel x.lens ((x.ranges.zip i).map fun e => e.2 - e.1.1)

/-- Whether a box holds an index. -/
def inBox (box : List (Nat × Nat)) (i : List Nat) : Bool :=
  (box.zip i).all fun e => decide (e.1.1 ≤ e.2) && decide (e.2 < e.1.2)

/-- The intersection of ranges (R220). -/
def intersect (a b : List (Nat × Nat)) : List (Nat × Nat) :=
  (a.zip b).map fun e => (max e.1.1 e.2.1, min e.1.2 e.2.2)

/-- Whether every axis of a box has an index. -/
def boxLives (box : List (Nat × Nat)) : Bool := box.all fun r => decide (r.1 < r.2)

/-- Elements of a box. -/
def boxSize (box : List (Nat × Nat)) : Nat := product (box.map fun r => r.2 - r.1)

/-! ### SHARD_IMPORT at issue (R198, R215, R219, R222) -/

/-- The source of an import: its shape as a shard, FORMAT, SET and PAYLOAD_LEN. -/
structure ImportSrc where
  shape : Shard
  format : Nat
  set : Nat
  len : Nat
  digest : List Byte

/-- A descriptor's fields (R216); none where a reserved field is not 0 or a code is not listed. -/
def descriptorOf (b : List Byte) : Option ImportSrc :=
  let axes := fieldAt b 11 1
  let ok := decide (fieldAt b 4 2 < 4096) && decide (fieldAt b 6 1 < 4) && decide (fieldAt b 7 1 < 2)
    && decide (fieldAt b 8 1 < 3) && decide (fieldAt b 9 1 < 2) && decide (fieldAt b 10 1 < 16) && zeroAt b 12 4
    && decide (1 ≤ axes) && decide (axes ≤ 4)
  if ok then
    some { shape := { ctx := 0, form := fieldAt b 10 1, layout := fieldAt b 6 1, axes := axes
                      layer := fieldAt b 4 2, tensor := fieldAt b 0 4
                      ranges := (List.range axes).map fun i => (fieldAt b (24 + 8 * i) 4, fieldAt b (28 + 8 * i) 4)
                      extent := (List.range axes).map fun i => fieldAt b (56 + 4 * i) 4
                      slot0 := 0, slot1 := 0, home := 0 }
           format := fieldAt b 7 1, set := fieldAt b 8 1, len := fieldAt b 72 8, digest := (b.drop 80).take 48 }
  else none

/-- Every range bound of the matrix axes is a multiple of 32 or the extent (R219). -/
def boundsOk (x : Shard) : Bool :=
  x.layout == 0 || ((x.ranges.zip x.extent).drop (x.axes - 2)).all fun e =>
    (aligned e.1.1 32 || e.1.1 == e.2) && (aligned e.1.2 32 || e.1.2 == e.2)

/-- The planes of an import's payload. -/
def ImportSrc.planes (g : ImportSrc) : List (Nat × Nat × Nat) :=
  if g.format = 1 then g.shape.packedEvd g.set else g.shape.packed g.set

/-- Whether an issued entry of UPDATE or APPLY of the present step names a handle (R198, R201). -/
def Dev.updateNames (d : Dev) (c : Fin 16) (h : Nat) : Bool :=
  ((d.shard? h).any fun x => x.report.isSome || (x.state == .staged && !x.byImport))
    || (d.ctx c).cmds.any fun k => k.issued && k.step.isSome &&
      ((k.entry.opcode == opUpdate && (List.range (fieldAt k.args 28 2)).any fun i => fieldAt k.args (64 + 32 * i) 2 == h)
        || (k.entry.opcode == opOuter && bitOf (fieldAt k.args 4 1) 0
          && (List.range (fieldAt k.args 5 2)).any fun i => fieldAt k.args (64 + 32 * i) 2 == h))

/-- What the descriptor decides at issue. A moment that only one of the two has counts as another form (DEDUCED, log 14). -/
def Dev.checkSource (d : Dev) (c : Fin 16) (h : Nat) (inStep : Bool) (x : Shard) (g : ImportSrc) : Nat :=
  let box := intersect g.shape.ranges x.ranges
  if x.tensor ≠ g.shape.tensor || x.layout ≠ g.shape.layout || x.axes ≠ g.shape.axes || x.extent ≠ g.shape.extent
      || g.set = 2
      || (g.format = 0 && (x.factored != g.shape.factored || x.hasMom != g.shape.hasMom))
      || (g.format = 1 && x.factored) || !boundsOk x || !boundsOk g.shape || !boxLives box
      || (x.coverBoxes inStep).any (fun b => boxLives (intersect b box)) || g.len ≠ packedBytes g.planes then stBadArg
  else if (if inStep then d.updateNames c h else x.state != .unseeded) then stBadArg
  else if 64 ≤ (x.coverBoxes inStep).length then stNoResource
  else stOk

/-- R215: an EVD-32 payload holds a weight that no master weight can stand for. -/
def evdRefused (g : ImportSrc) (payload : List Byte) : Bool :=
  g.format == 1 && (List.range g.shape.size).any fun i =>
    (toMaster .infinity (BitVec.ofNat 32 (fieldAt payload (4 * i) 4))).isNone

/-! ### SHARD_IMPORT pieces (R220, R221) -/

/-- The value of source element `so` of the moment plane, at the payload's base `pb`; a saturation with it. -/
def ImportSrc.momValue (g : ImportSrc) (mode : FpMode) (v : View) (pb off so : Nat) : FpR :=
  if g.format = 1 then ⟨wordOf v (pb + off + 4 * so), false⟩
  else if g.shape.momBs8 then
    blockElem mode (byteAt v (pb + off + alignUp g.shape.size 32 + so / 32)).toNat (byteAt v (pb + off + so)).toInt
  else ⟨halfOf v (pb + off + 2 * so), false⟩

/-- Source bytes of that element. -/
def ImportSrc.momReads (g : ImportSrc) (pb off so : Nat) : List (Nat × Nat) :=
  if g.format = 1 then [(pb + off + 4 * so, 4)]
  else if g.shape.momBs8 then [(pb + off + so, 1), (pb + off + alignUp g.shape.size 32 + so / 32, 1)]
  else [(pb + off + 2 * so, 2)]

/-- Bytes of an element of a plane of the payload. -/
def ImportSrc.elemSize (g : ImportSrc) (plane : Nat) : Nat :=
  if g.format = 1 then 4
  else if plane = 0 then 2 else if plane = 1 then 1 else if plane = 2 then (if g.shape.momBs8 then 1 else 2) else 4

/-- An import under way: the shard, its source, the slot it writes, the box, and the payload's local base. -/
structure ImportRun where
  x : Shard
  g : ImportSrc
  base : Nat
  box : List (Nat × Nat)
  pb : Nat

/-- Source and shard offsets of the box's elements of a plane whose first byte lies in payload bytes [b, b + n). -/
def ImportRun.elems (r : ImportRun) (plane b n : Nat) : List (Nat × Nat) :=
  match r.g.planes.find? fun p => p.1 == plane with
  | none => []
  | some (_, off, _) =>
    let z := r.g.elemSize plane
    let lo := ceilDiv (max b off - off) z
    let hi := min r.g.shape.size (ceilDiv (max (b + n) off - off) z)
    ((List.range (hi - lo)).map (lo + ·)).filterMap fun so =>
      let i := r.g.shape.indexOf so
      if inBox r.box i then some (so, r.x.offsetOf i) else none

/-- Offset of a plane in the payload. -/
def ImportRun.off (r : ImportRun) (plane : Nat) : Nat := ((r.g.planes.find? fun p => p.1 == plane).map (·.2.1)).getD 0

/-- Address of an element of a plane in the slot. -/
def ImportRun.at_ (r : ImportRun) (plane o : Nat) : Nat := r.base + r.x.planeOff plane + o

/-- A block of 32 moment elements of the slot, by number. -/
def ImportRun.momBlock (r : ImportRun) (mode : FpMode) (v own : View) (blk : Nat) : List (Nat × List Byte) × Nat :=
  let expAt := r.at_ 2 (alignUp r.x.size 32 + blk)
  let vals := (List.range 32).map fun j =>
    let to_ := 32 * blk + j
    let i := r.x.indexOf to_
    if inBox r.box i then
      if r.g.set = 1 then ⟨0, false⟩ else r.g.momValue mode v r.pb (r.off 2) (r.g.shape.offsetOf i)
    else blockElem mode (byteAt own expAt).toNat (byteAt own (r.at_ 2 to_)).toInt
  let b := toBlock .bs8 (vals.map (·.bits))
  ([(r.at_ 2 (32 * blk), bs8Bytes b.elems), (expAt, [BitVec.ofNat 8 b.exp])], (vals.filter (·.sat)).length)

/-- Moment blocks of the slot that elements of a piece touch. -/
def ImportRun.momBlocks (r : ImportRun) (b n : Nat) : List Nat :=
  ((r.elems (if r.g.set = 1 then 0 else 2) b n).map fun e => e.2 / 32).eraseDups

/-- The writes of W, REM and MOM for payload bytes [b, b + n), and saturations. -/
def ImportRun.elementWrites (r : ImportRun) (mode : FpMode) (v own : View) (b n : Nat) : List (Nat × List Byte) × Nat :=
  let ws := (r.elems 0 b n).flatMap fun e =>
    if r.g.format = 1 then
      match toMaster .infinity (wordOf v (r.pb + r.off 0 + 4 * e.1)) with
      | some m => [(r.at_ 0 (2 * e.2), toLe 2 (bf16Bits m.w).toNat), (r.at_ 1 e.2, [BitVec.ofInt 8 m.r])]
      | none => []
    else [(r.at_ 0 (2 * e.2), readCells v (r.pb + r.off 0 + 2 * e.1) 2)]
  let rems := if r.g.format = 1 then [] else (r.elems 1 b n).map fun e =>
    (r.at_ 1 e.2, readCells v (r.pb + r.off 1 + e.1) 1)
  let moms := if !r.x.hasMom then ([], 0)
    else if r.x.momBs8 then
      (r.momBlocks b n).foldl (fun acc blk =>
        let w := r.momBlock mode v own blk
        (acc.1 ++ w.1, acc.2 + w.2)) ([], 0)
    else (r.elems (if r.g.set = 1 then 0 else 2) b n).foldl (fun acc e =>
      let m := if r.g.set = 1 then ⟨0, false⟩ else r.g.momValue mode v r.pb (r.off 2) e.1
      let h := toBf16 mode m.bits
      (acc.1 ++ [(r.at_ 2 (2 * e.2), toLe 2 (bf16Bits h.bits).toNat)], acc.2 + bit m.sat + bit h.sat)) ([], 0)
  (ws ++ rems ++ moms.1, moms.2)

/-- The matrices that the box touches, as (number in the shard, number in the source). -/
def ImportRun.matrices (r : ImportRun) : List (Nat × Nat) :=
  (List.range r.x.mats).filterMap fun m =>
    let i := r.x.indexOf (m * r.x.rows * r.x.cols)
    let i := ((r.box.zip i).zip (List.range r.x.axes)).map fun e => if r.x.axes ≤ e.2 + 2 then e.1.1.1 else e.1.2
    if inBox r.box i then some (m, r.g.shape.offsetOf i / (r.g.shape.rows * r.g.shape.cols)) else none

/-- First row and rows of the box within a matrix of a shard's ranges. -/
def ImportRun.rowsIn (r : ImportRun) (x : Shard) : Nat × Nat :=
  let b := r.box.getD (x.axes - 2) (0, 0)
  (b.1 - (x.ranges.getD (x.axes - 2) (0, 0)).1, b.2 - b.1)

/-- First column and columns of the box within a matrix of the shard. -/
def ImportRun.colsIn (r : ImportRun) : Nat × Nat :=
  let b := r.box.getD (r.x.axes - 1) (0, 0)
  (b.1 - (r.x.ranges.getD (r.x.axes - 1) (0, 0)).1, b.2 - b.1)

/-- A sum of FP32 values, ascending (R221). -/
def sumAsc (mode : FpMode) (ws : List W32) : W32 := ws.foldl (fun t w => (fpAdd mode 24 t w).bits) 0

/-- An FP32 count. -/
def countFp (n : Nat) : W32 := (fpOfInt .infinity n 0).bits

/-- R221: the factor f of one matrix. -/
def ImportRun.factor (r : ImportRun) (mode : FpMode) (v : View) (src : Nat) : W32 :=
  let row := fun i => wordOf v (r.pb + r.off 3 + 4 * (src * r.g.shape.rows + i))
  let (lo, n) := r.rowsIn r.g.shape
  let ss := sumAsc mode ((List.range r.g.shape.rows).map row)
  let si := sumAsc mode ((List.range n).map fun i => row (lo + i))
  if isZero ss then 0 else
    let a := (fpDiv mode 24 si (countFp r.x.rows)).bits
    let b := (fpDiv mode 24 ss (countFp r.g.shape.rows)).bits
    (fpDiv mode 24 a b).bits

/-- ROWV and COLV in the factored form (R220, R221): the first import of a coverage record clears COLV. -/
def ImportRun.factors (r : ImportRun) (mode : FpMode) (v own : View) : List (Nat × List Byte) :=
  if !r.x.factored then [] else
    let (lo, n) := r.rowsIn r.x
    let (slo, _) := r.rowsIn r.g.shape
    let cols := r.x.cols
    let rowv := r.matrices.flatMap fun m => (List.range n).map fun i =>
      (r.at_ 3 (4 * (m.1 * r.x.rows + lo + i)),
        if r.g.set = 1 then [0, 0, 0, 0] else readCells v (r.pb + r.off 3 + 4 * (m.2 * r.g.shape.rows + slo + i)) 4)
    let zero := if r.x.colvCleared then [] else [(r.at_ 4 0, List.replicate (4 * r.x.mats * cols) 0)]
    let colv := if r.g.set = 1 then [] else r.matrices.map fun m =>
      let f := r.factor mode v m.2
      (r.at_ 4 (4 * m.1 * cols), (List.range cols).flatMap fun j =>
        let a := r.at_ 4 (4 * (m.1 * cols + j))
        let old := if r.x.colvCleared then wordOf own a else 0
        let add := (fpMul mode 24 f (wordOf v (r.pb + r.off 4 + 4 * (m.2 * cols + j)))).bits
        toLe 4 (fpAdd mode 24 old add).bits.toNat)
    rowv ++ zero ++ colv

/-- The working copy of the tile at (row, col) of a matrix, from W as a view has it (R207). WC keeps its matrices one after
the other, elements before exponents (DEDUCED, log 14). -/
def Shard.wcTile (x : Shard) (v : View) (base mat row col : Nat) : List (Nat × List Byte) :=
  let w := fun a b => halfOf v (base + x.planeOff 0 + 2 * ((mat * x.rows + row + a) * x.cols + col + b))
  let b := toBlock .bs8 ((List.range 32).flatMap fun a => (List.range 32).map fun b => w a b)
  let t := mat * (x.rows * x.cols / 1024) + tileOf x.cols row col
  [(base + x.planeOff 5 + 1024 * t, bs8Bytes b.elems), (base + x.planeOff 5 + x.size + t, [BitVec.ofNat 8 b.exp])]

/-- The unused bytes at the end of the exponents of the working copy and of a BS8 MOM, which are written 0 (R68). -/
def Shard.padWrites (x : Shard) (base : Nat) : List (Nat × List Byte) :=
  let pad := fun (a n : Nat) => ((a + n, List.replicate (alignUp n 32 - n) 0) : Nat × List Byte)
  (if x.hasWc then [pad (base + x.planeOff 5 + x.size) (x.size / 1024)] else [])
    ++ if x.hasMom && x.momBs8 then [pad (base + x.planeOff 2 + alignUp x.size 32) (x.size / 32)] else []

/-- The tiles that the box touches, as (matrix, row, column). -/
def ImportRun.tiles (r : ImportRun) : List (Nat × Nat × Nat) :=
  if !r.x.hasWc then [] else
    let (lo, n) := r.rowsIn r.x
    let (cl, cn) := r.colsIn
    r.matrices.flatMap fun m =>
      (List.range (ceilDiv (lo % 32 + n) 32)).flatMap fun p =>
        (List.range (ceilDiv (cl % 32 + cn) 32)).map fun q => (m.1, lo / 32 * 32 + 32 * p, cl / 32 * 32 + 32 * q)

/-- W bytes of a tile, row by row. -/
def ImportRun.tileReads (r : ImportRun) (t : Nat × Nat × Nat) : List (Nat × Nat) :=
  (List.range 32).map fun a => (r.at_ 0 (2 * ((t.1 * r.x.rows + t.2.1 + a) * r.x.cols + t.2.2)), 64)

/-- Piece `i` of an import of `pieces`. The last one also writes ROWV, COLV and the working copy, from all the pieces have
written. -/
def ImportRun.piece (r : ImportRun) (mode : FpMode) (src : Option Nat) (tc i : Nat) : Piece :=
  let b := 65536 * i
  let n := min 65536 (r.g.len - b)
  let last := decide (i + 1 = payloadPieces r.g.len)
  let momExtra := if !r.x.hasMom || r.g.set = 1 then []
    else if r.x.momBs8 then (r.momBlocks b n).flatMap fun blk => (List.range 32).flatMap fun j =>
      let k := r.x.indexOf (32 * blk + j)
      if inBox r.box k then r.g.momReads r.pb (r.off 2) (r.g.shape.offsetOf k) else []
    else (r.elems 2 b n).flatMap fun e => r.g.momReads r.pb (r.off 2) e.1
  let momOwn := if r.x.hasMom && r.x.momBs8 then (r.momBlocks b n).flatMap fun blk =>
    [(r.at_ 2 (32 * blk), 32), (r.at_ 2 (alignUp r.x.size 32 + blk), 1)] else []
  let planes := if last && r.x.factored && r.g.set = 0 then
    [(r.pb + r.off 3, 4 * r.g.shape.mats * r.g.shape.rows), (r.pb + r.off 4, 4 * r.g.shape.mats * r.g.shape.cols)] else []
  let colv := if last && r.x.factored && r.x.colvCleared then [(r.at_ 4 0, 4 * r.x.mats * r.x.cols)] else []
  { src := src, dst := none, tc := tc
    reads := (r.pb + b, n) :: momExtra ++ planes
    own := momOwn ++ colv ++ if last then r.tiles.flatMap r.tileReads else []
    build := fun v own =>
      let (ws, sats) := r.elementWrites mode v own b n
      if last then
        let after := ws.foldl (fun w e => writeCells w e.1 e.2) own
        let wcs := r.tiles.flatMap fun t => r.x.wcTile after r.base t.1 t.2.1 t.2.2
        (ws ++ r.factors mode v own ++ wcs ++ r.x.padWrites r.base, sats)
      else (ws, sats) }

/-- An import under way, from its command: the descriptor is the one read at issue. -/
def Dev.importRun (d : Dev) (k : Cmd) : Option (ImportRun × Option Nat × Nat) :=
  match importArgs k.args with
  | none => none
  | some (h, src, tc) =>
    match d.shard? h, descriptorOf (k.fetched.flatMap (·.2)) with
    | some x, some g =>
      let base := if k.step.isSome then x.stageBase else x.liveBase
      let x := { x with colvCleared := if k.step.isSome then x.colvCleared else x.outColv }
      some (⟨x, g, base, intersect g.shape.ranges x.ranges, localOf src + 128⟩, d.remoteOf src, tc)
    | _, _ => none

/-- R222: the coverage record after an import: the shard becomes STAGED in a step, SEEDED outside, when the boxes cover
its ranges and no import of it runs. -/
def Dev.coverage (d : Dev) (h : Nat) (inStep : Bool) : Dev :=
  match d.shard? h with
  | none => d
  | some x =>
    if (x.coverBoxes inStep).foldl (fun t b => t + boxSize b) 0 < x.size || d.importing h then d
    else d.modShard h fun x =>
      if inStep then { x with state := .staged, byImport := true }
      else { x with state := .seeded, committed := true, outBoxes := [], outColv := false }

/-- A box leaves the coverage record when its import outside a step is to be issued again (R173). -/
def Dev.uncover (d : Dev) (h : Nat) (box : List (Nat × Nat)) : Dev :=
  d.modShard h fun x => { x with outBoxes := x.outBoxes.filter (· != box) }

end Sys2Proof.Machine
end

