-- ==== Sys2Proof/Machine/Pieces.lean ====
section
/-! DEFINITION. The other culvert commands: SIPHON_SAVE and SIPHON_LOAD (R351 to R354), STAGE_SEND (R344, R345), and the
completion of every kind of piece. -/

namespace Sys2Proof.Machine

open Sys2Proof

/-! ### The siphon (R351 to R354) -/

/-- Bytes of a source element of a SAVE, which is an element of a COPY record. -/
def SiphonArgs.srcSize (x : SiphonArgs) : Nat := if x.srcBf16 then 2 else 4

/-- The block format of a saved record, if it has one. -/
def SiphonArgs.blockFmt (x : SiphonArgs) : Option Fmt := if x.mode = 1 then some .bs8 else if x.mode = 2 then some .bs4 else none

/-- Bytes of the uncompressed source of a SAVE. -/
def SiphonArgs.srcBytes (x : SiphonArgs) : Nat := x.rows * x.l * x.srcSize

/-- Bytes of a saved record after its header (R352). -/
def SiphonArgs.recordBytes (x : SiphonArgs) : Nat :=
  match x.blockFmt with
  | some f => tensorBytes f (x.rows * x.l) 32
  | none => if x.mode = 0 then x.srcBytes else ceilDiv (x.rows * x.l) 8

/-- Bytes of what a LOAD writes: OUT_FMT 2 is row-blocked BS8 (R354). -/
def SiphonArgs.outBytes (x : SiphonArgs) : Nat :=
  if x.out = 2 then tensorBytes .bs8 (x.rows * x.l) 32 else x.rows * x.l * (if x.out = 1 then 2 else 4)

/-- Byte ranges of row `m` of the element and exponent planes of a record at `base`. -/
def SiphonArgs.recordRow (x : SiphonArgs) (base m : Nat) : List (Nat × Nat) :=
  let at_ := m * x.l
  match x.blockFmt with
  | some f => [(base + elemPlane f at_, elemPlane f x.l), (base + expOffset f (x.rows * x.l) + at_ / 32, x.l / 32)]
  | none => if x.mode = 0 then [(base + at_ * x.srcSize, x.l * x.srcSize)] else [(base + at_ / 8, x.l / 8)]

/-- Eight bits as a byte, the first lowest. -/
def byteOfBits (bs : List Bool) : Byte := BitVec.ofNat 8 (packFields ((List.range 8).map fun i => (i, bit (bs.getD i false))))

/-- MASK: 1 for a value above +0; a NaN stores 0 (R351), and a subnormal counts as zero (R71). -/
def isPositive (w : W32) : Bool := !isNan w && !bitOf w.toNat 31 && magKey w != 0

/-- The step and attempt that a command's work belongs to (R352): all ones and 0 outside a step, attempt 0 where it runs
ahead of its step. -/
def Dev.stepOf (d : Dev) (c : Fin 16) (k : Cmd) : W64 × W32 :=
  match k.step with
  | none => (noStep, 0)
  | some n => (n, if n = (d.slc c).step then (d.slc c).attempt else 0)

/-- The 64-byte header of a saved record (R352). -/
def Dev.saveHeader (d : Dev) (c : Fin 16) (k : Cmd) (x : SiphonArgs) : List Byte :=
  let (step, attempt) := d.stepOf c k
  layout 64 [(0, 4, x.tag), (4, 1, fieldAt k.args 24 1), (8, 8, step.toNat), (16, 4, attempt.toNat), (20, 4, x.rows),
    (24, 4, x.l), (28, 2, k.entry.layer), (30, 1, k.entry.micro), (32, 8, x.recordBytes)]

/-- Row `m` of a SAVE. The header is written with the last row to complete. -/
def Dev.savePiece (d : Dev) (c : Fin 16) (k : Cmd) (x : SiphonArgs) (m : Nat) : Piece :=
  let src := localOf x.src
  let dst := localOf x.dst
  let runs := x.recordRow (dst + 64) m
  let at_ := (runs.getD 0 (0, 0)).1
  let expAt := (runs.getD 1 (0, 0)).1
  let z := x.srcSize
  let pad := match x.blockFmt with
    | some f =>
      let n := x.rows * x.l / 32
      if m + 1 = x.rows then
        [(dst + 64 + expOffset f (x.rows * x.l) + n, List.replicate (alignUp n 32 - n) 0)] else []
    | none => []
  let header := if k.did.length + 1 = x.rows then [(dst, d.saveHeader c k x)] else []
  { src := none, dst := none, tc := 0, reads := [(src + m * x.l * z, x.l * z)], own := []
    build := fun v _ =>
      let words := decodeRun v (if x.srcBf16 then .bf16 else .fp32) (src + m * x.l * z) x.l
      let body := match x.blockFmt with
        | some f =>
          let bs := (List.range (x.l / 32)).map fun i => toBlock f ((words.drop (32 * i)).take 32)
          [(at_, bs.flatMap (blockBytes f)), (expAt, bs.map fun b => BitVec.ofNat 8 b.exp)]
        | none =>
          if x.mode = 0 then [(at_, readCells v (src + m * x.l * z) (x.l * z))]
          else [(at_, (List.range (x.l / 8)).map fun i => byteOfBits (((words.drop (8 * i)).take 8).map isPositive))]
      (body ++ pad ++ header, 0) }

/-- R77: a block element in BF16, in FP32 layout. -/
def blockElemBf16 (mode : FpMode) (exp : Nat) (a : Int) : FpR :=
  if exp = 0xFF then ⟨canonNan mode, false⟩
  else if a = 0 then ⟨0, false⟩
  else encodeFp mode 8 (a < 0) a.natAbs ((exp : Int) - 127)

/-- Row `m` of a LOAD (R354). -/
def SiphonArgs.loadPiece (x : SiphonArgs) (mode : FpMode) (m : Nat) : Piece :=
  let src := localOf x.src + 64
  let dst := localOf x.dst
  let runs := x.recordRow src m
  let a := runs.getD 0 (0, 0)
  let e := runs.getD 1 (0, 0)
  let at_ := m * x.l
  let words := fun (rs : List FpR) =>
    let sats := (rs.filter (·.sat)).length
    if x.out = 1 then ([(dst + 2 * at_, halfBytes (rs.map (·.bits)))], sats)
    else ([(dst + 4 * at_, wordBytes (rs.map (·.bits)))], sats)
  { src := none, dst := none, tc := 0, reads := runs, own := []
    build := fun v _ =>
      let bytes := readCells v a.1 a.2
      match x.blockFmt with
      | some f =>
        let es := if f = .bs4 then bs4Elems bytes else bs8Elems bytes
        let exps := readCells v e.1 e.2
        if x.out = 2 then
          let n := x.rows * x.l / 32
          ([(dst + at_, bs8Bytes es), (dst + expOffset .bs8 (x.rows * x.l) + at_ / 32, exps)]
            ++ (if m + 1 = x.rows then
              [(dst + expOffset .bs8 (x.rows * x.l) + n, List.replicate (alignUp n 32 - n) 0)] else []), 0)
        else words ((es.zip (List.range x.l)).map fun p =>
          (if x.out = 1 then blockElemBf16 else blockElem) mode (exps.getD (p.2 / 32) 0).toNat p.1)
      | none =>
        if x.mode = 0 then ([(dst + at_ * x.srcSize, bytes)], 0)
        else words ((List.range x.l).map fun i =>
          ⟨if bitOf (bytes.getD (i / 8) 0).toNat (i % 8) then 0x3F800000 else 0, false⟩) }

/-! ### STAGE_SEND (R344, R345) -/

/-- Piece `i` of a send: 4 KiB in TC3. -/
def Dev.stagePiece (d : Dev) (x : StageArgs) (i : Nat) : Piece where
  src := none
  dst := d.remoteOf x.remote
  tc := 3
  reads := [(localOf x.loc + 4096 * i, min 4096 (x.bytes - 4096 * i))]
  own := []
  channel := some x.channel
  build := fun v _ =>
    let n := min 4096 (x.bytes - 4096 * i)
    ([(localOf x.remote + 4096 * i, readCells v (localOf x.loc + 4096 * i) n)], 0)

/-- The READY message of a send, as its payload slot. -/
def Dev.readyBytes (d : Dev) (c : Fin 16) (k : Cmd) (x : StageArgs) : List Byte :=
  let (step, attempt) := d.stepOf c k
  layout 36 [(0, 4, x.channel), (4, 8, step.toNat), (12, 4, attempt.toNat), (16, 8, x.bytes), (24, 1, k.entry.micro),
    (25, 1, k.entry.phase), (28, 4, packFields [(0, d.fab.id), (20, c.val)])]

/-- Sends READY: TC4, SPEC 0x40, to unit 17 of the receiver (R345; the unit DEDUCED, log 11). -/
def Dev.sendReady (d : Dev) (c : Fin 16) (k : Cmd) (x : StageArgs) : Dev :=
  d.sendMsg 4 17 (fidOf x.remote) x.peerCtx 0x40 (d.readyBytes c k x)

/-! ### Every kind of piece -/

/-- Piece `idx` of a culvert command. -/
def Dev.pieceOf (d : Dev) (c : Fin 16) (k : Cmd) (idx : Nat) : Option Piece :=
  let op := k.entry.opcode
  let mode := (d.ctx c).ovf
  if op = opMove then (moveArgs k.args).map fun x => d.movePiece x idx
  else if op = opExport then
    match exportArgs k.args with
    | some x => (d.shard? x.handle).map fun s => d.exportPiece k x s idx
    | none => none
  else if op = opImport then (d.importRun k).map fun r => r.1.piece mode r.2.1 r.2.2 idx
  else if op = opSave then (siphonArgs false k.args).map fun x => d.savePiece c k x idx
  else if op = opLoad then (siphonArgs true k.args).map fun x => x.loadPiece mode idx
  else if op = opStage then (stageArgs k.args).map fun x => d.stagePiece x idx
  else none

/-- What follows the completion of a unit of a culvert command: READY once every WRITE of a send is answered (R345), and
the coverage record of an import (R221, R222). -/
def Dev.afterPiece (d : Dev) (c : Fin 16) (k : Cmd) (idx : Nat) : Dev :=
  let whole := ((d.ctx c).cmd? k.entry.seq).any fun q => q.allDone && q.failing.isNone
  if k.entry.opcode = opStage then
    match stageArgs k.args with
    | some x => (if whole then d.sendReady c k x else d).settle c k.entry.seq
    | none => d
  else if k.entry.opcode = opImport then
    let h := fieldAt k.args 0 2
    let d := if idx + 1 = k.total then d.modShard h fun x => x.withColv k.step.isSome else d
    let d := d.settle c k.entry.seq
    if whole then (d.coverage h k.step.isSome).noteSlow c else d
  else d.settle c k.entry.seq

/-- Whether a slot that a piece of an import writes is still read by someone (R218). -/
def Dev.pieceHeld (d : Dev) (k : Cmd) : Bool :=
  if k.entry.opcode = opImport then
    let h := fieldAt k.args 0 2
    (d.shard? h).any fun x => d.pinned h (if k.step.isSome then 1 - x.live else x.live)
  else false

/-- Runs a culvert's unit as far as it can: it completes, or waits. -/
def Dev.runPiece (d : Dev) (inst : Nat) (u : UnitRef) : Dev :=
  match (d.ctx u.ctx).cmd? u.seq with
  | none => d
  | some k =>
    if d.pieceHeld k then d else
      match d.pieceOf u.ctx k u.idx with
      | none => d
      | some p => d.tryPiece inst u k p fun d => d.afterPiece u.ctx k u.idx

/-- The unit at the head of a culvert ends: a suppressed one writes nothing (R156). -/
def Dev.culvertEnd (d : Dev) (inst : Nat) : Dev :=
  match (d.engine 4 inst).units with
  | [] => d
  | u :: _ => if u.suppressed then d.popUnit 4 inst u.ctx else d.runPiece inst u

/-- CULVERT_PIECE_COMPLETE (R154 to R156). A piece with a remote side completes once its packets are answered. -/
def execCulvertPieceComplete (e : Fin 16) (s : State) : Host.Outcome State Fault Refusal :=
  done s (s.dev.culvertEnd e.val)

/-- EXPORT_COMPLETE (R218): the unit that writes the descriptor, after every piece of payload, ends. -/
def execExportComplete (c : Fin 16) (seq : W32) (s : State) : Host.Outcome State Fault Refusal :=
  let d := s.dev
  let last := fun (i : Nat) => ((d.engine 4 i).units.head?).any fun u =>
    u.ctx == c && u.seq == seq && !u.suppressed && ((d.ctx c).cmd? seq).any fun k =>
      k.entry.opcode == opExport && u.idx == k.total
  match (List.range 16).find? last with
  | some i => done s (d.culvertEnd i)
  | none => done s d

end Sys2Proof.Machine
end

