-- ==== Sys2Proof/Machine/Reduce.lean ====
section
/-! DEFINITION. Gradient reduction: jobs and their regions (R287 to R290, R299), quantisation and widths (R291 to R293),
weir events and requirements (R294 to R296), accumulate packets (R297, R298), the adders (R300 to R302), and how jobs end
(R303 to R307). -/

namespace Sys2Proof.Machine

open Sys2Proof

/-! ### Answers of a unit (R262, R276) -/

/-- The generation tag of a unit of R263. -/
def Dev.unitGen (d : Dev) (u : Nat) : Nat :=
  if u < 16 then (d.ctl.engines.toList.getD u {}).gen else d.fab.gen.toList.getD (u - 16) 0

/-- R276: UNIT_IN_SERVICE or STALE_GENERATION, or OK. -/
def Dev.unitStatus (d : Dev) (p : Packet) : Nat :=
  if d.unitInService p.unit then stInService
  else if p.genValid && (p.gen != d.unitGen p.unit || p.inc != d.fab.inc.toNat) then stStale
  else stOk

/-- Sends the answer to a request: the unit's GEN and INC in force, the request's TAG and class. -/
def Dev.answer (d : Dev) (p : Packet) (type : PacketType) (status : Nat) (data : List Byte) : Dev :=
  d.routePacket { emptyPacket with
    type := type, tc := p.tc, unit := p.unit, gen := d.unitGen p.unit, dest := p.src, src := d.fab.id, tag := p.tag
    useCount := p.useCount, addr := p.addr, len := ceilDiv data.length 36, status := status, inc := d.fab.inc.toNat
    data := data }

/-- Sends a REPLY. -/
def Dev.reply (d : Dev) (p : Packet) (status : Nat) : Dev := d.answer p .reply status []

/-! ### The shape of a job (R288 to R290) -/

/-- Blocks of the bucket. -/
def Job.blocks (j : Job) : Nat := j.n / 32

/-- First block of chunk `k` of `count` over `b` blocks. -/
def chunkStart (b count k : Nat) : Nat := k * b / count

/-- First block of chunk `k`. -/
def Job.start (j : Job) (k : Nat) : Nat := chunkStart j.blocks j.count k

/-- Blocks of chunk `k`. -/
def Job.chunkLen (j : Job) (k : Nat) : Nat := j.start (k + 1) - j.start k

/-- Pieces of chunk `k`. -/
def Job.piecesIn (j : Job) (k : Nat) : Nat := ceilDiv (j.chunkLen k) 32

/-- Blocks of piece `p` of chunk `k`. -/
def Job.pieceLen (j : Job) (k p : Nat) : Nat := min 32 (j.chunkLen k - 32 * p)

/-- Block slots of the region. -/
def Job.slotsIn (j : Job) : Nat := if j.ring then j.blocks else j.chunkLen j.index

/-- The slot of block `b` of chunk `k`. -/
def Job.slotOf (j : Job) (k b : Nat) : Nat := if j.ring then j.start k + b else b

/-- Pieces of the bucket before chunk `k`. -/
def Job.before (j : Job) (k : Nat) : Nat := (List.range k).foldl (fun t i => t + j.piecesIn i) 0

/-- Bits of the arrival map. -/
def Job.mapBits (j : Job) : Nat := if j.ring then 2 * j.before j.count else j.count * j.piecesIn j.index

/-- Offset of the check plane, and of the arrival map. -/
def Job.checkOff (j : Job) : Nat := 128 * j.slotsIn
/-- Offset of the arrival map. -/
def Job.mapOff (j : Job) : Nat := j.checkOff + alignUp (2 * j.slotsIn) 32

/-- The region size (R290). -/
def Job.regionBytes (j : Job) : Nat := j.mapOff + alignUp (ceilDiv j.mapBits 8) 32

/-- The arrival bit of a piece: by source in DIRECT, by chunk in RING. -/
def Job.arrivalBit (j : Job) (source chunk piece : Nat) : Nat :=
  if j.ring then 2 * (j.before chunk + piece) else j.count * piece + source

/-- Whether a slot of a piece holds anything yet. -/
def Job.slotUsed (j : Job) (chunk piece : Nat) : Bool :=
  if j.ring then j.arrived.contains (j.arrivalBit 0 chunk piece)
  else j.arrived.any fun b => b / j.count == piece

/-- Whether a piece of the owned chunk is complete: every source has arrived, or the partial and the own blocks. -/
def Job.pieceDone (j : Job) (p : Nat) : Bool :=
  if j.ring then
    let b := j.arrivalBit 0 j.index p
    j.arrived.contains b && j.arrived.contains (b + 1)
  else (List.range j.count).all fun m => j.arrived.contains (j.count * p + m)

/-- R304: the job is complete on this device. -/
def Job.complete (j : Job) : Bool := (List.range (j.piecesIn j.index)).all j.pieceDone

/-- Every piece this device sends has been answered OK or DUPLICATE. -/
def Job.delivered (j : Job) : Bool := j.pieces.all (·.delivered)

/-- The member that starts chunk `k` in RING. -/
def Job.starter (j : Job) (k : Nat) : Nat := (k + 1) % j.count

/-- Fabric ID and context of a member. -/
def memberFid (e : Nat) : Nat := e % 2 ^ 20
/-- Context of a member. -/
def memberCtx (e : Nat) : Nat := e / 2 ^ 20 % 16

/-- The job check (R287). -/
def jobCheck (n count : Nat) (ring : Bool) (probeExp region : Nat) (members : List Nat) : W64 :=
  shaCheck (toLe 8 n ++ toLe 4 count ++ toLe 1 (bit ring) ++ toLe 1 probeExp ++ toLe 8 region ++ members.flatMap (toLe 4))

/-- The pieces this device sends, in chunk and then piece order (R306); in DIRECT its own blocks come to its adders too
(R275). -/
def Job.sends (j : Job) : List SendPiece :=
  (List.range j.count).flatMap fun k =>
    if k = j.index then [] else (List.range (j.piecesIn k)).map fun p =>
      { toMember := if j.ring then (j.index + 1) % j.count else k, chunk := k, piece := p }

/-- The units of a REDUCE: pieces of the owned chunk, then pieces it sends (R306). -/
def Job.units (j : Job) : Nat := j.piecesIn j.index + j.sends.length

/-! ### Records -/

/-- The record of a job of a context. -/
def Dev.job? (d : Dev) (c : Fin 16) (n : Nat) : Option Job := d.red.jobs.find? fun j => j.ctx == c && j.job == n && !j.lost

/-- Changes the record of a job. -/
def Dev.modJob (d : Dev) (c : Fin 16) (n : Nat) (f : Job → Job) : Dev :=
  { d with red := { d.red with jobs := mapWhere (fun j => j.ctx == c && j.job == n) f d.red.jobs } }

/-- Writes RED_LAST_FAIL. -/
def Dev.redFail (d : Dev) (c : Fin 16) (job peer piece kind : Nat) : Dev :=
  { d with red := { d.red with
    failJob := job, failCtx := c.val, failPeer := peer, failPiece := piece, failKind := kind, failNew := true } }

/-- Frees the slot of a job. -/
def Dev.freeJobSlot (d : Dev) (c : Fin 16) (n : Nat) : Dev :=
  let d := d.modJob c n fun j => { j with slot := none }
  { d with red := { d.red with slots := d.red.slots.map fun o => if o == some (c, n) then none else o } }

/-! ### Quantisation, widths, weir events (R291 to R296) -/

/-- R291: one source element at exponent `e`, and whether it saturated. -/
def quantiseSource (e : Nat) (x : W32) : Int × Bool :=
  match decodeFp .infinity x with
  | .fin s m ex =>
    let q := roundNe m (ex + 127 - e)
    let lim := 2 ^ 31 - 1
    let v : Int := (min q lim : Nat)
    (if s then -v else v, decide (lim < q))
  | _ => (0, false)

/-- A block on its way: elements, SPILL as it came, SRC_SAT. -/
structure RedBlock where
  elems : List Int
  spill : Bool
  sat : Bool
  deriving DecidableEq, Repr

/-- A source block of 32 elements. -/
def sourceBlock (e : Nat) (xs : List W32) : RedBlock :=
  let qs := xs.map (quantiseSource e)
  ⟨qs.map (·.1), false, qs.any (·.2)⟩

/-- Source blocks `b` to `b + n - 1` of the bucket from the bytes of SRC that hold them. -/
def sourceBlocks (e n : Nat) (bs : List Byte) : List RedBlock :=
  (List.range n).map fun i =>
    sourceBlock e ((List.range 32).map fun k => BitVec.ofNat 32 (fieldAt bs (128 * i + 4 * k) 4))

/-- Largest magnitude of a block. -/
def RedBlock.mag (b : RedBlock) : Nat := b.elems.foldl (fun m a => max m a.natAbs) 0

/-- R294: weir events among blocks formed here are counted, and the first of a job and attempt places an event. -/
def Dev.weir (d : Dev) (c : Fin 16) (n : Nat) (bs : List RedBlock) : Dev :=
  match d.job? c n with
  | none => d
  | some j =>
    let tooMuch := bs.filter fun b => outside16 b.elems
    if j.probe || tooMuch.isEmpty then d else
      let j2 := { j with
        weirBlocks := j.weirBlocks + tooMuch.length, weirEvent := true
        weirMax := tooMuch.foldl (fun m b => max m b.mag) j.weirMax }
      let d := d.modJob c n fun _ => j2
      let d := { d with red := { d.red with
        weir := d.red.weir.set c (satTo 0xFFFFFFFF (d.red.weir[c] + tooMuch.length))
        weirJob := d.red.weirJob.set c n } }
      if j.weirEvent then d else
        d.eventAt c 0 0x0020 0 j.step (packFields [(0, n), (16, satTo 0xFFFF j2.weirBlocks), (32, j.attempt.toNat)])

/-- R296: the requirement of a probe from the source's values. -/
def probeRequirement (count : Nat) (xs : List W32) : Nat :=
  let t := min 127 (32767 / count)
  let key := xs.foldl (fun m x => max m (magKey x)) 0
  if key = 0 then 0xFF
  else
    let (m, ex) := keyParts key
    ((List.range 255).find? fun (e : Nat) => decide (roundNe m (ex + 127 - (e : Int)) ≤ t)).getD 254

/-- R295, R296: the requirement that a job brings to the ready vote. -/
def Job.requirement (j : Job) : Nat :=
  if j.probe then j.require
  else if j.weirBlocks = 0 then 0xFF
  else
    let x := ((List.range 17).find? fun x => decide (1 ≤ x) && decide (j.weirMax ≤ 32767 * 2 ^ x)).getD 17
    min (j.exp + x) 254

/-! ### Pieces on the wire (R293, R297, R298) -/

/-- A wire block with its width code. -/
def RedBlock.wire (probe : Bool) (b : RedBlock) : Nat × List Byte :=
  let w := widthOf b.elems b.spill probe
  (w, wireBlock w b.elems (checkWord b.elems (!probe && w == 3) b.sat))

/-- The payload of a piece: header slot and packed blocks. -/
def Job.payload (j : Job) (bs : List RedBlock) : List Byte :=
  let ws := bs.map (RedBlock.wire j.probe)
  let widths := packFields ((List.range ws.length).map fun i => (2 * i, (ws.getD i (0, [])).1))
  let head := layout 36 [(0, 8, j.step.toNat), (8, 4, j.attempt.toNat), (12, 8, j.check.toNat), (20, 8, widths),
    (28, 1, bs.length), (29, 1, bit j.probe)]
  let body := ws.flatMap (·.2)
  head ++ padTo (36 * ceilDiv body.length 36) body

/-- The ACCUM packet of a piece. -/
def Job.packet (j : Job) (s : SendPiece) (bs : List RedBlock) : Packet :=
  let e := j.members.getD s.toMember 0
  let data := j.payload bs
  { emptyPacket with
    type := .accum, tc := 1, unit := unitOf j.region, dest := memberFid e, destCtx := memberCtx e, addr := j.region
    len := data.length / 36
    spec := packFields [(0, j.job), (12, memberCtx e), (16, j.index), (28, s.chunk), (40, s.piece)], data := data }

/-- Bytes of a wire block of a width code. -/
def wireBytes (w : Nat) : Nat := 32 * widthBytes w + 2

/-- The blocks of a payload by their width codes: elements, residue, SPILL and SRC_SAT. -/
def wireBlocks : List Nat → List Byte → List (RedBlock × Nat)
  | [], _ => []
  | w :: r, bs =>
    let es := intElems (widthBytes w) (bs.take (32 * widthBytes w))
    let chk := fieldAt bs (32 * widthBytes w) 2
    (⟨es, bitOf chk 13, bitOf chk 14⟩, bitsOf chk 0 13) :: wireBlocks r (bs.drop (wireBytes w))

/-! ### The region -/

/-- Reads a block slot: its block and residue; zero where nothing has arrived (R290). -/
def Dev.readSlot (d : Dev) (j : Job) (chunk piece b : Nat) : Dev × Option (RedBlock × Nat) :=
  if !j.slotUsed chunk piece then (d, some (⟨List.replicate 32 0, false, false⟩, 0))
  else
    let s := j.slotOf chunk (32 * piece + b)
    match d.readBytes srcWork (j.region + 128 * s) 128 with
    | (d, none) => (d, none)
    | (d, some bs) =>
      match d.readBytes srcWork (j.region + j.checkOff + 2 * s) 2 with
      | (d, none) => (d, none)
      | (d, some cs) =>
        let chk := leNat cs
        (d, some (⟨intElems 4 bs, bitOf chk 13, bitOf chk 14⟩, bitsOf chk 0 13))

/-- Reads the slots of a piece. -/
def Dev.readSlots (j : Job) (chunk piece : Nat) : List Nat → Dev → Dev × Option (List (RedBlock × Nat))
  | [], d => (d, some [])
  | b :: r, d =>
    match d.readSlot j chunk piece b with
    | (d, none) => (d, none)
    | (d, some q) =>
      match Dev.readSlots j chunk piece r d with
      | (d, none) => (d, none)
      | (d, some qs) => (d, some (q :: qs))

/-- The bytes of the arrival map with a set of bits. -/
def mapBytesOf (bits : List Nat) (n : Nat) : List Byte :=
  (List.range n).map fun i => BitVec.ofNat 8 ((List.range 8).foldl (fun t k =>
    if bits.contains (8 * i + k) then t + 2 ^ k else t) 0)

/-- The writes that put blocks into the slots of a piece and set arrival bits in the map. -/
def Job.slotWrites (j : Job) (chunk piece : Nat) (bits : List Nat) (bs : List RedBlock) : List (Nat × List Byte) :=
  let s := j.slotOf chunk (32 * piece)
  let chk := bs.flatMap fun b => toLe 2 (checkWord b.elems b.spill b.sat)
  let now := bits ++ j.arrived
  [(j.region + 128 * s, bs.flatMap fun b => b.elems.flatMap fun a => toLe 4 (unsigned 32 a)),
    (j.region + j.checkOff + 2 * s, chk)]
    ++ bits.map fun b => (j.region + j.mapOff + b / 8, (mapBytesOf now (b / 8 + 1)).drop (b / 8))

/-- Granules that writes cover only in part. -/
def partGranules (ws : List (Nat × List Byte)) : List Nat :=
  ws.flatMap fun w => (granulesOf w.1 w.2.length).filter fun g =>
    !(decide (w.1 ≤ 32 * g) && decide (32 * g + 32 ≤ w.1 + w.2.length))

/-- Writes blocks into the slots of a piece, and sets its arrival bits in the record and the map. Every granule of the region
that a write covers in part is read first: where one can not be, nothing is written or noted, and the answer is false (R300). -/
def Dev.writeSlots (d : Dev) (j : Job) (chunk piece : Nat) (bits : List Nat) (bs : List RedBlock) : Dev × Bool :=
  let ws := j.slotWrites chunk piece bits bs
  let d := (Dev.readGranules srcWork (partGranules ws) d).1
  if (partGranules ws).any d.mem.poisoned then (d, false) else
    ((d.writeAll ws).1.modJob j.ctx j.job fun j => { j with arrived := bits ++ j.arrived }, true)

/-- R301: the sum of two blocks, or none on a residue failure, a residue of 8,191 among them, which is never valid (R73); and
the saturations the add made. -/
def addBlocks (p q : RedBlock × Nat) : Option (RedBlock × Nat) :=
  let cs := List.zipWith (· + ·) p.1.elems q.1.elems
  if p.2 = 8191 || q.2 = 8191 || residue cs ≠ (p.2 + q.2) % 8191 then none
  else
    let lim : Int := 2 ^ 31 - 1
    let tooMuch := (cs.filter fun a => a > lim || a < -lim).length
    let es := cs.map fun a => if a > lim then lim else if a < -lim then -lim else a
    some (⟨es, p.1.spill || q.1.spill, p.1.sat || q.1.sat || tooMuch != 0⟩, tooMuch)

/-- Adds lists of blocks; none if any fails its check. -/
def addAll (ps qs : List (RedBlock × Nat)) : Option (List (RedBlock × Nat)) :=
  allSome (List.zipWith addBlocks ps qs)

/-- SPILL of a block as it stands or leaves (R293). -/
def RedBlock.settleSpill (probe : Bool) (b : RedBlock) : RedBlock :=
  { b with spill := !probe && (b.spill || outside16 b.elems) }

/-! ### Ends -/

/-- The REDUCE of a job ends with a failure (R306): the device votes abort. -/
def Dev.failReduce (d : Dev) (c : Fin 16) (seq : W32) (status addr : Nat) : Dev :=
  (d.modCmd c seq fun k => { k with ueAddr := addr }).failCmd c seq status

/-- Shows a piece complete or delivered in the progress of its REDUCE. -/
def Dev.reduceUnit (d : Dev) (j : Job) (i : Nat) : Dev := d.modCmd j.ctx j.seq fun k => k.unitDone i

/-- After the owned chunk's piece has taken a block set: progress and, in DIRECT once every source has arrived, the weir
judgement of the owner's result (R294, R308). -/
def Dev.ownerPiece (d : Dev) (c : Fin 16) (n piece : Nat) (bs : List RedBlock) : Dev :=
  match d.job? c n with
  | none => d
  | some j =>
    if !j.pieceDone piece then d
    else (d.reduceUnit j piece).weir c n bs

/-! ### Own blocks and sending (R275, R289, R302) -/

/-- Bytes of SRC that hold a piece. -/
def Job.srcRange (j : Job) (chunk piece : Nat) : Nat × Nat :=
  (j.src + 128 * (j.start chunk + 32 * piece), 128 * j.pieceLen chunk piece)

/-- The own blocks of a piece; none with the granule at an uncorrectable read. -/
def Dev.ownBlocks (d : Dev) (j : Job) (chunk piece : Nat) : Dev × Except Nat (List RedBlock) :=
  let (a, n) := j.srcRange chunk piece
  match d.readBytes srcWork a n with
  | (d, some bs) => (d, .ok (sourceBlocks j.exp (j.pieceLen chunk piece) bs))
  | (d, none) => (d, .error (32 * ((granulesOf a n).find? d.mem.poisoned).getD 0))

/-- Blocks with their residues. -/
def withResidue (bs : List RedBlock) : List (RedBlock × Nat) := bs.map fun b => (b, residue b.elems)

/-- Adds blocks of a source to the slots of a piece (R300 last rows, R301): OK, UNCORRECTABLE, RESIDUE_FAIL; with the blocks
as they now stand. -/
def Dev.addPiece (d : Dev) (j : Job) (chunk piece : Nat) (bits : List Nat) (ps : List (RedBlock × Nat)) :
    Dev × Except Nat (List RedBlock × Nat) :=
  match Dev.readSlots j chunk piece (List.range ps.length) d with
  | (d, none) => (d, .error stUncorrectable)
  | (d, some qs) =>
    match addAll ps qs with
    | none => (d, .error stResidue)
    | some rs =>
      let bs := rs.map fun r => RedBlock.settleSpill j.probe r.1
      let sats := rs.foldl (fun t r => t + r.2) 0
      match d.writeSlots j chunk piece bits bs with
      | (d, true) => (d, .ok (bs, sats))
      | (d, false) => (d, .error stUncorrectable)

/-- The first poisoned granule of a region, for R140. -/
def Dev.badIn (d : Dev) (j : Job) : Nat :=
  32 * (((granulesOf j.region j.regionBytes).find? d.mem.poisoned).getD (j.region / 32))

/-- Notes saturations of a reduction's blocks: an overflow of the attempt (R292, R301). -/
def Dev.jobSats (d : Dev) (j : Job) (n : Nat) : Dev :=
  if n = 0 then d else
    match (d.ctx j.ctx).cmd? j.seq with
    | some k => d.noteReduceSat j.ctx k n
    | none => (d.markSat j.ctx satReduce).overflowFound j.ctx

/-- A residue failure or a refused piece is written to RED_LAST_FAIL and placed as an event (R309). -/
def Dev.pieceFail (d : Dev) (j : Job) (peer type kind piece chunk : Nat) : Dev :=
  let detail := packFields ([(0, j.job), (12, peer)] ++ if kind = 1 then [(32, piece % 65536), (48, chunk)] else [])
  (d.redFail j.ctx j.job peer piece kind).eventAt j.ctx 0 type 0 j.step detail

/-- The own blocks of a piece of the owned chunk come to the adders locally in DIRECT (R275), unless they have. The one member
of a RING starts its chunk and owns it: its blocks go to their slots with no add, and both bits are set (R290, R302). -/
def Dev.addOwn (d : Dev) (c : Fin 16) (n piece : Nat) : Dev :=
  match d.job? c n with
  | none => d
  | some j =>
    let b := j.arrivalBit j.index j.index piece
    if j.closed || j.arrived.contains b || d.unitInService (unitOf j.region) then d else
      match d.ownBlocks j j.index piece with
      | (d, .error a) => d.failReduce c j.seq stUncorrectable a
      | (d, .ok bs) =>
        match d.addPiece j j.index piece (if j.ring then [b, b + 1] else [b]) (withResidue bs) with
        | (d, .error st) =>
          let d := if st = stResidue then d.pieceFail j d.fab.id 0x0021 1 piece j.index else d
          d.failReduce c j.seq st (d.badIn j)
        | (d, .ok (rs, sats)) => (d.ownerPiece c n piece rs).jobSats j sats

/-- The blocks of a piece that this device sends: its own at the start of a chunk, the slots' after its add. -/
def Dev.sendBlocks (d : Dev) (j : Job) (s : SendPiece) : Dev × Except Nat (List RedBlock) :=
  if j.ring && j.starter s.chunk != j.index then
    match Dev.readSlots j s.chunk s.piece (List.range (j.pieceLen s.chunk s.piece)) d with
    | (d, some qs) => (d, .ok (qs.map (·.1)))
    | (d, none) => (d, .error (d.badIn j))
  else d.ownBlocks j s.chunk s.piece

/-- Whether a piece can be sent: its chunk starts here, or the own blocks have been added to it (R302). -/
def Job.sendReady (j : Job) (s : SendPiece) : Bool :=
  !j.ring || j.starter s.chunk == j.index || j.arrived.contains (j.arrivalBit 0 s.chunk s.piece + 1)

/-- Sends one piece, judged as it enters the fabric (R25, R303), if an outstanding entry is free (R273). -/
def Dev.sendPiece (d : Dev) (c : Fin 16) (n : Nat) (s : SendPiece) : Dev :=
  match d.job? c n with
  | none => d
  | some j =>
    if j.closed || s.started || !j.sendReady s then d else
      match d.sendBlocks j s with
      | (d, .error a) => d.failReduce c j.seq stUncorrectable a
      | (d, .ok bs) =>
        let p := j.packet s bs
        let st := d.judgeRemote p.dest
        if st ≠ stOk then d.failReduce c j.seq st 0 else
        match d.request (.piece c n s.chunk s.piece) p with
        | none => d
        | some d => d.modJob c n fun j => { j with pieces := mapWhere (· == s) (fun s => { s with started := true }) j.pieces }

/-- Reads and quantises SRC: a NaN or an infinity is an overflow and nothing is sent (R292); a probe derives its
requirement (R296); source blocks outside 16 bits that this member sends are weir events (R294). Its own blocks of a chunk that
it adds to are judged in the result (R289; DEDUCED, log 15). -/
def Dev.scanJob (d : Dev) (c : Fin 16) (n : Nat) : Dev × Nat :=
  match d.job? c n with
  | none => (d, 0)
  | some j =>
    match d.readBytes srcWork j.src (4 * j.n) with
    | (d, none) =>
      (d.failReduce c j.seq stUncorrectable (32 * ((granulesOf j.src (4 * j.n)).find? d.mem.poisoned).getD 0), 0)
    | (d, some bs) =>
      let xs := (List.range j.n).map fun i => BitVec.ofNat 32 (fieldAt bs (4 * i) 4)
      if xs.any isNonFinite then (d.overflowFound c, 0)
      else
        let blocks := sourceBlocks j.exp j.blocks bs
        let mine := if j.ring && j.count = 1 then []
          else if j.ring then ((blocks.drop (j.start ((j.index + j.count - 1) % j.count))).take
          (j.chunkLen ((j.index + j.count - 1) % j.count)))
          else blocks.take (j.start j.index) ++ blocks.drop (j.start (j.index + 1))
        let d := d.modJob c n fun j => { j with
          scanned := true, require := if j.probe then probeRequirement j.count xs else 0xFF }
        (d.weir c n mine, (xs.filter fun x => (quantiseSource j.exp x).2).length)

/-- Does what an open job can do: reads SRC, gives the own blocks to the adders, sends the pieces that can go. -/
def Dev.pushJob (d : Dev) (c : Fin 16) (n : Nat) : Dev :=
  match d.job? c n with
  | none => d
  | some j =>
    if j.closed || j.finished then d
    else if d.removedIn [(j.src, 4 * j.n), (j.region, j.regionBytes)] then d.failReduce c j.seq stNoResource 0
    else match d.access [(j.src, 4 * j.n), (j.region, j.regionBytes)] with
      | (d, false) => d
      | (d, true) =>
        let (d, sats) := if j.scanned then (d, 0) else d.scanJob c n
        let ready := (d.job? c n).any (·.scanned)
        if !ready then d else
          let own := List.range (j.piecesIn j.index)
          let d := if j.ring && j.count != 1 then d else own.foldl (fun d p => d.addOwn c n p) d
          let d := j.pieces.foldl (fun d s => d.sendPiece c n s) d
          d.jobSats j sats

/-! ### Issue and opening (R285, R286, R299) -/

/-- The job that a REDUCE would open. -/
def Dev.jobOf (d : Dev) (c : Fin 16) (k : Cmd) (x : ReduceArgs) : Job :=
  let s := d.slc c
  let scale := lookupD x.job 0xFF s.scale
  let j : Job :=
    { ctx := c, job := x.job, seq := k.entry.seq, step := s.step, attempt := s.attempt, ring := x.ring
      probe := scale == 0xFF, exp := if scale = 0xFF then x.probeExp else scale, count := x.count, index := x.index
      n := x.n, src := localOf x.src, region := localOf x.region, members := k.lists
      check := jobCheck x.n x.count x.ring x.probeExp x.region k.lists
      deadlineAt := k.issuedAt + usNs (if x.deadlineUs = 0 then d.red.defaultUs else x.deadlineUs) }
  { j with pieces := j.sends }

/-- The status of a REDUCE at issue, its member list being read (R285, R286, R24). -/
def Dev.checkReduce (d : Dev) (c : Fin 16) (k : Cmd) (x : ReduceArgs) : Nat :=
  let j := d.jobOf c k x
  let own := d.fab.id + c.val * 2 ^ 20
  let fids := j.members.map memberFid
  let src := d.rangeStatus (localOf x.src) (4 * x.n)
  let size := max 1 j.regionBytes
  let reg := d.rangeStatus (localOf x.region) size
  let listOk := j.members.all fun e => decide (e < 2 ^ 24)
  let inHbm := regionOfRange (localOf x.region) size == .hbm
    && stackOf (localOf x.region) == stackOf (localOf x.region + size - 1)
  let clash := d.red.jobs.any fun q => q.slot.isSome && overlaps q.region q.regionBytes j.region j.regionBytes
  let twice := d.red.jobs.any (fun q => q.ctx == c && q.job == x.job && q.step == j.step && q.attempt == j.attempt)
    || (d.ctx c).cmds.any fun q => q.entry.seq != k.entry.seq && q.issued && q.entry.opcode == opReduce && q.step.isSome
      && fieldAt q.args 0 2 == x.job
  if k.step.isNone || !listOk || j.members.getD x.index 0 ≠ own || fids.eraseDups.length ≠ fids.length
      || (List.range x.count).any (fun i => decide (2097152 < j.chunkLen i)) || fidOf x.src ≠ 0 || fidOf x.region ≠ 0
      || src = stBadArg || !inHbm || reg = stBadArg || clash || x.regionBytes < j.regionBytes || twice then stBadArg
  else if src ≠ stOk || reg ≠ stOk then stNoResource
  else ((fids.map d.judgeRemote).find? (· != stOk)).getD stOk

/-- R299: opens the job of an issued REDUCE when a slot is free and its region can be used; the arrival map is cleared. -/
def Dev.openJob (d : Dev) (c : Fin 16) (seq : W32) : Dev :=
  match (d.ctx c).cmd? seq with
  | none => d
  | some k =>
    match reduceArgs k.args, (List.range 64).find? fun i => (d.red.slots.toList.getD i none).isNone with
    | some x, some i =>
      let mine := (d.job? c x.job).any fun j => j.seq == seq && !j.closed
      if !k.issued || k.ended.isSome || k.failing.isSome || k.entry.opcode ≠ opReduce || mine then d else
        let j := { d.jobOf c k x with slot := some i }
        match d.access [(j.region + j.mapOff, alignUp (ceilDiv j.mapBits 8) 32)] with
        | (d, false) => d
        | (d, true) =>
          let clear : List Byte := List.replicate (alignUp (ceilDiv j.mapBits 8) 32) 0
          let d := if d.removedIn [(j.region, j.regionBytes)] then d else { d with mem := d.mem.store (j.region + j.mapOff) clear }
          let jobs := j :: d.red.jobs.filter fun q => q.ctx != c || q.job != x.job
          let d := { d with red := { d.red with jobs := jobs, slots := modVec d.red.slots i fun _ => some (c, x.job) } }
          let d := if j.probe then d.modMeters c fun m => { m with probeJobs := m.probeJobs + 1 } else d
          d.pushJob c x.job
    | _, _ => d

/-- JOB_OPEN (R299). -/
def execJobOpen (c : Fin 16) (seq : W32) (s : State) : Host.Outcome State Fault Refusal :=
  done s (s.dev.openJob c seq)

/-! ### ACCUM at the target (R300, R301) -/

/-- The form of a piece that R300 answers with BAD_ARG. -/
def Job.pieceBad (j : Job) (p : Packet) (source chunk piece : Nat) : Bool :=
  let head := p.data.take 36
  let nblk := fieldAt head 28 1
  let widths := (List.range 32).map fun i => bitsOf (fieldAt head 20 8) (2 * i) 2
  let bytes := (widths.take nblk).foldl (fun t w => t + wireBytes w) 0
  p.addr != j.region || fieldAt head 12 8 != j.check.toNat
    || memberFid (j.members.getD source (2 ^ 20 - 1)) != p.src || decide (j.count ≤ source)
    || decide (j.count ≤ chunk) || decide (j.piecesIn chunk ≤ piece) || nblk != j.pieceLen chunk piece
    || (widths.take nblk).contains 0 || (widths.drop nblk).any (· != 0)
    || p.data.length != 36 * (1 + ceilDiv bytes 36)

/-- A piece sent to the wrong member. -/
def Job.pieceAstray (j : Job) (source chunk : Nat) : Bool :=
  if j.ring then j.starter chunk == j.index || (source + 1) % j.count != j.index else chunk != j.index

/-- The target votes abort for a refused or failed piece. -/
def Dev.pieceVote (d : Dev) (j : Job) (p : Packet) (type kind status piece chunk : Nat) : Dev :=
  (d.pieceFail j p.src type kind piece chunk).voteAbort j.ctx 2 status false

/-- R300: the answer to an ACCUM packet whose unit accepts it, and its effect. -/
def Dev.judgeAccum (d : Dev) (p : Packet) : Dev × Nat :=
  let n := bitsOf p.spec 0 12
  let c : Fin 16 := Fin.ofNat 16 (bitsOf p.spec 12 4)
  let source := bitsOf p.spec 16 12
  let chunk := bitsOf p.spec 28 12
  let piece := bitsOf p.spec 40 16
  let step : W64 := BitVec.ofNat 64 (fieldAt p.data 0 8)
  let attempt : W32 := BitVec.ofNat 32 (fieldAt p.data 8 4)
  match d.job? c n with
  | none => (d, stBusy)
  | some j =>
    if attemptLater step attempt j.step j.attempt then (d, stBusy)
    else if attemptLater j.step j.attempt step attempt then (d, stAborted)
    else if j.closed then (d, stAborted)
    else if j.pieceBad p source chunk piece || j.pieceAstray source chunk then
      (d.pieceVote j p 0x0024 3 stBadArg piece chunk, stBadArg)
    else
      let b := j.arrivalBit source chunk piece
      let widths := (List.range (fieldAt p.data 28 1)).map fun i => bitsOf (fieldAt p.data 20 8) (2 * i) 2
      if j.arrived.contains b then (d, stDuplicate)
      else
        match d.addPiece j chunk piece [b] (wireBlocks widths (p.data.drop 36)) with
        | (d, .error st) =>
          if st = stResidue then (d.pieceVote j p 0x0021 1 stResidue piece chunk, stResidue)
          else ((d.failReduce c j.seq stUncorrectable (d.badIn j)).modJob c n (fun j => { j with closed := true }), stAborted)
        | (d, .ok (bs, sats)) =>
          let d := if !j.ring then d.ownerPiece c n piece bs else d
          (d.jobSats j sats, stOk)

/-- An accepted ACCUM packet waits where the region can not be used now, otherwise it is judged and answered. -/
def Dev.serveAccum (d : Dev) (p : Packet) : Dev :=
  let ranges := match d.job? (Fin.ofNat 16 (bitsOf p.spec 12 4)) (bitsOf p.spec 0 12) with
    | some j => if j.closed then [] else [(j.region, j.regionBytes)]
    | none => []
  if d.removedIn ranges then d.reply p stNoResource else
  match if d.stalled ranges then (d, true) else d.snoopAll ranges with
  | (d, true) => { d with fab := { d.fab with stalled := d.fab.stalled ++ [p] } }
  | (d, false) =>
    let (d, st) := d.judgeAccum p
    d.reply p st

/-- An ACCUM packet arrives: the first row of R300, the unit's, is judged at its acceptance. -/
def Dev.takeAccum (d : Dev) (p : Packet) : Dev :=
  let st := d.unitStatus p
  if st ≠ stOk then d.reply p st else d.serveAccum p

/-! ### RING (R302) -/

/-- Adds the own blocks to a piece that has arrived; the owner keeps the result, every other member sends it on. -/
def Dev.forwardPiece (d : Dev) (c : Fin 16) (n chunk piece : Nat) : Dev :=
  match d.job? c n with
  | none => d
  | some j =>
    let b := j.arrivalBit 0 chunk piece
    if j.closed || !j.ring || !j.scanned || j.count ≤ chunk || j.piecesIn chunk ≤ piece || j.starter chunk = j.index
        || !j.arrived.contains b || j.arrived.contains (b + 1) then d
    else if d.removedIn [(j.src, 4 * j.n), (j.region, j.regionBytes)] then d.failReduce c j.seq stNoResource 0
    else match d.access [(j.src, 4 * j.n), (j.region, j.regionBytes)] with
      | (d, false) => d
      | (d, true) =>
        match d.ownBlocks j chunk piece with
        | (d, .error a) => d.failReduce c j.seq stUncorrectable a
        | (d, .ok own) =>
          match d.addPiece j chunk piece [b + 1] (withResidue own) with
          | (d, .error st) =>
            if st = stResidue then
              let peer := memberFid (j.members.getD ((j.index + j.count - 1) % j.count) 0)
              d.pieceVote j { emptyPacket with src := peer } 0x0021 1 stResidue piece chunk
            else d.failReduce c j.seq stUncorrectable (d.badIn j)
          | (d, .ok (bs, sats)) =>
            let d := if chunk = j.index then d.ownerPiece c n piece bs
              else (d.weir c n bs).sendPiece c n
                { toMember := (j.index + 1) % j.count, chunk := chunk, piece := piece }
            d.jobSats j sats

/-- RING_PIECE_FORWARD (R302). -/
def execRingPieceForward (c : Fin 16) (job chunk piece : Nat) (s : State) : Host.Outcome State Fault Refusal :=
  done s (s.dev.forwardPiece c job chunk piece)

/-! ### Answers to pieces (R303) -/

/-- A piece's place among the pieces that a job sends. -/
def Job.sendIndex (j : Job) (chunk piece : Nat) : Nat :=
  (j.pieces.findIdx? fun s => s.chunk == chunk && s.piece == piece).getD 0

/-- Marks a piece that the job sends. -/
def Dev.markPiece (d : Dev) (c : Fin 16) (n chunk piece : Nat) (f : SendPiece → SendPiece) : Dev :=
  d.modJob c n fun j => { j with pieces := mapWhere (fun s => s.chunk == chunk && s.piece == piece) f j.pieces }

/-- A final answer to a piece. -/
def Dev.pieceAnswer (d : Dev) (c : Fin 16) (n chunk piece status peer : Nat) : Dev :=
  match d.job? c n with
  | none => d
  | some j =>
    if j.closed then d
    else if status = stOk || status = stDuplicate then
      let d := d.markPiece c n chunk piece fun s => { s with delivered := true }
      (d.reduceUnit j (j.piecesIn j.index + j.sendIndex chunk piece)).pushJob c n
    else if status = stAborted then d.markPiece c n chunk piece fun s => { s with ended := true }
    else
      let d := if status = stBadArg then
        (d.redFail c n peer piece 3).eventAt c 0 0x0024 0 j.step (packFields [(0, n), (12, peer)]) else d
      d.failReduce c j.seq status 0

/-! ### Completion and deadlines (R304, R305) -/

/-- The job of an outstanding REDUCE, if it is open. -/
def Dev.jobOfCmd (d : Dev) (c : Fin 16) (seq : W32) : Option Job :=
  d.red.jobs.find? fun j => j.ctx == c && j.seq == seq && !j.closed && !j.finished

/-- A REDUCE completes when its job is complete and every piece it sends is delivered; until then the job goes on with
what it can do. -/
def Dev.completeReduce (d : Dev) (c : Fin 16) (seq : W32) : Dev :=
  match d.jobOfCmd c seq with
  | none => d
  | some j =>
    if j.scanned && j.complete && j.delivered then
      let d := (d.modJob c j.job fun j => { j with finished := true }).freeJobSlot c j.job
      let d := if j.probe then d.eventAt c 0 0x0023 0 j.step (packFields [(0, j.job), (12, j.require)]) else d
      d.finishCmd c seq
    else d.pushJob c j.job

/-- REDUCE_COMPLETE (R304). -/
def execReduceComplete (c : Fin 16) (seq : W32) (s : State) : Host.Outcome State Fault Refusal :=
  done s (s.dev.completeReduce c seq)

/-- R305: the first missing contributor and the pieces missing: its member index, and the piece. -/
def Job.missing (j : Job) : Nat × Nat × Nat :=
  let left := (List.range (j.piecesIn j.index)).filter fun p => !j.pieceDone p
  let p := left.headD 0
  if j.ring then ((j.index + j.count - 1) % j.count, p, left.length)
  else (((List.range j.count).find? fun m => !j.arrived.contains (j.count * p + m)).getD 0, p, left.length)

/-- R305: a REDUCE that its deadline finds incomplete ends with TIMEOUT, and the device votes abort. -/
def Dev.reduceTimeout (d : Dev) (c : Fin 16) (seq : W32) : Dev :=
  match (d.ctx c).cmd? seq with
  | none => d
  | some k =>
    match reduceArgs k.args with
    | none => d
    | some x =>
      let j := (d.jobOfCmd c seq).getD (d.jobOf c k x)
      let (m, p, n) := j.missing
      let peer := memberFid (j.members.getD m 0)
      let d := d.redFail c x.job peer p 2
      let d := d.event c 0 0x0022 0 (packFields [(0, x.job), (12, peer), (32, n)])
      d.failReduce c seq stTimeout 0

/-- The deadline of an issued REDUCE. -/
def Dev.reduceDeadline (d : Dev) (c : Fin 16) (k : Cmd) (x : ReduceArgs) : Nat :=
  match d.jobOfCmd c k.entry.seq with
  | some j => j.deadlineAt
  | none => (d.jobOf c k x).deadlineAt

/-- CONTRIBUTION_DEADLINE (R305). -/
def execContributionDeadline (c : Fin 16) (seq : W32) (s : State) : Host.Outcome State Fault Refusal :=
  let d := s.dev
  match (d.ctx c).cmd? seq with
  | none => done s d
  | some k =>
    match reduceArgs k.args with
    | none => done s d
    | some x =>
      if k.issued && k.ended.isNone && k.entry.opcode = opReduce && d.reduceDeadline c k x ≤ d.now then
        done s (d.reduceTimeout c seq)
      else done s d

/-- Ends the REDUCE of a lost job that is not complete with TIMEOUT; the vote follows once every lost job has ended (R307). -/
def Dev.endLost (d : Dev) (j : Job) : Dev :=
  match (d.ctx j.ctx).cmd? j.seq with
  | none => d
  | some k =>
    if j.complete || k.ended.isSome then d
    else ((((d.leaveOpen k).disown (Owner.ofCmd j.ctx (· == j.seq))).notify j.ctx k stTimeout).feed j.ctx).dropCmd j.ctx j.seq

/-- R307: the records and regions of the jobs whose regions a controller held are lost with its reset: the REDUCE of each that is
not complete times out at once, and the device votes abort for these and for those that are complete. -/
def Dev.loseJobs (d : Dev) (ctl : Nat) : Dev :=
  let lost := d.red.jobs.filter fun j => unitOf j.region == ctl && !j.closed && !j.lost
  let mine := fun (j : Job) => unitOf j.region == ctl
  let d := lost.foldl (fun d j =>
    (d.redFail j.ctx j.job 0 0 4).eventAt j.ctx 0 0x0025 0 j.step (packFields [(0, j.job), (12, ctl)])) d
  let d := { d with red := { d.red with
    jobs := mapWhere mine (fun j => { j with lost := true, closed := true, slot := none }) d.red.jobs
    slots := d.red.slots.map fun (o : Option (Fin 16 × Nat)) => o.filter fun k => !(d.red.jobs.any fun j => j.ctx == k.1 && j.job == k.2 && mine j) } }
  let d := d.disown fun o => match o with
    | .piece c n _ _ => lost.any fun j => j.ctx == c && j.job == n
    | _ => false
  let d := lost.foldl Dev.endLost d
  lost.foldl (fun d j => d.voteAbort j.ctx 2 stTimeout false) d

end Sys2Proof.Machine
end

