-- ==== Sys2Proof/Machine/Update.lean ====
section
/-! DEFINITION. The update engines' arithmetic: UPDATE entries (R200 to R211), gradients (R202, R203), the single-moment and
factored forms (R212 to R214), master weights (R90, R91) and working copies (R207). -/

namespace Sys2Proof.Machine

open Sys2Proof

/-! ### Destination lists (R201, R207) -/

/-- NDEST of entry `i` of a command of class 5. -/
def Cmd.ndest (k : Cmd) (i : Nat) : Nat := fieldAt k.args (64 + 32 * i + if k.entry.opcode = opUpdate then 3 else 2) 1

/-- DEST_LIST of entry `i`. -/
def Cmd.destList (k : Cmd) (i : Nat) : Nat := fieldAt k.args (64 + 32 * i + if k.entry.opcode = opUpdate then 16 else 8) 8

/-- COUNT of a command of class 5. -/
def Cmd.entries (k : Cmd) : Nat := if k.entry.opcode = opUpdate then fieldAt k.args 28 2 else fieldAt k.args 5 2

/-- Handle of entry `i`. -/
def Cmd.handle (k : Cmd) (i : Nat) : Nat := fieldAt k.args (64 + 32 * i) 2

/-- The destinations of entry `i`, as the lists were read at issue. -/
def Cmd.dests (k : Cmd) (i : Nat) : List Nat :=
  (k.lists.drop ((List.range i).foldl (fun t j => t + k.ndest j) 0)).take (k.ndest i)

/-- Reads the destination lists, which R174 names among the reads made at issue; none at an uncorrectable one. -/
def Dev.readDests (k : Cmd) : List Nat → Dev → Dev × Option (List Nat)
  | [], d => (d, some [])
  | i :: r, d =>
    match d.readBytes srcWork (localOf (k.destList i)) (8 * k.ndest i) with
    | (d, none) => (d, none)
    | (d, some bs) =>
      match Dev.readDests k r d with
      | (d, none) => (d, none)
      | (d, some more) => (d, some ((List.range (k.ndest i)).map (fun j => fieldAt bs (8 * j) 8) ++ more))

/-- How the place of a destination list is judged. -/
def Dev.listStatus (d : Dev) (k : Cmd) (i : Nat) : Nat :=
  let a := k.destList i
  if fidOf a ≠ 0 then stBadArg
  else if k.ndest i = 0 then stOk
  else if !aligned a 8 then stBadArg
  else d.slowStatus a (8 * k.ndest i)

/-- How a destination is judged (R23, R25, R149, R207). -/
def Dev.destStatus (d : Dev) (bytes a : Nat) : Nat :=
  if !aligned a 32 then stBadArg
  else
    let st := d.sideStatus (d.isOwn a) [(localOf a, bytes)]
    if st ≠ stOk then st else d.judgeRemote (fidOf a)

/-- The first status that is not OK; BAD_ARG goes before the others. -/
def worst (sts : List Nat) : Nat :=
  if sts.contains stBadArg then stBadArg else (sts.find? (· != stOk)).getD stOk

/-! ### UPDATE at issue (R198, R201, R203, R304) -/

/-- Whether a SEQ comes before another in ring order. -/
def seqBefore (a b : W32) : Bool := let k := dist32 a b; decide (0 < k) && decide (k < 2 ^ 31)

/-- The argument block of an outstanding command: as read at issue, or as it stands in memory. -/
def Dev.blockOf (d : Dev) (k : Cmd) : List Byte :=
  if k.issued then k.args else readCells d.mem.cells (fieldAt k.entry.args 0 8) k.entry.argLen

/-- The bucket of a job with an earlier REDUCE in the step: N, COUNT, INDEX. -/
def Dev.jobShape (d : Dev) (c : Fin 16) (k : Cmd) (n : Nat) : Option (Nat × Nat × Nat) :=
  let s := d.slc c
  match d.red.jobs.find? fun j => j.ctx == c && j.job == n && j.step == s.step && j.attempt == s.attempt && !j.closed
      && seqBefore j.seq k.entry.seq with
  | some j => some (j.n, j.count, j.index)
  | none =>
    (d.ctx c).cmds.findSome? fun q =>
      if q.entry.opcode == opReduce && q.step == k.step && seqBefore q.entry.seq k.entry.seq then
        match reduceArgs (d.blockOf q) with
        | some x => if x.job = n then some (x.n, x.count, x.index) else none
        | none => none
      else none

/-- Whether entry `i` names a gradient that R203 and R304 accept. -/
def Dev.gradOk (d : Dev) (c : Fin 16) (k : Cmd) (x : Shard) (e : UpdateEntry) : Nat :=
  if e.localGrad then
    if fidOf e.grad ≠ 0 then stBadArg else d.rangeStatus e.grad (4 * x.size)
  else
    match d.jobShape c k e.job with
    | none => stBadArg
    | some (n, count, index) =>
      let lo := 32 * chunkStart (n / 32) count index
      let hi := 32 * chunkStart (n / 32) count (index + 1)
      if lo ≤ e.grad && e.grad + x.size ≤ hi then stOk else stBadArg

/-- Entry `i` of an UPDATE at issue, but for its destinations. -/
def Dev.checkEntry (d : Dev) (c : Fin 16) (k : Cmd) (i : Nat) : Nat :=
  let e := updateEntry k.args i
  let twice := (List.range k.entries).any fun j => j != i && k.handle j == e.handle
  match d.shard? e.handle with
  | none => stBadArg
  | some x =>
    if !updateEntryOk k.args i || x.ctx ≠ c || (e.ndest != 0 && !x.hasWc) || twice then stBadArg
    else if x.lost then stNoResource
    else if x.state ≠ .seeded || x.imported || d.updateNames c e.handle then stBadArg
    else worst [d.gradOk c k x e, d.listStatus k i]

/-- UPDATE at issue, but for its destinations. -/
def Dev.checkUpdate (d : Dev) (c : Fin 16) (k : Cmd) : Nat :=
  if k.step.isNone || !updateHeadOk k.args then stBadArg
  else worst ((List.range k.entries).map (d.checkEntry c k))

/-- The destinations of a command of class 5, as its lists hold them. -/
def Dev.checkDests (d : Dev) (k : Cmd) : Nat :=
  worst ((List.range k.entries).flatMap fun i =>
    let wc := ((d.shard? (k.handle i)).map fun x => x.planes.getD 5 0).getD 0
    (k.dests i).map (d.destStatus wc))

/-! ### Elements (R212) -/

/-- A shard's live element: W in FP32 layout, and REM. -/
def Shard.liveElem (x : Shard) (v : View) (base o : Nat) : W32 × Int :=
  (halfOf v (base + x.planeOff 0 + 2 * o), remOf (byteAt v (base + x.planeOff 1 + o)))

/-- The stored moment of an element, decoded. -/
def Shard.mom (x : Shard) (mode : FpMode) (v : View) (base o : Nat) : FpR :=
  let m := base + x.planeOff 2
  if x.momBs8 then blockElem mode (byteAt v (m + alignUp x.size 32 + o / 32)).toNat (byteAt v (m + o)).toInt
  else ⟨halfOf v (m + 2 * o), false⟩

/-- A computation's value and the saturations so far: one more operation. -/
def Tally.op (t : Tally) (f : W32 → FpR) : Tally := t.next (f t.bits)

/-- Two tallies through a binary operation. -/
def tally2 (f : W32 → W32 → FpR) (a b : Tally) : Tally := (⟨b.bits, a.sats + b.sats⟩ : Tally).next (f a.bits b.bits)

/-- A constant. -/
def tallyOf (w : W32) : Tally := ⟨w, 0⟩

/-- 2^-s as FP32. The other point at which L applies, the backward seed operation of R93, is an operation of the program's own
schedule: no command names it, and the factor is among its operands (DEDUCED, log 14). -/
def lossInverse (s : Nat) : W32 := BitVec.ofNat 32 ((127 - s) <<< 23)

/-- What an update makes of one element: the new master weight (none: nothing is written, R91), the new moment unrounded, g
and the saturations and non-finite updates. -/
structure NewElem where
  master : Option Master
  mom : W32
  changed : Bool
  sats : Nat

/-- R90, R91: the update d applied to a master weight. -/
def applyUpdate (mode : FpMode) (w : W32) (r : Int) (d : Tally) (mom : W32) : NewElem :=
  let v := d.op fun x => fpAdd mode 24 (masterValue w r) x
  match toMaster mode v.bits with
  | none => ⟨none, mom, true, v.sats + 1⟩
  | some m => ⟨some m, mom, m.w != w, v.sats + bit m.sat⟩

/-- -lr times (t + wd * wv). -/
def decayed (mode : FpMode) (h : UpdateHead) (w : W32) (r : Int) (t : Tally) : Tally :=
  let decay := (tallyOf h.wd).op fun x => fpMul mode 24 x (masterValue w r)
  (tally2 (fpAdd mode 24) t decay).op fun x => fpMul mode 24 (fpNeg mode h.lr).bits x

/-- R213: the single-moment form of one element. -/
def singleMoment (mode : FpMode) (h : UpdateHead) (w : W32) (r : Int) (mom : FpR) (g : W32) : NewElem :=
  let mul := fpMul mode 24
  let add := fpAdd mode 24
  let old : Tally := ⟨mom.bits, bit mom.sat⟩
  if h.rms then
    let c2 := (fpSub mode 24 0x3F800000 h.beta2).bits
    let gg := ((tallyOf g).op fun x => mul x g).op fun x => mul c2 x
    let v := tally2 add (old.op fun x => mul h.beta2 x) gg
    let t := ((v.op (fpSqrt mode 24)).op fun x => add x h.eps).op fun x => fpDiv mode 24 g x
    applyUpdate mode w r (decayed mode h w r t) v.bits
  else
    let m := (old.op fun x => mul h.beta1 x).op fun x => add x g
    applyUpdate mode w r (decayed mode h w r m) m.bits

/-- A sum in ascending order with its saturations. -/
def tallySum (mode : FpMode) (ts : List Tally) : Tally := ts.foldl (fun t u => tally2 (fpAdd mode 24) t u) (tallyOf 0)

/-- What R214 makes of one matrix: its elements, ROWV, COLV, and saturations outside the elements. -/
structure NewMatrix where
  elems : List NewElem
  rowv : List W32
  colv : List W32
  sats : Nat

/-- R214: the factored form of matrix `m`, from its gradient `g` in row-major order. -/
def Shard.factoredForm (x : Shard) (mode : FpMode) (h : UpdateHead) (v : View) (base m : Nat) (g : List W32) : NewMatrix :=
  let mul := fpMul mode 24
  let add := fpAdd mode 24
  let div := fpDiv mode 24
  let rows := x.rows
  let cols := x.cols
  let c1 := (fpSub mode 24 0x3F800000 h.beta1).bits
  let c2 := (fpSub mode 24 0x3F800000 h.beta2).bits
  let q := g.map fun a => ((tallyOf a).op fun y => mul y a).op fun y => add y h.eps1
  let at_ := fun i j => q.getD (i * cols + j) (tallyOf 0)
  let rs := (List.range rows).map fun i => tallySum mode ((List.range cols).map fun j => at_ i j)
  let cs := (List.range cols).map fun j => tallySum mode ((List.range rows).map fun i => { at_ i j with sats := 0 })
  let mix := fun (a : Nat) (t : Tally) (n : Nat) =>
    let t := (t.op fun y => div y (countFp n)).op fun y => mul c2 y
    tally2 add ((tallyOf (wordOf v a)).op fun y => mul h.beta2 y) t
  let rowv := (rs.zip (List.range rows)).map fun e => mix (base + x.planeOff 3 + 4 * (m * rows + e.2)) e.1 cols
  let colv := (cs.zip (List.range cols)).map fun e => mix (base + x.planeOff 4 + 4 * (m * cols + e.2)) e.1 rows
  let mr := (tallySum mode (rowv.map fun t => { t with sats := 0 })).op fun y => div y (countFp rows)
  let elems := (List.range (rows * cols)).map fun k =>
    let o := m * rows * cols + k
    let (w, r) := x.liveElem v base o
    let a := g.getD k 0
    let vh := ((tallyOf (rowv.getD (k / cols) (tallyOf 0)).bits).op fun y =>
      mul y (colv.getD (k % cols) (tallyOf 0)).bits).op fun y => div y mr.bits
    let u := (vh.op (fpSqrt mode 24)).op fun y => div a y
    let u := if x.hasMom then
      let old := x.mom mode v base o
      tally2 add ((⟨old.bits, bit old.sat⟩ : Tally).op fun y => mul h.beta1 y) (u.op fun y => mul c1 y) else u
    applyUpdate mode w r (decayed mode h w r u) u.bits
  ⟨elems, rowv.map (·.bits), colv.map (·.bits), satsOf rowv + satsOf colv + mr.sats⟩

/-! ### Planes -/

/-- Runs of consecutive present items of `z` bytes from address `a`. -/
def presentRuns (z : Nat) : Nat → List (Option (List Byte)) → List (Nat × List Byte)
  | _, [] => []
  | a, none :: r => presentRuns z (a + z) r
  | a, some bs :: r =>
    match presentRuns z (a + z) r with
    | (b, more) :: rest => if b = a + z then (a, bs ++ more) :: rest else (a, bs) :: (b, more) :: rest
    | [] => [(a, bs)]

/-- W and REM of new elements in a slot at `base`. -/
def Shard.weightWrites (x : Shard) (base : Nat) (ms : List (Option Master)) : List (Nat × List Byte) :=
  presentRuns 2 (base + x.planeOff 0) (ms.map fun m => m.map fun m => toLe 2 (bf16Bits m.w).toNat)
  ++ presentRuns 1 (base + x.planeOff 1) (ms.map fun m => m.map fun m => [BitVec.ofInt 8 m.r])

/-- The BS8 block of new moments. A parameter for which nothing is written (R91) keeps its byte, and the block's exponent is formed
from the others (DESIGN CHOICE, log 14). -/
def momBlock (es : List NewElem) : List (Option (List Byte)) × Option (List Byte) :=
  let b := toBlock .bs8 (es.map fun e => if e.master.isSome then e.mom else 0)
  ((es.zip b.elems).map fun e => e.1.master.map fun _ => bs8Bytes [e.2],
    if es.any (·.master.isSome) then some [BitVec.ofNat 8 b.exp] else none)

/-- MOM of new elements, rounded as it is stored (R212), and saturations. -/
def Shard.momWrites (x : Shard) (mode : FpMode) (base : Nat) (es : List NewElem) : List (Nat × List Byte) × Nat :=
  let m := base + x.planeOff 2
  if !x.hasMom then ([], 0)
  else if x.momBs8 then
    let bs := (List.range (x.size / 32)).map fun b => momBlock ((es.drop (32 * b)).take 32)
    let n := x.size / 32
    let exps := bs.map (·.2) ++ List.replicate (alignUp n 32 - n) (some [0])
    (presentRuns 1 m (bs.flatMap (·.1)) ++ presentRuns 1 (m + alignUp x.size 32) exps, 0)
  else
    let hs := es.map fun e => toBf16 mode e.mom
    (presentRuns 2 m ((es.zip hs).map fun e => e.1.master.map fun _ => toLe 2 (bf16Bits e.2.bits).toNat),
      (hs.filter (·.sat)).length)

/-- The tiles of the working copy from the W plane that stands in a view, and the padding of its exponents (R68, R207). -/
def Shard.wcWrites (x : Shard) (v : View) (base : Nat) : List (Nat × List Byte) :=
  if !x.hasWc then [] else
    ((List.range x.mats).flatMap fun m => (List.range (x.rows / 32)).flatMap fun i =>
      (List.range (x.cols / 32)).flatMap fun j => x.wcTile v base m (32 * i) (32 * j))
    ++ [(base + x.planeOff 5 + x.size + x.size / 1024,
      List.replicate (alignUp (x.size / 1024) 32 - x.size / 1024) 0)]

/-- Adds the working copy to writes that hold W. An element that was not written leaves what stood in the staging plane
(DEDUCED, log 14). -/
def Dev.withWc (d : Dev) (x : Shard) (base : Nat) (ws : List (Nat × List Byte)) : List (Nat × List Byte) :=
  if !x.hasWc then ws else
    let a := base + x.planeOff 0
    let v := ws.foldl (fun v w => writeCells v w.1 w.2) (writeCells [] a (readCells d.mem.cells a (2 * x.size)))
    ws ++ x.wcWrites v base

/-! ### An entry (R202, R204, R209) -/

/-- Local bytes that hold an entry's gradient. -/
def Dev.gradRange (d : Dev) (c : Fin 16) (x : Shard) (e : UpdateEntry) : Option (Nat × Nat) :=
  if e.localGrad then some (e.grad, 4 * x.size)
  else match d.job? c e.job with
    | none => none
    | some j => some (j.region + 128 * j.slotOf j.index 0 + 4 * (e.grad - 32 * j.start j.index), 4 * x.size)

/-- R202: the gradient elements from their bytes. -/
def gradient (mode : FpMode) (h : UpdateHead) (s exp : Nat) (isInt : Bool) (bs : List Byte) (n : Nat) : List Tally :=
  (List.range n).map fun i =>
    let w := fieldAt bs (4 * i) 4
    let t : Tally := if isInt then tallyOf 0 |>.next (fpOfInt mode (signed 32 w) ((exp : Int) - 127)) else tallyOf (BitVec.ofNat 32 w)
    (t.op fun x => fpMul mode 24 x (lossInverse s)).op fun x => fpMul mode 24 x h.gradMul

/-- What an entry writes, its saturations and non-finite updates, and its flags. -/
structure EntryResult where
  writes : List (Nat × List Byte)
  sats : Nat
  gradZero : Bool
  noChange : Bool

/-- The result of an UPDATE entry from the live slot's view and g. -/
def Dev.updateResult (d : Dev) (mode : FpMode) (h : UpdateHead) (x : Shard) (v : View) (g : List Tally) : EntryResult :=
  let base := x.stageBase
  let gs := g.map (·.bits)
  let parts := if x.factored then
      (List.range x.mats).map fun m =>
        x.factoredForm mode h v x.liveBase m ((gs.drop (m * x.rows * x.cols)).take (x.rows * x.cols))
    else
      [⟨(gs.zip (List.range x.size)).map fun e =>
        let (w, r) := x.liveElem v x.liveBase e.2
        singleMoment mode h w r (x.mom mode v x.liveBase e.2) e.1, [], [], 0⟩]
  let es := parts.flatMap (·.elems)
  let words := fun (ws : List W32) => ws.flatMap fun w => toLe 4 w.toNat
  let vecs := if x.factored then
    [(base + x.planeOff 3, words (parts.flatMap (·.rowv))), (base + x.planeOff 4, words (parts.flatMap (·.colv)))] else []
  let (moms, momSats) := x.momWrites mode base es
  { writes := d.withWc x base (x.weightWrites base (es.map (·.master)) ++ moms ++ vecs)
    sats := satsOf g + momSats + es.foldl (fun t e => t + e.sats) 0 + parts.foldl (fun t p => t + p.sats) 0
    gradZero := gs.all isZero
    noChange := es.all fun e => !e.changed }

/-- Local ranges of a shard's slot. -/
def Shard.slotRange (x : Shard) (base : Nat) : Nat × Nat := (base, x.slotSize)

/-- Ranges of the planes of a slot that are present. -/
def Shard.planeRanges (x : Shard) (base : Nat) (is : List Nat) : List (Nat × Nat) :=
  is.filterMap fun i => if x.planes.getD i 0 = 0 then none else some (base + x.planeOff i, x.planes.getD i 0)

/-- Whether the job that an entry reads has completed (R202, R304); a local gradient is always there. -/
def Dev.gradReady (d : Dev) (c : Fin 16) (e : UpdateEntry) : Bool :=
  e.localGrad || (d.job? c e.job).any fun j =>
    !j.closed && j.step == (d.slc c).step && j.attempt == (d.slc c).attempt && j.scanned && j.complete

/-- Computes an UPDATE entry; the granule of an uncorrectable read on failure. -/
def Dev.computeUpdate (d : Dev) (c : Fin 16) (k : Cmd) (i : Nat) (x : Shard) : Dev × Except Nat EntryResult :=
  let e := updateEntry k.args i
  let mode := (d.ctx c).ovf
  match d.gradRange c x e with
  | none => (d, .error 0)
  | some (a, n) =>
    match d.readView [(a, n)] [] with
    | (d, .error g) => (d, .error g)
    | (d, .ok gv) =>
      match d.readView (x.planeRanges x.liveBase [0, 1, 2, 3, 4]) [] with
      | (d, .error g) => (d, .error g)
      | (d, .ok v) =>
        let exp := ((d.job? c e.job).map (·.exp)).getD 0
        let g := gradient mode (updateHead k.args) (d.slc c).ls.s exp (!e.localGrad) (readCells gv a n) x.size
        (d, .ok (d.updateResult mode (updateHead k.args) x v g))

end Sys2Proof.Machine
end

