-- ==== Sys2Proof/Machine/Outer.lean ====
section
/-! DEFINITION. The turnout: areas and rounds (R326 to R330), SEND and its transmission (R331), messages (R332, R333),
freezing and APPLY (R334 to R336), enrolment (R337 to R339). -/

namespace Sys2Proof.Machine

open Sys2Proof

/-! ### The turnout area (R327, R328) -/

/-- Bytes of a plane pair of W and REM, REM from the next 4 KiB. -/
def pairBytes (p : Nat) : Nat := alignUp (2 * p) 4096 + p

/-- D = P/2 + P/32: bytes of one delta of P elements. Its two planes adjoin, as the formula has it (R327; DEDUCED, log 14). -/
def deltaBytes (p : Nat) : Nat := p / 2 + p / 32

/-- D′: D rounded up to 4 KiB, the pitch of receive buffers. -/
def deltaPitch (p : Nat) : Nat := alignUp (deltaBytes p) 4096

/-- Sizes of the planes of an area in order: anchors, outer momenta, feedback, BOUNDARY, SEND, receive buffers. -/
def areaPlanes (p partners l : Nat) : List Nat :=
  [pairBytes p, pairBytes p, 2 * p, 2 * p, 2 * p, 2 * p, pairBytes p, deltaBytes p]
    ++ List.replicate (partners * (l + 1)) (deltaBytes p)

/-- Bytes of an area. -/
def areaBytes (p partners l : Nat) : Nat := sumAligned 4096 (areaPlanes p partners l)

/-- Offset of plane `i` of an area: 0, 1 ANCHOR; 2, 3 OMOM; 4, 5 FB; 6 BOUNDARY; 7 SEND; 8 on RECV. -/
def areaOff (p partners l i : Nat) : Nat := sumAligned 4096 ((areaPlanes p partners l).take i)

/-- Address of plane `i` of an enrolled shard's area. -/
def Enrol.plane (e : Enrol) (p l i : Nat) : Nat := e.area + areaOff p e.partners.length l i

/-- Address of receive buffer `j` of partner `i`. -/
def Enrol.recv (e : Enrol) (p l i j : Nat) : Nat := e.plane p l (8 + i * (l + 1) + j)

/-- The enrolment of a handle. -/
def Dev.enrol? (d : Dev) (h : Nat) : Option Enrol := d.trn.enrols.find? fun e => e.handle == h

/-- STALE of a context: L. -/
def Dev.staleOf (d : Dev) (c : Fin 16) : Nat := (d.trn.trns[c]).stale

/-- A master weight of a W and REM pair. -/
def pairElem (v : View) (base p o : Nat) : W32 × Int :=
  (halfOf v (base + 2 * o), remOf (byteAt v (base + alignUp (2 * p) 4096 + o)))

/-- Writes of a W and REM pair. -/
def pairWrites (base p : Nat) (ms : List (W32 × Int)) : List (Nat × List Byte) :=
  [(base, ms.flatMap fun m => toLe 2 (bf16Bits m.1).toNat), (base + alignUp (2 * p) 4096, ms.map fun m => BitVec.ofInt 8 m.2)]

/-! ### OUTER_ROUND at issue (R329) -/

/-- The site counts in a round (R334). -/
def Dev.siteCounts (d : Dev) (c : Fin 16) (site round : Nat) : Bool :=
  let t := d.trn.trns[c]
  site == siteOf d.fab.id
    || (t.enabled.toList.getD site false && decide ((t.firstRound.toList.getD site 0).toNat ≤ round))

/-- Whether a SEND of round `r` that names a handle is in flight, other than command `seq`. -/
def Dev.sendInFlight (d : Dev) (c : Fin 16) (seq : W32) (h r : Nat) : Bool :=
  (d.ctx c).cmds.any fun q =>
    q.issued && q.ended.isNone && q.entry.opcode == opOuter && q.entry.seq != seq && !(outerHead q.args).apply
      && (outerHead q.args).round == r && (List.range q.entries).any fun i => q.handle i == h

/-- Entry `i` of an OUTER_ROUND at issue, but for its destinations. A SEND is issued again where the command that sent its round
has ended and did not complete. -/
def Dev.checkOuterEntry (d : Dev) (c : Fin 16) (k : Cmd) (h : OuterHead) (i : Nat) : Nat :=
  let twice := (List.range k.entries).any fun j => j != i && k.handle j == k.handle i
  match d.shard? (k.handle i), d.enrol? (k.handle i) with
  | some x, some e =>
    if !outerEntryOk k.args i || x.ctx ≠ c || twice then stBadArg
    else if x.lost then stNoResource
    else if h.apply then
      if e.lastSend ≠ some h.round || x.state ≠ .seeded || x.imported || d.updateNames c (k.handle i)
          || (k.ndest i != 0 && !x.hasWc) then stBadArg
      else d.listStatus k i
    else
      let next := match e.lastSend with
        | none => decide (h.round = e.firstRound)
        | some r => (h.round == r && !e.sendWhole && !d.sendInFlight c k.entry.seq (k.handle i) r) || decide (h.round = r + 1 && e.sendDone && e.lastApply = some r)
      if next && x.state != .unseeded then stOk else stBadArg
  | _, _ => stBadArg

/-- OUTER_ROUND at issue, but for its destinations. -/
def Dev.checkOuter (d : Dev) (c : Fin 16) (k : Cmd) : Nat :=
  let h := outerHead k.args
  let place := if h.apply then k.step.isSome && (d.slc c).outer else k.step.isNone && (d.slc c).epoch == h.boundary
  if !outerHeadOk k.args || !place then stBadArg
  else worst ((List.range k.entries).map (d.checkOuterEntry c k h))

/-- A SEND issues (R329, R334): the first one of a round on the device fixes the deadline and the sites that count. -/
def Dev.startSend (d : Dev) (c : Fin 16) (k : Cmd) : Dev :=
  let h := outerHead k.args
  let first := d.trn.enrols.find? fun e => e.ctx == c && e.lastSend == some h.round
  let sites := (List.range 8).filter fun s => d.siteCounts c s h.round
  let (at_, ms, sites) := match first with
    | some e => (e.sendAt, e.deadlineMs, e.sites)
    | none => (d.now, (d.trn.trns[c]).deadlineMs, sites)
  (List.range k.entries).foldl (fun d i => d.modEnrol (k.handle i) fun e =>
    { e with lastSend := some h.round, sendDone := false, sendWhole := false, sendAt := at_, deadlineMs := ms, sites := sites }) d

/-! ### SEND (R330) -/

/-- What SEND makes of one block of 32 elements: the delta's block, and FB. -/
structure SendBlock where
  block : Block
  fb : List W32
  sats : Nat

/-- R330 for the elements from `o`, 32 of them. -/
def sendBlock (mode : FpMode) (x : Shard) (v : View) (slot anchor fb o : Nat) : SendBlock :=
  let add := fpAdd mode 24
  let xs := (List.range 32).map fun i =>
    let (w, r) := x.liveElem v slot (o + i)
    let (aw, ar) := pairElem v anchor x.size (o + i)
    let t := (tallyOf (masterValue w r)).op fun b => add b (fpNeg mode (masterValue aw ar)).bits
    t.op fun y => add y (halfOf v (fb + 2 * (o + i)))
  let b := toBlock .bs4 (xs.map (·.bits))
  let back := (xs.zip b.elems).map fun e =>
    let q := blockElem mode b.exp e.2
    ((⟨e.1.bits, bit q.sat⟩ : Tally).op fun y => add y (fpNeg mode q.bits).bits).op (toBf16 mode)
  ⟨b, back.map (·.bits), satsOf xs + satsOf back⟩

/-- A SEND entry: BOUNDARY, FB and SEND. -/
def Dev.computeSend (d : Dev) (c : Fin 16) (k : Cmd) (i : Nat) (x : Shard) (e : Enrol) : Dev × Except Nat EntryResult :=
  let mode := (d.ctx c).ovf
  let l := d.staleOf c
  let p := x.size
  let par := (outerHead k.args).round % 2
  let slot := x.slotBase (k.lists.getD i 0)
  let anchor := e.plane p l par
  let fb := e.plane p l (5 - par)
  match d.readView (x.planeRanges slot [0, 1] ++ [(anchor, pairBytes p), (fb, 2 * p)]) [] with
  | (d, .error g) => (d, .error g)
  | (d, .ok v) =>
    let bs := (List.range (p / 32)).map fun b => sendBlock mode x v slot anchor fb (32 * b)
    let send := e.plane p l 7
    let exps := bs.map fun b => BitVec.ofNat 8 b.block.exp
    let boundary := e.plane p l 6
    (d, .ok {
      writes := [(boundary, readCells v (slot + x.planeOff 0) (2 * p)),
        (boundary + alignUp (2 * p) 4096, readCells v (slot + x.planeOff 1) p),
        (e.plane p l (4 + par), bs.flatMap fun b => b.fb.flatMap fun w => toLe 2 (bf16Bits w).toNat),
        (send, bs.flatMap fun b => bs4Bytes b.block.elems),
        (send + p / 2, exps)]
      sats := bs.foldl (fun t b => t + b.sats) 0, gradZero := false, noChange := false })

/-! ### Transmission (R331) -/

/-- The writes of `n` bytes from `a`: whole granules of up to 4 KiB each, and a partial one at either end (R263, R331). -/
def writeCuts (a n : Nat) : List (Nat × Nat) :=
  let lo := alignUp a 32
  let hi := (a + n) / 32 * 32
  let part := fun (x y : Nat) => if x < y then [(x, y - x)] else []
  if hi < lo then part a (a + n) else part a lo ++ cut4k lo (hi - lo) ++ part hi (a + n)

/-- Address of the buffer for round `k` at a partner (R331). -/
def Partner.buffer (p : Partner) (l size k : Nat) : Nat := localOf p.recv + k % (l + 1) * deltaPitch size

/-- The writes that carry the delta of round `k` to a partner. -/
def Dev.deltaCuts (d : Dev) (x : Shard) (p : Partner) (k : Nat) : List (Nat × Nat) :=
  writeCuts (p.buffer (d.staleOf x.ctx) x.size k) (deltaBytes x.size)

/-- Whether every write of a delta has been answered OK: its granule address stands in the partner's record. -/
def Dev.deltaSent (d : Dev) (x : Shard) (p : Partner) (k : Nat) : Bool :=
  (d.deltaCuts x p k).all fun w => p.acked.contains (w.1 / 32 * 32)

/-- Whether buffer j may be written for round `k` (R331): round k - L - 1 has been released, or precedes the partner's first
round. -/
def Dev.bufferFree (d : Dev) (c : Fin 16) (p : Partner) (k : Nat) : Bool :=
  let l := d.staleOf c
  let first := ((d.trn.trns[c]).firstRound.toList.getD (siteOf p.fid) 0).toNat
  decide (k ≤ l) || decide (k - l - 1 < first) || decide (k - l ≤ p.released)

/-- Changes partner `i` of an enrolled shard. -/
def Dev.modPartner (d : Dev) (h i : Nat) (f : Partner → Partner) : Dev :=
  d.modEnrol h fun e => { e with partners := modifyAt i f e.partners }

/-- Sends one WRITE of a delta, unless it is answered or on its way. One that R25 refuses waits 1 ms as any other that does not
end with OK; where no entry is free it is left for later (R273). -/
def Dev.deltaWrite (d : Dev) (h i k : Nat) (x : Shard) (e : Enrol) (p : Partner) (w : Nat × Nat) : Dev :=
  let l := d.staleOf x.ctx
  let src := e.plane x.size l 7 + (w.1 - p.buffer l x.size k)
  let fid := fidOf p.recv
  let known := p.acked.contains (w.1 / 32 * 32) || d.fab.entries.any fun q =>
    q.2.owner == .delta h i k && q.2.packet.addr == w.1 / 32 * 32 && !q.2.discard
  if known then d else
    match d.access [(src, w.2)] with
    | (d, false) => d
    | (d, true) =>
      match d.readBytes srcWork src w.2 with
      | (d, none) => d
      | (d, some bs) =>
        (writePackets fid 0 w.1 bs).foldl (fun d q =>
          if d.judgeRemote fid = stOk then (d.request (.delta h i k) q).getD d
          else (d.park (.delta h i k) q (d.now + msNs 1) 3).getD d) d

/-- Goes on with the transmission to partner `i`: the writes of its first round, and DONE once all are answered OK. -/
def Dev.pushPartner (d : Dev) (h i : Nat) : Dev :=
  match d.enrol? h, d.shard? h with
  | some e, some x =>
    match e.partners[i]? with
    | none => d
    | some p =>
      match p.sending with
      | [] => d
      | k :: rest =>
        if !d.bufferFree x.ctx p k then d
        else if d.deltaSent x p k then
          (d.modPartner h i fun p => { p with sending := rest, acked := [] }).turnoutMessage p 1 k x.coordCheck
        else (d.deltaCuts x p k).foldl (fun d w => d.deltaWrite h i k x e p w) d
  | _, _ => d

/-- TRANSMIT_DELTA (R331). -/
def execTransmitDelta (handle : W16) (s : State) : Host.Outcome State Fault Refusal :=
  let h := handle.toNat
  let n := ((s.dev.enrol? h).map (·.partners.length)).getD 0
  done s ((List.range n).foldl (fun d i => d.pushPartner h i) s.dev)

/-- The answer to a delta's WRITE (R331): a failure waits 1 ms. -/
def Dev.deltaAnswer (d : Dev) (entry : Nat) (q : Outst) (h i k status : Nat) : Dev :=
  if status ≠ stOk then
    { d with fab := { d.fab with entries := insertKey entry { q with waitUntil := some (d.now + msNs 1), waitFor := 3 } d.fab.entries } }
  else
    let d := d.closeEntry entry
    match (d.enrol? h).bind fun e => e.partners[i]? with
    | some p =>
      if p.sending.head? ≠ some k then d
      else (d.modPartner h i fun p => { p with acked := q.packet.addr :: p.acked }).pushPartner h i
    | none => d

/-- DELTA_WRITE_REISSUE (R331): 1 ms after a WRITE that did not end with OK; it is judged anew (R25). -/
def execDeltaWriteReissue (entry : Nat) (s : State) : Host.Outcome State Fault Refusal :=
  let d := s.dev
  match d.fab.entries.find? fun e => e.1 == entry with
  | some (_, e) =>
    match e.owner, e.waitUntil with
    | .delta h i k, some t =>
      let st := d.judgeRemote e.packet.dest
      done s (if !(t ≤ d.now && e.waitFor = 3 && !e.discard) then d
        else if st = stOk then d.reissue entry else d.deltaAnswer entry e h i k st)
    | _, _ => done s d
  | none => done s d

/-- A SEND entry completes (R331): transmission begins to each partner whose site is ENABLED. -/
def Dev.sendDone (d : Dev) (c : Fin 16) (h k : Nat) : Dev :=
  let on := (d.trn.trns[c]).enabled.toList
  d.modEnrol h fun e =>
    { e with
      sendDone := true
      partners := e.partners.map fun p =>
        if on.getD (siteOf p.fid) false && !p.sending.contains k then { p with sending := p.sending ++ [k] } else p }

/-! ### Messages (R332, R333) -/

/-- R333: a DONE for a shard of this device. -/
def Dev.takeDone (d : Dev) (src : Nat) (m : List Byte) : Dev :=
  let h := fieldAt m 8 2
  let k := fieldAt m 0 4
  match d.shard? h, d.enrol? h with
  | some x, some e =>
    if fieldAt m 12 8 ≠ x.coordCheck.toNat then
      d.event x.ctx 0 0x0037 0 (packFields [(0, src), (32, h)])
    else
      match e.partners.findIdx? fun p => p.fid == src with
      | none => d
      | some i =>
        let p := e.partners.getD i { fid := 0, ctx := 0, handle := 0, recv := 0 }
        let l := d.staleOf x.ctx
        if k < e.firstRound || p.seen.contains k then d
        else
          let stale := match e.lastFrozen with
            | some a => decide (k + l ≤ a)
            | none => false
          let d := d.modPartner h i fun p => { p with seen := k :: p.seen }
          if stale then
            let site := siteOf src
            let d := d.modTrn x.ctx fun t => { t with dropped := t.dropped ||| 2 ^ site }
            let d := d.event x.ctx 0 0x0036 0 (packFields [(0, site), (32, k)])
            d.turnoutMessage p 2 k x.coordCheck
          else d.modPartner h i fun p => { p with deltas := insertAsc k p.deltas }
  | _, _ => d

/-- R332: a RELEASE. -/
def Dev.takeRelease (d : Dev) (src : Nat) (m : List Byte) : Dev :=
  let h := fieldAt m 8 2
  match d.enrol? h with
  | none => d
  | some e =>
    match e.partners.findIdx? fun p => p.fid == src with
    | none => d
    | some i => (d.modPartner h i fun p => { p with released := max p.released (fieldAt m 0 4 + 1) }).pushPartner h i

/-- The record of messages with a device. -/
def Dev.peer (d : Dev) (fid : Nat) : TrnPeer := ((d.trn.peers.find? fun e => e.1 == fid).map (·.2)).getD {}

/-- Takes the messages from a device that are next in SEQ order; one for each unit of fuel. -/
def Dev.drainPeer : Nat → Nat → Dev → Dev
  | 0, _, d => d
  | n + 1, src, d =>
    let p := d.peer src
    match p.held.find? fun m => m.1 == p.expected with
    | none => d
    | some m =>
      let p := { p with expected := (p.expected + 1) % 2 ^ 32, held := p.held.filter fun q => q.1 != m.1 }
      let d := { d with trn := { d.trn with peers := insertKey src p d.trn.peers } }
      Dev.drainPeer n src (if m.2.2 then d.takeDone src m.2.1 else d.takeRelease src m.2.1)

/-- Takes what is held for the turnout from a device, unless the turnout is in service (R332). -/
def Dev.serveTurnout (d : Dev) (src : Nat) : Dev :=
  if d.fab.service.toList.getD 2 false then d else Dev.drainPeer (d.peer src).held.length src d

/-- A TC6 message for the turnout (R332, R333). A SEQ already taken is discarded. -/
def Dev.turnoutReceive (d : Dev) (p : Packet) : Dev :=
  let kind := bitsOf p.spec 0 8
  let m := p.data.take 36
  let seq := fieldAt m 4 4
  let r := d.peer p.src
  let known := r.held.any (fun q => q.1 == seq)
    || decide (2 ^ 31 ≤ (seq + 2 ^ 32 - r.expected) % 2 ^ 32)
  if (kind ≠ 1 && kind ≠ 2) || known || d.trn.enrols.all (fun e => e.partners.all fun q => q.fid != p.src) then d
  else
    let r := { r with held := r.held ++ [(seq, m, kind == 1)] }
    ({ d with trn := { d.trn with peers := insertKey p.src r d.trn.peers } }).serveTurnout p.src

/-! ### Freezing (R334) -/

/-- The outstanding APPLY that names a handle in an entry not yet complete. -/
def Dev.applyOf (d : Dev) (h : Nat) : Option (Cmd × Nat) :=
  match d.shard? h with
  | none => none
  | some x =>
    (d.ctx x.ctx).cmds.findSome? fun k =>
      if k.issued && k.entry.opcode == opOuter && bitOf (fieldAt k.args 4 1) 0 && k.ended.isNone && k.failing.isNone then
        ((List.range k.total).find? fun i => k.handle i == h && !k.did.contains i).map (k, ·)
      else none

/-- Whether an APPLY of round `k` need wait no longer. -/
def Dev.mayFreeze (d : Dev) (e : Enrol) (k : Nat) : Bool :=
  d.passed e.sendAt (msNs e.deadlineMs)
    || e.partners.all fun p => !e.sites.contains (siteOf p.fid) || p.deltas.contains k

/-- LATE_SCALE to a power; an overflow is left infinite, so that R336 refuses the APPLY in either mode. -/
def lateWeight (scale : W32) : Nat → W32
  | 0 => 0x3F800000
  | n + 1 => (fpMul .infinity 24 (lateWeight scale n) scale).bits

/-- The contributions present at a freeze of round `k`, as (round, site, partner, weight) in the order of R335; the own SEND
stands after the partners' numbers. -/
def Dev.contributions (d : Dev) (c : Fin 16) (e : Enrol) (k : Nat) : List (Nat × Nat × Nat × W32) :=
  let own := (k, siteOf d.fab.id, e.partners.length, (0x3F800000 : W32))
  let scale := (d.trn.trns[c]).lateScale
  let theirs := (e.partners.zip (List.range e.partners.length)).flatMap fun p =>
    (p.1.deltas.filter fun r => decide (r ≤ k)).map fun r =>
      (r, siteOf p.1.fid, p.2, lateWeight scale (k - r))
  sortBy (fun q => 8 * q.1 + q.2.1) (own :: theirs)

/-- A set of sites as a mask. -/
def siteMask (l : List Nat) : Nat := l.foldl (fun m s => m ||| 2 ^ s) 0

/-- Freezes the contribution set of an APPLY of round `k`. -/
def Dev.freeze (d : Dev) (c : Fin 16) (e : Enrol) (k : Nat) : Dev :=
  let set := d.contributions c e k
  let on := (set.filter fun q => q.1 == k).map (·.2.1)
  let late := set.filter fun q => q.1 != k
  let missing := siteMask (e.sites.filter fun s => !on.contains s)
  let d := d.modEnrol e.handle fun e =>
    { e with
      lastFrozen := some k, frozenSet := some (k, set)
      partners := e.partners.map fun p => { p with deltas := p.deltas.filter fun r => !decide (r ≤ k) } }
  let d := d.modTrn c fun t =>
    { t with missing := missing, late := siteMask (late.map (·.2.1)), isNew := true, round := k }
  let d := if missing = 0 then d else d.event c 0 0x0034 0 (packFields [(0, missing), (32, k)])
  late.foldl (fun d q => d.event c 0 0x0035 0 (packFields [(0, q.2.1), (32, q.1)])) d

/-- An APPLY entry freezes its set when it may and has not; its own SEND is part of the set, so it has completed. -/
def Dev.tryFreeze (d : Dev) (h : Nat) : Dev :=
  match d.applyOf h, d.enrol? h with
  | some (k, _), some e =>
    let r := (outerHead k.args).round
    if (e.frozenSet.map (·.1)) = some r || !e.sendDone || !d.mayFreeze e r then d else d.freeze e.ctx e r
  | _, _ => d

/-- APPLY_FREEZE (R334). -/
def execApplyFreeze (handle : W16) (s : State) : Host.Outcome State Fault Refusal :=
  done s (s.dev.tryFreeze handle.toNat)

/-! ### APPLY (R335, R336) -/

/-- R335 for one element: the new anchor, the new staging weight and the outer momentum; none where R336 applies. Any
overflow shows as a saturation. -/
def applyElem (h : OuterHead) (sites : Nat) (cs : List (W32 × Tally)) (omom : W32) (anchor boundary live : W32) :
    Option (Master × Master × W32) :=
  let add := fpAdd .saturate 24
  let mul := fpMul .saturate 24
  let sum := cs.foldl (fun t q => tally2 add t (q.2.op fun y => mul q.1 y)) (tallyOf 0)
  let dbar := sum.op fun y => fpDiv .saturate 24 y (countFp sites)
  let m := tally2 add ((tallyOf omom).op fun y => mul h.mu y) dbar
  let u := (tally2 add (m.op fun y => mul h.mu y) ⟨dbar.bits, 0⟩).op fun y => mul h.lrO y
  let a := u.op fun y => add anchor y
  let om := toBf16 .saturate m.bits
  match toMaster .saturate a.bits with
  | none => none
  | some na =>
    let step := (tallyOf (masterValue na.w na.r)).op fun y => add y (fpNeg .saturate boundary).bits
    let v := step.op fun y => add live y
    match toMaster .saturate v.bits with
    | none => none
    | some w =>
      if a.sats + v.sats != 0 || na.sat || w.sat || om.sat || isNonFinite om.bits then none
      else some (na, w, om.bits)

/-- Element `o` of a delta at `base`, decoded by R77. -/
def deltaElem (v : View) (base p o : Nat) : Tally :=
  let nib := (byteAt v (base + o / 2)).toNat / (if o % 2 = 0 then 1 else 16) % 16
  let q := blockElem .saturate (byteAt v (base + p / 2 + o / 32)).toNat (signed 4 nib)
  ⟨q.bits, bit q.sat⟩

/-- The result of an APPLY entry: none where it is non-finite (R336). -/
def Dev.computeApply (d : Dev) (c : Fin 16) (k : Cmd) (x : Shard) (e : Enrol) :
    Dev × Except Nat (Option EntryResult) :=
  let h := outerHead k.args
  let l := d.staleOf c
  let p := x.size
  let par := h.round % 2
  let set := (e.frozenSet.map (·.2)).getD []
  let base := fun (q : Nat × Nat × Nat × W32) =>
    if q.2.2.1 = e.partners.length then e.plane p l 7 else e.recv p l q.2.2.1 (q.1 % (l + 1))
  let anchor := e.plane p l par
  let omom := e.plane p l (2 + par)
  let boundary := e.plane p l 6
  match d.readView (x.planeRanges x.liveBase [0, 1, 2, 3, 4] ++ [(anchor, pairBytes p), (omom, 2 * p), (boundary, pairBytes p)]
      ++ set.map fun q => (base q, deltaBytes p)) [] with
  | (d, .error g) => (d, .error g)
  | (d, .ok v) =>
    let value := fun (q : W32 × Int) => masterValue q.1 q.2
    let es := (List.range p).map fun o =>
      applyElem h e.sites.length (set.map fun q => (q.2.2.2, deltaElem v (base q) p o)) (halfOf v (omom + 2 * o))
        (value (pairElem v anchor p o)) (value (pairElem v boundary p o)) (value (x.liveElem v x.liveBase o))
    match allSome es with
    | none => (d, .ok none)
    | some es =>
      let slot := x.stageBase
      let copies := (x.planeRanges x.liveBase [2, 3, 4]).map fun r => (slot + (r.1 - x.liveBase), readCells v r.1 r.2)
      let ws := x.weightWrites slot (es.map fun q => some q.2.1) ++ copies
      (d, .ok (some {
        writes := pairWrites (e.plane p l (1 - par)) p (es.map fun q => (q.1.w, q.1.r))
          ++ [(e.plane p l (3 - par), es.flatMap fun q => toLe 2 (bf16Bits q.2.2).toNat)] ++ d.withWc x slot ws
        sats := 0, gradZero := false, noChange := false }))

/-! ### Enrolment (R326, R337 to R339) -/

/-- Withdraws a handle: its transmission stops and its area is free; message counts with a device end with its last
enrolment. -/
def Dev.withdraw (d : Dev) (h : Nat) : Dev :=
  let d := d.disown fun o => match o with
    | .delta x _ _ => x == h
    | _ => false
  let es := d.trn.enrols.filter fun e => e.handle != h
  let named := fun (fid : Nat) => es.any fun e => e.partners.any fun p => p.fid == fid
  { d with trn := { d.trn with enrols := es, peers := d.trn.peers.filter fun q => named q.1 } }

/-- Withdraws every enrolled shard of a context. -/
def Dev.withdrawAll (d : Dev) (c : Fin 16) : Dev :=
  (d.trn.enrols.filter fun e => e.ctx == c).foldl (fun d e => d.withdraw e.handle) d

end Sys2Proof.Machine
end

