-- ==== Sys2Proof/Machine/UpdateEngines.lean ====
section
/-! DEFINITION. The sixteen update engines: entries of UPDATE and OUTER_ROUND begin, compute, distribute working copies and
complete (R200, R204, R206, R207, R211, R218, R330, R336). -/

namespace Sys2Proof.Machine

open Sys2Proof

/-- The entry that engine `k` runs, with its command. -/
def Dev.entryAt (d : Dev) (k : Nat) : Option (UnitRef × Cmd) :=
  match (d.engine 5 k).units with
  | [] => none
  | u :: _ => ((d.ctx u.ctx).cmd? u.seq).map (u, ·)

/-- Whether an entry may begin: its job has completed (R202) or its set has frozen (R334), and nobody reads the slot that it
writes (R218, R330). SEND writes no slot. -/
def Dev.entryReady (d : Dev) (c : Fin 16) (k : Cmd) (i : Nat) : Bool :=
  let h := k.handle i
  match d.shard? h with
  | none => false
  | some x =>
    let free := !d.pinned h (1 - x.live)
    if k.entry.opcode = opUpdate then d.gradReady c (updateEntry k.args i) && free
    else if (outerHead k.args).apply then
      ((d.enrol? h).bind (·.frozenSet)).any (fun q => q.1 == (outerHead k.args).round) && free
    else true

/-- UPDATE_ENTRY_RUN (R202, R204, R218). -/
def execUpdateEntryRun (k : Fin 16) (s : State) : Host.Outcome State Fault Refusal :=
  let d := s.dev
  match d.entryAt k.val with
  | none => done s d
  | some (u, q) =>
    if u.began || (d.engine 5 k.val).service || !d.entryReady u.ctx q u.idx then done s d
    else
      let start := fun (e : Engine) => { e with
        units := e.units.mapIdx fun i v => if i = 0 then { v with began := true, still := 0 } else v }
      done s (d.modEngine 5 k.val start)

/-- Ends the command of an entry with a status (R173, R211). -/
def Dev.failEntry (d : Dev) (k : Nat) (c : Fin 16) (seq : W32) (idx status addr : Nat) : Dev :=
  let mine : Owner → Bool := fun o => match o with
    | .workCopy _ x s i => x == c && s == seq && i == idx
    | _ => false
  let d := (d.failUnit c seq status addr).modEngine 5 k fun e =>
    { e with units := e.units.filter fun u => !(u.ctx == c && u.seq == seq && u.idx == idx) }
  (d.disown mine).settle c seq

/-- The result of an entry: an uncorrectable read, or an APPLY that R336 ends. -/
def Dev.entryResult (d : Dev) (c : Fin 16) (k : Cmd) (i : Nat) (x : Shard) : Dev × Except (Option Nat) EntryResult :=
  let h := k.handle i
  if k.entry.opcode = opUpdate then
    match d.computeUpdate c k i x with
    | (d, .ok r) => (d, .ok r)
    | (d, .error g) => (d, .error (some g))
  else match d.enrol? h with
    | none => (d, .error none)
    | some e =>
      if (outerHead k.args).apply then
        match d.computeApply c k x e with
        | (d, .ok (some r)) => (d, .ok r)
        | (d, .ok none) => (d, .error none)
        | (d, .error g) => (d, .error (some g))
      else match d.computeSend c k i x e with
        | (d, .ok r) => (d, .ok r)
        | (d, .error g) => (d, .error (some g))

/-- Local ranges that an entry uses. -/
def Dev.entryRanges (d : Dev) (c : Fin 16) (k : Cmd) (i : Nat) (x : Shard) : List (Nat × Nat) :=
  let slots := [(x.slot0, x.slotSize), (x.slot1, x.slotSize)]
  let dests := (k.dests i).filterMap fun a => if d.isOwn a then some (localOf a, x.planes.getD 5 0) else none
  let more := if k.entry.opcode = opUpdate then (d.gradRange c x (updateEntry k.args i)).toList
    else match d.enrol? (k.handle i) with
      | some e => [(e.area, areaBytes x.size e.partners.length (d.staleOf c))]
      | none => []
  slots ++ dests ++ more

/-- Writes the working copy to the destinations on this device. -/
def Dev.localCopies (d : Dev) (wc : List Byte) (dests : List Nat) : Dev × Bool :=
  d.writeAll ((dests.filter d.isOwn).map fun a => (localOf a, wc))

/-- The packets that carry the working copy to other devices, in TC2 (R207). -/
def Dev.copyPackets (d : Dev) (wc : List Byte) (dests : List Nat) : List Packet :=
  (dests.filter fun a => !d.isOwn a).flatMap fun a => writePackets (fidOf a) 2 (localOf a) wc

/-- R336: an APPLY entry that meets a non-finite value is handled as refused at issue. -/
def Dev.applyRefused (d : Dev) (c : Fin 16) (k : Cmd) (h : Nat) : Dev :=
  let d := d.event c 0 0x0039 0 (packFields [(0, h), (32, (outerHead k.args).round)])
  (d.removeUnits c (· == k.entry.seq)).refuse c k.index k.entry.seq k.entry.seq k.entry.opcode stBadArg true

/-- An entry is complete: the shard is STAGED with its flags (R198, R209), or its delta is ready to go (R331). -/
def Dev.finishEntry (d : Dev) (kk : Nat) (u : UnitRef) (k : Cmd) (r : EntryResult) : Dev :=
  let h := k.handle u.idx
  let c := u.ctx
  let d := (d.popUnit 5 kk c).modCmd c k.entry.seq fun q => q.unitDone u.idx
  let d := if k.entry.opcode = opUpdate then
      (d.modShard h fun x => { x with state := .staged, byImport := false, report := some (r.gradZero, r.noChange) })
        |>.noteUpdateOverflow c k r.sats
    else if (outerHead k.args).apply then
      (d.modShard h fun x => { x with state := .staged, byImport := false }).modEnrol h fun e => { e with applyStaged := true }
    else
      let d := (d.sendDone c h (outerHead k.args).round).countSat c k satUpdate r.sats
      if ((d.ctx c).cmd? k.entry.seq).any Cmd.allDone then
        (List.range k.entries).foldl (fun d i => d.modEnrol (k.handle i) fun e => { e with sendWhole := true })
          (d.modTrn c fun t => { t with sent := BitVec.ofNat 32 (outerHead k.args).round }) else d
  (d.settle c k.entry.seq).noteSlow c

/-- Carries an entry on: it writes the staging slot, hands out working copies, and completes when all are written. Running
it again writes the same bits (R204). -/
def Dev.carryEntry (d : Dev) (kk : Nat) (u : UnitRef) (k : Cmd) : Dev :=
  let h := k.handle u.idx
  match d.shard? h with
  | none => d
  | some x =>
    if d.removedIn (d.entryRanges u.ctx k u.idx x) then d.failEntry kk u.ctx u.seq u.idx stNoResource 0 else
    match d.accessBy kk (d.entryRanges u.ctx k u.idx x) with
    | (d, false) => d
    | (d, true) =>
      match d.entryResult u.ctx k u.idx x with
      | (d, .error (some g)) => d.failEntry kk u.ctx u.seq u.idx stUncorrectable g
      | (d, .error none) => d.applyRefused u.ctx k h
      | (d, .ok r) =>
        let bad := fun (d : Dev) (ws : List (Nat × List Byte)) =>
          32 * (((ws.flatMap fun w => granulesOf w.1 w.2.length).find? d.mem.poisoned).getD 0)
        match d.writeAll r.writes with
        | (d, false) => d.failEntry kk u.ctx u.seq u.idx stUncorrectable (bad d r.writes)
        | (d, true) =>
          let dests := k.dests u.idx
          let wc := readCells d.mem.cells (x.stageBase + x.planeOff 5) (x.planes.getD 5 0)
          match d.localCopies wc dests with
          | (d, false) => d.failEntry kk u.ctx u.seq u.idx stUncorrectable 0
          | (d, true) =>
            let ps := d.copyPackets wc dests
            let lost := (ps.map fun p => d.judgeRemote p.dest).find? (· != stOk)
            if answered u.rx ps then d.finishEntry kk u k r
            else match lost with
              | some st => d.failEntry kk u.ctx u.seq u.idx st 0
              | none => d.issueMissing (.workCopy kk u.ctx u.seq u.idx) u.rx ps

/-- UPDATE_ENTRY_COMPLETE (R207, R209, R211). -/
def execUpdateEntryComplete (k : Fin 16) (s : State) : Host.Outcome State Fault Refusal :=
  let d := s.dev
  match d.entryAt k.val with
  | none => done s d
  | some (u, q) => done s (if u.began then d.carryEntry k.val u q else d)

/-- R206: the slow-tier wait has passed the limit: one event for each late controller, and the stall is recorded. -/
def Dev.slowStall (d : Dev) (c : Fin 16) : Dev :=
  let s := d.slc c
  match s.slowSince with
  | none => d
  | some t =>
    if d.upd.limitMs = 0 || s.stallReported || d.now ≤ t + msNs d.upd.limitMs then d else
      let late := d.lateHomes c
      let mask := siteMask (late.map (· - 12))
      let d := late.foldl (fun d h => d.event c 0 0x000B 0 h) d
      let d := { d with upd := { d.upd with
        stallMask := mask, stallCtx := c.val, stallNew := true
        stallWaitMs := satTo 0xFFFFFFFF ((d.now - t) / 1000000) } }
      d.modSlc c fun s =>
        { s with stallReported := true, meters := { s.meters with stalled := true, stallMask := s.meters.stallMask ||| mask } }

/-- SLOW_TIER_STALL (R206). -/
def execSlowTierStall (c : Fin 16) (s : State) : Host.Outcome State Fault Refusal := done s (s.dev.slowStall c)

end Sys2Proof.Machine
end

