-- ==== Sys2Proof/Machine/Messages.lean ====
section
/-! DEFINITION. The sluice's protocol: the ready vote (R235, R239), messages (R237, R240 to R244, R246) and timers (R241,
R243). -/

namespace Sys2Proof.Machine

open Sys2Proof

/-! ### Receiving (R237, R244) -/

/-- How a message's attempt stands to the receiver's own. -/
inductive When where
  | earlier | own | later
  deriving DecidableEq, Repr

/-- The attempt a message names. -/
def Slc.when (s : Slc) (m : SluiceMsg) : When :=
  if attemptLater m.step m.attempt s.step s.attempt then .later
  else if m.step = s.step && m.attempt = s.attempt then .own else .earlier

/-- Whether a message carries the ring's tag and check. -/
def Slc.accepts (s : Slc) (m : SluiceMsg) : Bool := s.isSet && m.tag == s.tag && m.check == s.check

/-- R237: runs `f` on a message that the ring accepts; any other is discarded and an event placed. -/
def Dev.receive (d : Dev) (c : Fin 16) (m : SluiceMsg) (f : Dev → Dev) : Dev :=
  if (d.slc c).accepts m then f d
  else d.eventAt c 0 0x0013 0 m.step (packFields [(0, m.src), (24, 1)])

/-- R244: the own attempt has been decided elsewhere; the device asks at once. The warden asks the deputy. -/
def Dev.askNow (d : Dev) (c : Fin 16) : Dev :=
  let s := d.slc c
  if s.count ≤ 1 then d else d.query c (if s.index = 0 then 1 else 0)

/-! ### The ready vote (R235, R239) -/

/-- R235: every condition of the ready vote. -/
def Dev.readyOk (d : Dev) (c : Fin 16) : Bool :=
  let x := d.ctx c
  let s := d.slc c
  let mine := d.red.jobs.filter fun j => j.ctx == c && j.step == s.step && j.attempt == s.attempt
  s.stepState == .active && s.stepEnded && x.cmds.all (fun k => x.spanPos k.index != some 0) && !s.overflow && s.ownAbort.isNone
    && (d.shardsOf c).all (fun e => !e.2.imported || e.2.state == .staged)
    && mine.all (fun j => j.finished && !j.closed) && (x.state == .running || x.state == .draining)

/-- The requirement map of a member (R295, R296). -/
def Dev.requirements (d : Dev) (c : Fin 16) : List (Nat × Nat) :=
  let s := d.slc c
  (d.red.jobs.filter fun j => j.ctx == c && j.step == s.step && j.attempt == s.attempt).foldl
    (fun t j => if j.requirement = 0xFF then t else insertKey j.job j.requirement t) []

/-- R235, R239: the device marks itself ready. -/
def Dev.markReady (d : Dev) (c : Fin 16) : Dev :=
  let req := d.requirements c
  let began := d.beganAt c
  let held := (d.slc c).token
  let d := d.modSlc c fun s =>
    { s with
      stepState := .voted, frozen := true, readyAt := some d.now, require := req
      meters := { s.meters with readyNs := some (d.now - began) } }
  let s := d.slc c
  if s.index = 0 then
    if s.count ≤ 1 then d.decideCommit c req
    else d.sendMember c 1 msgToken { d.message c with votes := 1, map := req }
  else match held with
    | some m => if s.when m = .own then d.passToken c m else d
    | none => d

/-- READY_MARK (R235). -/
def execReadyMark (c : Fin 16) (s : State) : Host.Outcome State Fault Refusal :=
  done s (if s.dev.readyOk c then s.dev.markReady c else s.dev)

/-- TOKEN (R239, R244, R246). -/
def Dev.takeToken (d : Dev) (c : Fin 16) (m : SluiceMsg) : Dev :=
  let s := d.slc c
  match s.when m with
  | .earlier => d
  | .later => (d.modSlc c fun s => { s with token := some m }).askNow c
  | .own =>
    match s.stepState with
    | .idle => d.modSlc c fun s => { s with token := some m }
    | .active => d.modSlc c fun s => { s with token := some m }
    | .voted => d.passToken c m
    | .inDoubt => d.passToken c m
    | .repeatWait => d

/-- TOKEN. -/
def execToken (c : Fin 16) (m : SluiceMsg) (s : State) : Host.Outcome State Fault Refusal :=
  done s (s.dev.receive c m fun d => d.takeToken c m)

/-! ### Deciding (R240 to R242) -/

/-- ABORT_VOTE at the warden: it decides abort on the first one. -/
def Dev.takeAbortVote (d : Dev) (c : Fin 16) (m : SluiceMsg) : Dev :=
  let s := d.slc c
  if s.index = 0 && s.when m = .own then
    d.decideAbort c m.cause m.status (m.overflow || s.overflow) (BitVec.ofNat 32 m.sender)
  else d

/-- ABORT_VOTE (R240). -/
def execAbortVote (c : Fin 16) (m : SluiceMsg) (s : State) : Host.Outcome State Fault Refusal :=
  done s (s.dev.receive c m fun d => d.takeAbortVote c m)

/-- DECIDE at the deputy (R241): the first outcome that it records is final, and every DECIDE is answered with it. -/
def Dev.takeDecide (d : Dev) (c : Fin 16) (m : SluiceMsg) : Dev :=
  let s := d.slc c
  if s.index ≠ 1 then d else
    match s.record? m.step m.attempt with
    | some r => d.sendMember c 0 msgDecided (d.recordMessage c r)
    | none =>
      match s.when m with
      | .earlier => d
      | .later => d.askNow c
      | .own =>
        let r := recordOf m
        let d := d.keepRecord c r
        (d.sendMember c 0 msgDecided (d.recordMessage c r)).applyRecord c r m.src

/-- DECIDE (R241). -/
def execDecide (c : Fin 16) (m : SluiceMsg) (s : State) : Host.Outcome State Fault Refusal :=
  done s (s.dev.receive c m fun d => d.takeDecide c m)

/-- DECIDED at the warden (R240, R242): it broadcasts and applies the outcome that DECIDED carries. -/
def Dev.takeDecided (d : Dev) (c : Fin 16) (m : SluiceMsg) : Dev :=
  let s := d.slc c
  match s.proposal with
  | none => d
  | some p =>
    if s.index ≠ 0 || p.step ≠ m.step || p.attempt ≠ m.attempt then d else
      let r := recordOf m
      let d := (d.keepRecord c r).modSlc c fun s => { s with proposal := none, deciding := false }
      (d.broadcast c r).applyRecord c r m.src

/-- DECIDED (R240). -/
def execDecided (c : Fin 16) (m : SluiceMsg) (s : State) : Host.Outcome State Fault Refusal :=
  done s (s.dev.receive c m fun d => d.takeDecided c m)

/-- OUTCOME at a member (R243, R244, R246): a commit without an own ready vote is discarded whole. -/
def Dev.takeOutcome (d : Dev) (c : Fin 16) (m : SluiceMsg) : Dev :=
  let s := d.slc c
  match s.when m with
  | .earlier => d
  | .later => d.askNow c
  | .own =>
    let r := recordOf m
    if m.commit && s.stepState ≠ .voted && s.stepState ≠ .inDoubt then d.applyRecord c r m.src else
    let d := if s.index ≤ 1 && (s.record? m.step m.attempt).isNone then d.keepRecord c r else d
    let d := if s.queried then
      d.eventAt c 0 0x0012 0 m.step (packFields [(0, bit m.commit), (1, bit (m.sender == 1)), (32, m.attempt.toNat)]) else d
    d.applyRecord c r m.src

/-- OUTCOME (R246). -/
def execOutcome (c : Fin 16) (m : SluiceMsg) (s : State) : Host.Outcome State Fault Refusal :=
  done s (s.dev.receive c m fun d => d.takeOutcome c m)

/-! ### Queries (R241 to R243) -/

/-- R241: the deputy records abort on its own, with cause 7, and tells every other member. -/
def Dev.selfAbort (d : Dev) (c : Fin 16) : Dev :=
  let s := d.slc c
  let r := s.outcome false s.overflow true 7 stOk (BitVec.allOnes 32) []
  ((d.keepRecord c r).broadcast c r).applyAbort c r

/-- QUERY at the warden or the deputy. One for an earlier attempt that no record is kept of is discarded (R244). -/
def Dev.takeQuery (d : Dev) (c : Fin 16) (m : SluiceMsg) : Dev :=
  let s := d.slc c
  if 1 < s.index || s.count ≤ m.sender then d else
    match s.record? m.step m.attempt with
    | some r => d.sendMember c m.sender msgOutcome (d.recordMessage c r)
    | none =>
      let marked := s.stepState == .voted || s.stepState == .inDoubt
      if s.when m = .earlier then d
      else if s.index = 1 && s.when m = .own && !marked then d.selfAbort c
      else d.sendMember c m.sender msgUndecided { d.message c with step := m.step, attempt := m.attempt }

/-- QUERY (R241, R242). -/
def execQuery (c : Fin 16) (m : SluiceMsg) (s : State) : Host.Outcome State Fault Refusal :=
  done s (s.dev.receive c m fun d => d.takeQuery c m)

/-- UNDECIDED (R243): no outcome yet; the querier goes on asking at its interval. -/
def execUndecided (c : Fin 16) (m : SluiceMsg) (s : State) : Host.Outcome State Fault Refusal :=
  done s (s.dev.receive c m id)

/-! ### Timers (R240, R241, R243) -/

/-- VOTE_MS after the ready mark: the warden decides abort with cause 6; another member moves to IN_DOUBT and queries. -/
def Dev.voteTimeout (d : Dev) (c : Fin 16) : Dev :=
  let s := d.slc c
  match s.readyAt with
  | none => d
  | some t =>
    if s.stepState ≠ .voted || !d.passed t (msNs s.voteNow) then d
    else if s.index = 0 then d.decideAbort c 6 stOk false (BitVec.allOnes 32)
    else
      let d := d.modSlc c fun s =>
        { s with stepState := .inDoubt, queryAt := some (d.now + msNs s.queryNow), queryDeputy := true }
      (d.eventAt c 0 0x0011 0 s.step s.attempt.toNat).query c 0

/-- VOTE_TIMEOUT (R240, R243). -/
def execVoteTimeout (c : Fin 16) (s : State) : Host.Outcome State Fault Refusal := done s (s.dev.voteTimeout c)

/-- Every QUERY_MS a member in doubt, or one that has voted abort, asks the warden and the deputy in turn. The
deputy is such a member: the query to itself does not enter the fabric (R25), and comes to it as any other (R241). -/
def Dev.queryRepeat (d : Dev) (c : Fin 16) : Dev :=
  let s := d.slc c
  match s.queryAt with
  | none => d
  | some t =>
    if (s.stepState ≠ .inDoubt && s.stepState ≠ .repeatWait) || s.index = 0 || d.now < t then d
    else
      let to_ := if s.queryDeputy then 1 else 0
      let d := d.modSlc c fun s =>
        { s with queryAt := some (d.now + msNs s.queryNow), queryDeputy := !s.queryDeputy }
      d.query c to_

/-- QUERY_REPEAT (R243). -/
def execQueryRepeat (c : Fin 16) (s : State) : Host.Outcome State Fault Refusal := done s (s.dev.queryRepeat c)

/-- Every QUERY_MS the warden repeats DECIDE until DECIDED arrives. -/
def Dev.decideRepeat (d : Dev) (c : Fin 16) : Dev :=
  let s := d.slc c
  match s.proposal with
  | none => d
  | some r =>
    if d.now < s.decideAt then d
    else (d.modSlc c fun s => { s with decideAt := d.now + msNs s.queryNow }).sendMember c 1 msgDecide (d.recordMessage c r)

/-- DECIDE_REPEAT (R240). -/
def execDecideRepeat (c : Fin 16) (s : State) : Host.Outcome State Fault Refusal := done s (s.dev.decideRepeat c)

/-- Two VOTE_MS after its ready mark, the deputy with no record decides for itself. -/
def Dev.deputyTimeout (d : Dev) (c : Fin 16) : Dev :=
  let s := d.slc c
  match s.readyAt with
  | none => d
  | some t =>
    if s.index ≠ 1 || (s.record? s.step s.attempt).isSome || !d.passed t (2 * msNs s.voteNow) then d else d.selfAbort c

/-- DEPUTY_SELF_ABORT (R241). -/
def execDeputySelfAbort (c : Fin 16) (s : State) : Host.Outcome State Fault Refusal := done s (s.dev.deputyTimeout c)

end Sys2Proof.Machine
end

