-- ==== Sys2Proof/Machine/Meter.lean ====
section
/-! DEFINITION. The watermaster's register, log and boot marker (R463, R464, R469, R470), which the tick, the readings and the
I3C commands share (log 23). -/

namespace Sys2Proof.Machine

open Sys2Proof

/-- 1 mWh in the residue's unit of 100 nJ. -/
def mwhUnits : Nat := 36000000

/-- Energy arrives, in units of 100 nJ: the residue is carried forward (R463). -/
def Meter.add (m : Meter) (units : Nat) : Meter :=
  let r := m.residue + units
  { m with energyMwh := m.energyMwh + r / mwhUnits, residue := r % mwhUnits }

/-- A reading of `mw` stands for 100 µs. Below 2 W nothing is registered; outside 20 W to 2,000 W the next record says so
(R464, R473). -/
def Meter.register (m : Meter) (mw : Nat) : Meter :=
  let m := { m with
    copySum := m.copySum + mw, copyCount := m.copyCount + 1
    rangeFlag := m.rangeFlag || decide (mw < 20000) || decide (2000000 < mw) }
  if mw < 2000 then m else m.add mw

/-- Operating seconds (R465). -/
def Meter.opSeconds (m : Meter) : Nat := m.opNs / 1000000000

/-- MEC and the metrological log rise in one flash write (R469). -/
def Meter.logged (m : Meter) (kind old new : Nat) (digest : List Byte) : Meter :=
  let e := toLe 4 (m.mec + 1) ++ toLe 1 kind ++ toLe 3 0 ++ toLe 8 m.energyMwh ++ toLe 8 m.opSeconds ++ toLe 4 old ++ toLe 4 new
    ++ digest
  { m with mec := m.mec + 1, log := m.log ++ [e] }

/-- Stores register and residue (R474). -/
def Meter.store (m : Meter) : Meter := { m with storedEnergy := m.energyMwh, storedResidue := m.residue, storedAt := m.opNs }

/-- The boot marker of a verified image is written with its log entry and MEC; the register is stored, and the meter restarts in
the new image (R470). -/
def Meter.bootMarker (m : Meter) (image : List Byte) : Meter :=
  let version := fieldAt image 8 4
  let m := (m.logged 1 m.fwVersion version (sha384 image)).store
  { m with
    slot := 1 - m.slot, otherImage := m.runImage, runImage := image, fwVersion := version, runSvn := fieldAt image 12 1
    committing := none, answering := false, staging := [] }

/-- A tick of time for a meter that has power: operating time counts, and a commit that has been verified gets its boot marker
(DESIGN CHOICE, log 23). -/
def Dev.meterTick (d : Dev) : Dev :=
  if !d.meter.powered then d
  else
    let m := { d.meter with opNs := d.meter.opNs + 1 }
    match m.committing with
    | none => { d with meter := m }
    | some image => { d with meter := m.bootMarker image, out := d.out ++ [.i3c 0 []] }

end Sys2Proof.Machine
end

