-- ==== Sys2Proof/Machine/Headgate.lean ====
section
/-! DEFINITION. The headgate (R362 to R379): power readings, the two limits, quadrant targets, parking, heat, droops, and
its choice among ready commands (R371, R343). The projection by which R367 picks the common target is not given: it is a free
value (log 17). -/

namespace Sys2Proof.Machine

open Sys2Proof

/-! ### Readings (R363, R370, R377) -/

/-- The sum in mW of the readings since `t`; each stands for 100 µs, which is 100 nJ for each mW. -/
def Hg.sumSince (h : Hg) (t : Nat) : Nat :=
  h.readings.foldl (fun n r => if t ≤ r.1 then n + r.2 else n) 0

/-- A power reading joins the list, of which 60 s are kept, the longest interval of R362. -/
def Hg.note (h : Hg) (now mw : Nat) : Hg :=
  { h with readings := (now, mw) :: h.readings.filter fun r => now < r.1 + msNs 60000 }

/-- Mean power of the last 1 ms in mW. -/
def Hg.meanMs (h : Hg) (now : Nat) : Nat := h.sumSince (now + 1 - msNs 1) / 10

/-- P_A × T_A in nJ. -/
def Hg.limitNj (h : Hg) : Nat := h.watts * h.intervalMs * 1000000

/-- Energy used in the current interval in nJ: the last T_A, which ends with the present control period (DEDUCED, log 17). -/
def Hg.usedNj (h : Hg) (now : Nat) : Nat := 100 * h.sumSince (now + usNs 100 - msNs h.intervalMs)

/-- Energy left in the current interval in nJ. -/
def Hg.remainNj (h : Hg) (now : Nat) : Nat := h.limitNj - h.usedNj now

/-- Mean power over the current interval in mW. -/
def Hg.meanInterval (h : Hg) (now : Nat) : Nat := h.usedNj now / (h.intervalMs * 1000)

/-- The package ceiling in mW (R363). -/
def ceilingMw : Nat := 1800000

/-- The 1 ms ceiling binds: within 5 % of it (R370). -/
def Hg.nearCeiling (h : Hg) (now : Nat) : Bool := decide (ceilingMw * 95 / 100 < h.meanMs now)

/-- R370. -/
def Hg.isTight (h : Hg) (now : Nat) : Bool :=
  decide (h.limitNj < h.usedNj now + 100 * h.meanMs now) || h.nearCeiling now

/-- The energy of the interval exceeds the allotment. -/
def Hg.overAllotment (h : Hg) (now : Nat) : Bool := decide (h.limitNj < h.usedNj now)

/-- A limit of R363 is exceeded. -/
def Hg.exceeded (h : Hg) (now : Nat) : Bool := h.overAllotment now || decide (ceilingMw < h.meanMs now)

/-- Whether a quadrant in admission hold may be given a unit: the last 1 ms is below the limit concerned (R373). -/
def Hg.admits (h : Hg) (x : Quad) (now : Nat) : Bool :=
  decide (h.meanMs now < if x.heldAllot then 1000 * h.watts else ceilingMw)

/-- HG_POWER shows whether the headgate is tight, and whether the ceiling binds (R370). -/
def Hg.judge (h : Hg) (now : Nat) : Hg := { h with tight := h.isTight now, ceiling := h.nearCeiling now }

/-- Whether 100 µs have passed since the last event of a kind (R366, R377). -/
def Dev.due100 (d : Dev) (last : Option Nat) : Bool :=
  match last with
  | none => true
  | some t => d.passed t (usNs 100)

/-- Places a headgate event, at most one of a type in 100 ms (R379). -/
def Dev.headgateEvent (d : Dev) (i detail : Nat) : Dev :=
  let early := match d.hg.eventAt.toList.getD i none with
    | some t => !d.passed t (msNs 100)
    | none => false
  if early then d else
    ({ d with hg := { d.hg with eventAt := modVec d.hg.eventAt i fun _ => some d.now } }).eventAllNoStep (0x40 + i) detail

/-! ### Quadrants (R366 to R369, R373 to R375) -/

/-- The quadrant of an engine instance of classes 1 to 4 (R36, R60, R104, R147). -/
def quadrantOf (cls inst : Nat) : Nat := if cls = 1 then inst / 16 else if cls = 2 then inst else inst / 4

/-- Whether a quadrant is busy (R367). -/
def Dev.busy (d : Dev) (q : Nat) : Bool :=
  allEngines.any fun e => decide (e.1 < 5) && quadrantOf e.1 e.2 == q && !(d.engine e.1 e.2).units.isEmpty

/-- Whether a power over the present control period keeps both limits of R363: the energy of the last T_A and the mean of the
last 1 ms, as both stand at the period's end. -/
def Hg.keeps (h : Hg) (now mw : Nat) : Bool :=
  decide (h.usedNj now + 100 * mw ≤ h.limitNj)
    && decide (h.sumSince (now + usNs 100 + 1 - msNs 1) + mw ≤ 10 * ceilingMw)

/-- The highest target from 550 mV to the cap whose projected power keeps both limits, or 550 mV (R366, R367). -/
def Hg.commonTarget (h : Hg) (now : Nat) (projected : Nat → Nat) : Nat :=
  (((List.range ((h.vmaxCap - 550) / 5 + 1)).reverse.map fun i => 550 + 5 * i).find? fun mv => h.keeps now (projected mv)).getD 550

/-- The common target of R367 with a projection that the manual does not define (log 17). -/
def Dev.drawTarget (d : Dev) : Nat × Dev :=
  let (n, d) := d.draw
  (d.hg.commonTarget d.now (Config.projectedMw n), d)

/-- A quadrant's target and heat flag after a control period: `common` is the target of the busy ones (R366 to R368,
R374). -/
def Quad.steer (x : Quad) (h : Hg) (busy anyBusy : Bool) (common : Nat) : Quad :=
  let want := if busy || (!h.parkEn && anyBusy) then common else min x.target h.vmaxCap
  let want := if h.inDroop || (x.parked && !busy) then 550 else want
  if h.tjLimit ≤ x.tj then { x with target := max 550 (min want (x.target - 25)), thermal := true }
  else if h.tjLimit ≤ x.tj + 2 && x.target < want then { x with thermal := true }
  else { x with target := want, thermal := false }

/-- R373, R374: whether a quadrant stands in admission hold after a control period. -/
def Quad.hold (x : Quad) (h : Hg) (busy tooMuch : Bool) : Bool :=
  x.target == 550 && (x.held || (busy && tooMuch) || decide (h.tjLimit + 5 ≤ x.tj))

/-- VIN12 power in mW from the input currents of all regulators (R377). -/
def sensedMw (r : Sensors) : Nat := r.inputMa.foldl (· + ·) 0 * r.vinMv / 1000

/-- Bits of the quadrants that `p` selects. -/
def quadMask (p : Fin 4 → Bool) : Nat := (List.finRange 4).foldl (fun m q => if p q then m + 2 ^ q.val else m) 0

/-- One control period (R364, R366, R367, R370, R373, R374, R377). -/
def Dev.newPeriod (d : Dev) (r : Sensors) : Dev :=
  let now := d.now
  let h := d.hg
  let h := match h.pending with
    | some a => { h with watts := a.1, intervalMs := a.2, pending := none }
    | none => h
  let h := if h.meterLost then h.note now (sensedMw r + sensedMw r / 10) else h
  let seen := Vector.ofFn fun q : Fin 4 =>
    { h.quads[q] with actual := r.actualMv[q], tj := r.tj[q], current := r.current[q] }
  let (common, d) := { d with hg := { h with quads := seen } }.drawTarget
  let anyBusy := (List.range 4).any d.busy
  let steered := seen.mapFinIdx fun q x _ => x.steer h (d.busy q) anyBusy common
  let low := (List.finRange 4).all fun q => !d.busy q.val || (steered[q]).target == 550
  let tooMuch := low && h.exceeded now
  let quads := steered.mapFinIdx fun q x _ => 
    { x with held := x.hold h (d.busy q) tooMuch, heldAllot := if x.held then x.heldAllot else h.overAllotment now }
  let d := { d with hg := { h with quads := quads, periodAt := some now }.judge now }
  let d := if (List.finRange 4).any (fun q => (quads[q]).held && !(h.quads[q]).held) then
      d.headgateEvent 0 (packFields [(0, quadMask fun q => (quads[q]).held), (16, h.meanMs now / 1000)]) else d
  if (List.finRange 4).any (fun q => (quads[q]).thermal && !(h.quads[q]).thermal) then
    let hottest := r.tj.toList.foldl max 0
    d.headgateEvent 2 (packFields [(0, quadMask fun q => (quads[q]).thermal), (8, hottest % 256)]) else d

/-- The control period that has begun, once in 100 µs (R366, log 4). -/
def Dev.controlPeriod (d : Dev) (r : Sensors) : Dev := if d.due100 d.hg.periodAt then d.newPeriod r else d

/-- CONTROL_PERIOD (R367). -/
def execControlPeriod (r : Sensors) (s : State) : Host.Outcome State Fault Refusal := done s (s.dev.controlPeriod r)

/-- Changes one quadrant. -/
def Dev.modQuad (d : Dev) (q : Nat) (f : Quad → Quad) : Dev := { d with hg := { d.hg with quads := modVec d.hg.quads q f } }

/-- QUADRANT_PARK (R368). -/
def execQuadrantPark (q : Fin 4) (s : State) : Host.Outcome State Fault Refusal :=
  let d := s.dev
  let x := d.hg.quads[q]
  if !d.hg.parkEn || d.busy q.val || !d.passed x.releasedAt (usNs 20) then done s d
  else done s (d.modQuad q.val fun x => { x with parked := true, target := 550 })

/-! ### The meter and the supply (R375, R377) -/

/-- The meter registers 100 µs at a power and reads it to the headgate, once in 100 µs (R377, R463, log 4). One that is off or
restarts sends none. -/
def Dev.meterReading (d : Dev) (mw : Nat) : Dev :=
  if !d.meter.powered || !d.meter.answering || !d.due100 d.hg.meterAt then d
  else
    let lost := d.hg.meterLost
    let d := { d with
      hg := { d.hg.note d.now mw with readingAt := d.now, meterAt := some d.now, meterLost := false }.judge d.now
      meter := d.meter.register mw }
    if lost then d.headgateEvent 1 0 else d

/-- METER_READING (R377, R463). -/
def execMeterReading (mw : Nat) (s : State) : Host.Outcome State Fault Refusal := done s (s.dev.meterReading mw)

/-- METER_LOST (R377). -/
def execMeterLost (s : State) : Host.Outcome State Fault Refusal :=
  let d := s.dev
  if d.hg.meterLost || !d.passed d.hg.readingAt (msNs 10) then done s d
  else done s (({ d with hg := { d.hg with meterLost := true } }).headgateEvent 1 1)

/-- R375: VIN12 reads `mv`. -/
def Hg.supply (h : Hg) (now mv : Nat) : Hg :=
  if h.droopMv ≤ mv then h
  else if h.inDroop then { h with droopLow := min h.droopLow mv, droopSince := now }
  else
    { h with
      inDroop := true, droopLow := mv, droopSince := now, droopCount := satTo 0xFFFF (h.droopCount + 1)
      quads := h.quads.map fun x => { x with target := 550 } }

/-- VIN12_DROOP (R375). -/
def execVin12Droop (mv : Nat) (s : State) : Host.Outcome State Fault Refusal :=
  done s { s.dev with hg := s.dev.hg.supply s.dev.now mv }

/-- DROOP_END (R375): 1 ms without a reading below the threshold. -/
def execDroopEnd (s : State) : Host.Outcome State Fault Refusal :=
  let d := s.dev
  if d.hg.inDroop && d.passed d.hg.droopSince (msNs 1) then
    done s (({ d with hg := { d.hg with inDroop := false } }).headgateEvent 3 (satTo 0xFFFF d.hg.droopLow))
  else done s d

/-! ### The choice among ready commands (R343, R371, R372) -/

/-- R343: the ready commands of which no ready command of the same context has an earlier group. -/
def groupFirst (ks : List (Fin 16 × Cmd)) : List (Fin 16 × Cmd) :=
  ks.filter fun a => match a.2.group with
    | none => true
    | some g => ks.all fun b => b.1 != a.1 || b.2.step != a.2.step || match b.2.group with
      | none => true
      | some h => decide (g ≤ h)

/-- Whether a command has been ready for MAX_DEFER_US (R371). -/
def Dev.deferExpired (d : Dev) (k : Cmd) : Bool :=
  match k.readyAt with
  | some t => d.passed t (usNs d.hg.maxDeferUs)
  | none => false

/-- Whether a command fits (R371): its estimate is 0 or within the energy left; culverts, update engines and reduction adders
are not held back (R372). -/
def Dev.fits (d : Dev) (k : Cmd) : Bool :=
  k.entry.energy == 0 || decide (1000 * k.entry.energy ≤ d.hg.remainNj d.now)
    || [4, 5, 6].contains (engineOf k.entry.opcode) || d.deferExpired k

/-- Age, then context, then SEQ, as one number (R371). -/
def orderKey (a : Fin 16 × Cmd) : Nat := ((a.2.readyAt.getD 0) * 16 + a.1.val) * 2 ^ 32 + a.2.entry.seq.toNat

/-- The ready commands among which the headgate chooses the oldest: where it is tight and some fit, those (R371). -/
def Dev.pool (d : Dev) (ks : List (Fin 16 × Cmd)) : List (Fin 16 × Cmd) :=
  let ks := groupFirst ks
  let fit := if d.hg.tight then ks.filter fun a => d.fits a.2 else ks
  if fit.isEmpty then ks else fit

/-- The headgate's present choice among ready commands. -/
def Dev.choose (d : Dev) (ks : List (Fin 16 × Cmd)) : Option (Fin 16 × Cmd) := leastBy orderKey (d.pool ks)

/-- The commands passed over for a choice are deferred (R371, HG_DEFER): older ones that do not fit. -/
def Dev.deferOthers (d : Dev) (ks : List (Fin 16 × Cmd)) (a : Fin 16 × Cmd) : Dev :=
  if !d.hg.tight then d else
    let passed := (groupFirst ks).filter fun b => decide (orderKey b < orderKey a) && !d.fits b.2 && !b.2.deferred
    let d := passed.foldl (fun d b => d.modCmd b.1 b.2.entry.seq fun k => { k with deferred := true }) d
    { d with hg := { d.hg with deferrals := satTo 0xFFFFFFFF (d.hg.deferrals + passed.length) } }

/-- A deferred command issues at the end of its deferral (HG_DEFER.FORCED). -/
def Dev.countForced (d : Dev) (k : Cmd) : Dev :=
  if k.deferred && d.deferExpired k then { d with hg := { d.hg with forced := satTo 0xFFFFFFFF (d.hg.forced + 1) } } else d

end Sys2Proof.Machine
end

