-- ==== Sys2Proof/Machine/Stage.lean ====
section
/-! DEFINITION. READY messages and receives of STAGE_SEND (R346, R347). -/

namespace Sys2Proof.Machine

open Sys2Proof

/-- Whether a READY answers a receive (R347). -/
def readyMatches (m : ReadyMsg) (x : StageArgs) (k : Cmd) (s : Slc) : Bool :=
  m.channel.toNat == x.channel && k.step == some m.step && m.step == s.step && m.attempt == s.attempt
    && m.micro == k.entry.micro && m.phase == k.entry.phase && m.senderFid == x.peer && m.senderCtx == x.peerCtx

/-- The READY messages held for a context. -/
def Dev.readyTable (d : Dev) (c : Fin 16) : List ReadyMsg := d.sip.ready[c]

/-- Sets the READY messages held for a context. -/
def Dev.setReady (d : Dev) (c : Fin 16) (l : List ReadyMsg) : Dev := { d with sip := { d.sip with ready := d.sip.ready.set c l } }

/-- Removes the first of equal messages. -/
def dropReady (m : ReadyMsg) : List ReadyMsg → List ReadyMsg
  | [] => []
  | q :: r => if q = m then r else q :: dropReady m r

/-- R347: an issued receive completes with a READY that matches it; one of another length ends it with BAD_ARG. -/
def Dev.tryReceive (d : Dev) (c : Fin 16) (seq : W32) : Dev :=
  match (d.ctx c).cmd? seq with
  | none => d
  | some k =>
    match stageArgs k.args with
    | none => d
    | some x =>
      if !k.issued || k.ended.isSome || k.entry.opcode ≠ opStage || !x.receive then d else
        match (d.readyTable c).find? fun m => readyMatches m x k (d.slc c) with
        | none => d
        | some m =>
          let d := d.setReady c (dropReady m (d.readyTable c))
          let d := d.modMeters c fun t => { t with recvNs := t.recvNs + (d.now - k.waitSince) }
          if m.bytes = x.bytes then (d.modCmd c seq fun k => k.unitDone 0).finishCmd c seq
          else d.failCmd c seq stBadArg

/-- Tries every receive of a context. -/
def Dev.tryReceives (d : Dev) (c : Fin 16) : Dev :=
  ((d.ctx c).cmds.map fun k => k.entry.seq).foldl (fun d s => d.tryReceive c s) d

/-- R346: a READY arrives. -/
def Dev.takeReady (d : Dev) (c : Fin 16) (m : ReadyMsg) : Dev :=
  let s := d.slc c
  if s.past m then d else
    let held := d.readyTable c
    if 64 ≤ held.length then d.event c 0 0x000E 0 (packFields [(0, m.channel.toNat), (32, m.senderFid)])
    else
      let d := d.setReady c (held ++ [m])
      if attemptLater m.step m.attempt s.step s.attempt then
        d.askNow c
      else d.tryReceives c

/-- READY (R346). -/
def execReady (c : Fin 16) (m : ReadyMsg) (s : State) : Host.Outcome State Fault Refusal := done s (s.dev.takeReady c m)

/-- A READY from the payload slot of its message (R345). -/
def readyOf (bs : List Byte) : ReadyMsg where
  channel := BitVec.ofNat 32 (fieldAt bs 0 4)
  step := BitVec.ofNat 64 (fieldAt bs 4 8)
  attempt := BitVec.ofNat 32 (fieldAt bs 12 4)
  bytes := fieldAt bs 16 8
  micro := fieldAt bs 24 1
  phase := fieldAt bs 25 1
  senderFid := fieldAt bs 28 4 % 2 ^ 20
  senderCtx := fieldAt bs 28 4 / 2 ^ 20 % 16

end Sys2Proof.Machine
end

