-- ==== Sys2Proof/Machine/Issue.lean ====
section
/-! DEFINITION. Issue: when a command may issue (R167, R174 to R179, R233, R234, R342, R349), what each opcode is judged by
at issue, and what its issue does. -/

namespace Sys2Proof.Machine

open Sys2Proof

/-! ### When a command may issue -/

/-- R342: no command of group g - 2 or before of its step is outstanding. -/
def Ctx.windowOpen (x : Ctx) (k : Cmd) : Bool :=
  match k.group with
  | none => true
  | some g => x.cmds.all fun q => q.step != k.step || match q.group with
    | some h => decide (g < h + 2)
    | none => true

/-- Whether a MOVE has both sides on this device, from its block as it stands (R176). -/
def Dev.localMove (d : Dev) (k : Cmd) : Bool :=
  k.entry.opcode == opMove && (moveArgs (d.blockOf k)).any fun x => d.isOwn x.src && d.isOwn x.dst

/-- R176, R233: what may issue of the next step while the outcome of this one is awaited. -/
def Dev.maySpeculate (d : Dev) (c : Fin 16) (k : Cmd) (sp : StepSpan) : Bool :=
  let x := d.ctx c
  let s := d.slc c
  let waits := s.stepState == .voted || s.stepState == .inDoubt
  if !waits || x.runahead = 0 || k.entry.noSpec || x.holdPending then false
  else if k.entry.seq = sp.beginSeq then !sp.outer && !sp.begun && !d.residual c
  else if !sp.begun then false
  else if x.runahead = 1 || s.outer then d.localMove k
  else speculable k.entry.opcode (d.localMove k)

/-- Whether the step that a command lies in lets it issue (R175, R234, R245). -/
def Dev.stepAllows (d : Dev) (c : Fin 16) (k : Cmd) : Bool :=
  let x := d.ctx c
  let s := d.slc c
  match x.spanPos k.index with
  | none => true
  | some 0 =>
    (x.steps.head?).any fun sp =>
      if sp.begun then s.stepState == .active
      else (s.stepState == .idle || s.stepState == .active) && k.entry.seq == sp.beginSeq && !d.residual c
  | some 1 => (x.steps[1]?).any fun sp => d.maySpeculate c k sp
  | some _ => false

/-- R179: while a hold is pending, only what is read up to the end of the step in flight issues. -/
def Dev.holdAllows (d : Dev) (c : Fin 16) (k : Cmd) : Bool :=
  let x := d.ctx c
  !x.holdPending || (d.stepOpen c && (x.steps.head?).any fun sp => sp.has k.index || seqBefore k.entry.seq sp.beginSeq)

/-- R349: no WRITE of the same CHANNEL of an earlier attempt is still unanswered. -/
def Dev.channelFree (d : Dev) (c : Fin 16) (k : Cmd) : Bool :=
  k.entry.opcode != opStage || match stageArgs (d.blockOf k) with
    | none => true
    | some x => x.receive || d.fab.entries.all fun e => match e.2.owner with
      | .stage y _ _ ch => !(e.2.discard && y == c && ch == x.channel)
      | _ => true

/-- Whether an outstanding command may issue now: it is ready (R167). -/
def Dev.canIssue (d : Dev) (c : Fin 16) (k : Cmd) : Bool :=
  let x := d.ctx c
  x.state == .running && !k.issued && k.ended.isNone && k.withheld.isNone && waitMet x.lastSeq k.entry.wait
    && d.stepAllows c k && d.holdAllows c k && x.windowOpen k && d.channelFree c k
    && (k.entry.opcode != opStepEnd || k.step.isNone
      || x.cmds.all fun q => q.step != k.step || !seqBefore q.entry.seq k.entry.seq)

/-- Notes since when each outstanding command has been ready (R371). -/
def Dev.noteReady (d : Dev) : Dev :=
  let mark := fun (e : Dev) (c : Fin 16) (k : Cmd) =>
    if k.issued then k
    else if e.canIssue c k then { k with readyAt := some (k.readyAt.getD e.now) }
    else { k with readyAt := none }
  allCtx.foldl (fun d c => d.modCtx c fun x => { x with cmds := x.cmds.map (mark d c) }) d

/-- The commands that are ready. -/
def Dev.readyCmds (d : Dev) : List (Fin 16 × Cmd) :=
  allCtx.flatMap fun c => ((d.ctx c).cmds.filter fun k => !k.issued && k.readyAt.isSome).map (c, ·)

/-! ### Judging at issue (R162, R172, R174) -/

/-- What a command is found to be at issue: refused, waiting for memory that it must read first, or good, with its units and
the lists it reads. -/
inductive Verdict where
  | refuse (status : Nat)
  | wait
  | go (total : Nat) (lists : List Nat)
  deriving DecidableEq, Repr

/-- A verdict from a status. -/
def verdictOf (st total : Nat) (lists : List Nat) : Verdict := if st = stOk then .go total lists else .refuse st

/-- ARRAY_OP (R38 to R40). -/
def Dev.judgeArray (d : Dev) (c : Fin 16) (k : Cmd) : Dev × Verdict :=
  (d, match arrayArgs k.args with
  | none => .refuse stBadArg
  | some x => verdictOf (x.check (d.ctx c).mode) x.tiles [])

/-- FLUME_OP (R61). -/
def Dev.judgeFlume (d : Dev) (c : Fin 16) (k : Cmd) : Dev × Verdict :=
  (d, match arrayArgs k.args with
  | none => .refuse stBadArg
  | some x => verdictOf (x.checkFlume (d.ctx c).mode) x.m [])

/-- VECTOR_OP (R105 to R108). -/
def Dev.judgeVector (d : Dev) (c : Fin 16) (k : Cmd) : Dev × Verdict :=
  match vecArgs k.args with
  | none => (d, .refuse stBadArg)
  | some x =>
    let (d, st) := d.checkVector x (d.ctx c).mode
    (d, verdictOf st x.m [])

/-- MOVE (R148, R149). -/
def Dev.judgeMove (d : Dev) (k : Cmd) : Dev × Verdict :=
  (d, match moveArgs k.args with
  | none => .refuse stBadArg
  | some x => verdictOf (d.checkMove x) x.pieces [])

/-- REDUCE (R285, R286): the member list is read. -/
def Dev.judgeReduce (d : Dev) (c : Fin 16) (k : Cmd) : Dev × Verdict :=
  match reduceArgs k.args with
  | none => (d, .refuse stBadArg)
  | some x =>
    let n := 4 * x.count
    let st := if fidOf x.list ≠ 0 then stBadArg else d.slowStatus x.list n
    if k.step.isNone then (d, .refuse stBadArg)
    else if st ≠ stOk then (d, .refuse st)
    else match d.access [(x.list, n)] with
      | (d, false) => (d, .wait)
      | (d, true) =>
        match d.readBytes srcWork x.list n with
        | (d, none) => (d, .refuse stUncorrectable)
        | (d, some bs) =>
          let lists := (List.range x.count).map fun i => fieldAt bs (4 * i) 4
          let k := { k with lists := lists }
          (d, verdictOf (d.checkReduce c k x) (d.jobOf c k x).units lists)

/-- The destination lists of a command of class 5 are read and judged (R201, R329). -/
def Dev.judgeLists (d : Dev) (k : Cmd) : Dev × Verdict :=
  let is := List.range k.entries
  match d.access ((is.filter fun i => k.ndest i != 0).map fun i => (localOf (k.destList i), 8 * k.ndest i)) with
  | (d, false) => (d, .wait)
  | (d, true) =>
    match Dev.readDests k is d with
    | (d, none) => (d, .refuse stUncorrectable)
    | (d, some lists) => (d, verdictOf (d.checkDests { k with lists := lists }) k.entries lists)

/-- UPDATE (R201). -/
def Dev.judgeUpdate (d : Dev) (c : Fin 16) (k : Cmd) : Dev × Verdict :=
  let st := d.checkUpdate c k
  if st ≠ stOk then (d, .refuse st) else d.judgeLists k

/-- OUTER_ROUND (R329). SEND notes the slot that is live for each entry. -/
def Dev.judgeOuter (d : Dev) (c : Fin 16) (k : Cmd) : Dev × Verdict :=
  let st := d.checkOuter c k
  if st ≠ stOk then (d, .refuse st)
  else if (outerHead k.args).apply then d.judgeLists k
  else (d, .go k.entries ((List.range k.entries).map fun i => ((d.shard? (k.handle i)).map (·.live)).getD 0))

/-- SHARD_EXPORT (R218). -/
def Dev.judgeExport (d : Dev) (c : Fin 16) (k : Cmd) : Dev × Verdict :=
  (d, match exportArgs k.args with
  | none => .refuse stBadArg
  | some x =>
    match d.shard? x.handle with
    | none => .refuse stBadArg
    | some s => verdictOf (d.checkExport c x) (payloadPieces (s.payloadLen x.set)) [s.live, s.step.toNat])

/-- Bytes [a, a + n) that an import reads at issue, from this device or over the fabric; the answer is none while they are on
their way. A device that cannot be reached ends it with the status. -/
def Dev.fetchBytes (d : Dev) (c : Fin 16) (k : Cmd) (src a n tc : Nat) : Dev × Except Nat (Option (List Byte)) :=
  if d.isOwn src then
    match d.access [(a, n)] with
    | (d, false) => (d, .ok none)
    | (d, true) =>
      match d.readBytes srcWork a n with
      | (d, none) => (d, .error stUncorrectable)
      | (d, some bs) => (d, .ok (some bs))
  else
    let st := d.judgeRemote (fidOf src)
    let ps := readPackets (fidOf src) tc [(a, n)]
    if st ≠ stOk then (d, .error st)
    else if answered k.fetched ps then (d, .ok (some (readCells (viewOf k.fetched) a n)))
    else (d.issueMissing (.fetch c k.entry.seq) k.fetched ps, .ok none)

/-- SHARD_IMPORT (R215, R219, R222): the descriptor, then the whole payload, its digest and the weights it holds. -/
def Dev.judgeImport (d : Dev) (c : Fin 16) (k : Cmd) : Dev × Verdict :=
  match importArgs k.args with
  | none => (d, .refuse stBadArg)
  | some (h, src, tc) =>
    match d.shard? h with
    | none => (d, .refuse stBadArg)
    | some x =>
      let a := localOf src
      let st := d.sideStatus (d.isOwn src) [(a, 128)]
      if x.ctx ≠ c then (d, .refuse stBadArg)
      else if x.lost then (d, .refuse stNoResource)
      else if st ≠ stOk then (d, .refuse st)
      else match d.fetchBytes c k src a 128 tc with
        | (d, .error st) => (d, .refuse st)
        | (d, .ok none) => (d, .wait)
        | (d, .ok (some head)) =>
          match descriptorOf head with
          | none => (d, .refuse stBadArg)
          | some g =>
            let st := d.checkSource c h k.step.isSome x g
            let place := d.sideStatus (d.isOwn src) [(a + 128, g.len)]
            if st ≠ stOk then (d, .refuse st)
            else if place ≠ stOk then (d, .refuse place)
            else match d.fetchBytes c k src (a + 128) g.len tc with
              | (d, .error st) => (d, .refuse st)
              | (d, .ok none) => (d, .wait)
              | (d, .ok (some bs)) =>
                if sha384 bs ≠ g.digest then (d, .refuse stAuthFail)
                else if evdRefused g bs then (d, .refuse stBadArg)
                else (d, .go (payloadPieces g.len) (head.map (·.toNat)))

/-- SIPHON_SAVE (R353). -/
def Dev.judgeSave (d : Dev) (k : Cmd) : Dev × Verdict :=
  (d, match siphonArgs false k.args with
  | none => .refuse stBadArg
  | some x =>
    let st := if !inReservoir x.src x.srcBytes || fidOf x.dst ≠ 0 || x.dstLen < 64 + x.recordBytes then stBadArg
      else d.slowStatus x.dst (64 + x.recordBytes)
    verdictOf st x.rows [])

/-- R354: an OUT_FMT that a load's mode does not allow. The code 3, which is not listed, is not SRC_FMT either. -/
def SiphonArgs.loadFmtBad (x : SiphonArgs) : Bool :=
  x.out == 3 || (x.out == 2 && (x.mode == 0 || x.mode == 3)) || (x.mode == 0 && x.out != bit x.srcBf16)

/-- A refused load is written to SIP_LAST_REFUSAL (R354). -/
def Dev.refuseLoad (d : Dev) (c : Fin 16) (k : Cmd) (f : Nat) : Dev :=
  { d with sip := { d.sip with ctx := c.val, field := f, isNew := true, seq := k.entry.seq } }

/-- R354: the first field of a saved record's header that does not fit a load, by its code in SIP_LAST_REFUSAL; 0 when all
fit. -/
def Dev.headerFault (d : Dev) (c : Fin 16) (k : Cmd) (x : SiphonArgs) (h : List Byte) : Nat :=
  let (step, attempt) := d.stepOf c k
  if fieldAt h 0 4 ≠ x.tag then 1
  else if fieldAt h 4 1 ≠ fieldAt k.args 24 1 then 2
  else if fieldAt h 20 4 ≠ x.rows || fieldAt h 24 4 ≠ x.l then 3
  else if fieldAt h 28 2 ≠ k.entry.layer then 4
  else if fieldAt h 30 1 ≠ k.entry.micro then 5
  else if fieldAt h 8 8 ≠ step.toNat then 6
  else if fieldAt h 16 4 ≠ attempt.toNat then 7
  else if x.loadFmtBad then 8
  else 0

/-- SIPHON_LOAD (R354). -/
def Dev.judgeLoad (d : Dev) (c : Fin 16) (k : Cmd) : Dev × Verdict :=
  match siphonArgs true k.args with
  | none => (d, .refuse stBadArg)
  | some x =>
    let st := if !inReservoir x.dst x.outBytes || fidOf x.src ≠ 0 then stBadArg
      else d.slowStatus x.src (64 + x.recordBytes)
    if x.out = 3 then (if x.mode = 0 then d.refuseLoad c k 8 else d, .refuse stBadArg)
    else if st ≠ stOk then (d, .refuse st)
    else match d.access [(x.src, 64)] with
      | (d, false) => (d, .wait)
      | (d, true) =>
        match d.readBytes srcWork x.src 64 with
        | (d, none) => (d, .refuse stUncorrectable)
        | (d, some h) =>
          let f := d.headerFault c k x h
          if f = 0 then (d, .go x.rows [])
          else (d.refuseLoad c k f, .refuse stBadArg)

/-- STAGE_SEND (R344). -/
def Dev.judgeStage (d : Dev) (k : Cmd) : Dev × Verdict :=
  (d, match stageArgs k.args with
  | none => .refuse stBadArg
  | some x =>
    let here := if fidOf x.loc ≠ 0 then stBadArg else d.rangeStatus x.loc x.bytes
    let there := if x.receive then stOk else
      let st := d.sideStatus (d.isOwn x.remote) [(localOf x.remote, x.bytes)]
      if st ≠ stOk then st else d.judgeRemote (fidOf x.remote)
    if k.step.isNone then .refuse stBadArg
    else verdictOf (worst [here, there]) (if x.receive then 1 else ceilDiv x.bytes 4096) [])

/-- STEP_BEGIN (R232): STEP is SLC_STEP, or the next one when it runs ahead. -/
def Dev.judgeBegin (d : Dev) (c : Fin 16) (k : Cmd) : Dev × Verdict :=
  let s := d.slc c
  let pos := (d.ctx c).spanPos k.index
  let first := (pos.bind fun i => (d.ctx c).steps[i]?).any fun sp => sp.beginSeq == k.entry.seq
  let want := if pos = some 1 then s.step + 1 else s.step
  (d, if !first then .refuse stBadArg
    else if !s.isSet then .refuse stNoResource
    else verdictOf (if BitVec.ofNat 64 (fieldAt k.entry.args 0 8) = want then stOk else stBadArg) 1 [])

/-- STEP_END (R222, R234): the loss is read; `lists` says whether it is an overflow. -/
def Dev.judgeEnd (d : Dev) (c : Fin 16) (k : Cmd) : Dev × Verdict :=
  let a := fieldAt k.entry.args 0 8
  let partly := (d.shardsOf c).any fun e => e.2.imported && e.2.state != .staged
  let st := if k.step.isNone || partly || fidOf a ≠ 0 then stBadArg
    else if a = 0 then stOk else d.rangeStatus a 4
  if st ≠ stOk then (d, .refuse st)
  else if a = 0 then (d, .go 1 [0])
  else match d.access [(a, 4)] with
    | (d, false) => (d, .wait)
    | (d, true) =>
      match d.readBytes srcWork a 4 with
      | (d, none) => (d, .refuse stUncorrectable)
      | (d, some bs) => (d, .go 1 [bit (isNonFinite (BitVec.ofNat 32 (leNat bs)))])

/-- Judges a command whose argument block has been read. -/
def Dev.judgeArgs (d : Dev) (c : Fin 16) (k : Cmd) : Dev × Verdict :=
  let op := k.entry.opcode
  if op = opArray then d.judgeArray c k
  else if op = opFlume then d.judgeFlume c k
  else if op = opVector then d.judgeVector c k
  else if op = opMove then d.judgeMove k
  else if op = opReduce then d.judgeReduce c k
  else if op = opUpdate then d.judgeUpdate c k
  else if op = opExport then d.judgeExport c k
  else if op = opImport then d.judgeImport c k
  else if op = opSave then d.judgeSave k
  else if op = opLoad then d.judgeLoad c k
  else if op = opStage then d.judgeStage k
  else d.judgeOuter c k

/-- The length that a block must have, from COUNT of the block where it has one (R168). -/
def blockLen (op : Nat) (block : List Byte) : Nat :=
  blockLength op (if op = opUpdate then fieldAt block 28 2 else fieldAt block 5 2)

/-- R172: reads the argument block and judges the command by it. The block comes with the verdict. -/
def Dev.judgeBlock (d : Dev) (c : Fin 16) (k : Cmd) : Dev × Verdict × List Byte :=
  let a := fieldAt k.entry.args 0 8
  let n := k.entry.argLen
  let bad := !k.entry.indirect || fidOf a ≠ 0 || !aligned a 64 || n < 32 || 4128 < n
  let st := if bad then stBadArg else d.slowStatus a n
  if st ≠ stOk then (d, .refuse st, [])
  else match d.access [(a, n)] with
    | (d, false) => (d, .wait, [])
    | (d, true) =>
      match d.readBytes srcWork a n with
      | (d, none) => (d, .refuse stUncorrectable, [])
      | (d, some bs) =>
        if n ≠ blockLen k.entry.opcode bs then (d, .refuse stBadArg, [])
        else
          let (d, v) := d.judgeArgs c { k with args := bs }
          (d, v, bs)

/-- Judges any command at issue. While a pseudo-channel is being retired no step of a RUNNING context starts (R145). -/
def Dev.judge (d : Dev) (c : Fin 16) (k : Cmd) : Dev × Verdict × List Byte :=
  let op := k.entry.opcode
  if takesBlock op then d.judgeBlock c k
  else if k.entry.indirect then (d, .refuse stBadArg, [])
  else if op = opStepBegin then
    if d.rsv.retiring.isSome && (d.ctx c).state == .running then (d, .wait, [])
    else
      let (d, v) := d.judgeBegin c k
      (d, v, [])
  else if op = opStepEnd then
    let (d, v) := d.judgeEnd c k
    (d, v, [])
  else (d, .go 1 [], [])

/-! ### What an issue does -/

/-- Changes a step span of a context. -/
def Dev.modSpan (d : Dev) (c : Fin 16) (i : Nat) (f : StepSpan → StepSpan) : Dev :=
  d.modCtx c fun x => { x with steps := x.steps.modify i f }

/-- STEP_BEGIN opens its step, or runs ahead of the one before (R176, R232, R233, R245). -/
def Dev.beginStep (d : Dev) (c : Fin 16) (k : Cmd) : Dev :=
  let pos := ((d.ctx c).spanPos k.index).getD 0
  let outer := bitOf (fieldAt k.entry.args 8 1) 0
  let d := d.modSpan c pos fun sp => { sp with outer := outer, begun := true, tBegin := d.tbNs, beganAt := d.now }
  if pos = 0 then
    let d := d.clearWeir c
    d.modSlc c fun s =>
      { s with stepState := .active, outer := outer, voteNow := s.voteMs, queryNow := s.queryMs }
  else d

/-- STEP_END issues: an overflow found at the loss, or kept by an update, is voted now (R97, R209). -/
def Dev.endStep (d : Dev) (c : Fin 16) (k : Cmd) (overflow : Bool) : Dev :=
  let d := d.finishCmd c k.entry.seq
  if overflow || (d.slc c).overflow then d.overflowFound c else d

/-- MARKER sends the meter its fields (R476). -/
def Dev.sendMarker (d : Dev) (c : Fin 16) (k : Cmd) : Dev :=
  let id := fieldAt k.entry.args 0 8
  let isEnd := bitOf (fieldAt k.entry.args 8 1) 0
  let d := { d with meter := { d.meter with flying := d.meter.flying ++ [(c, k.entry.seq, id, isEnd, d.tbNs, d.now)] } }
  d.emit (.marker id isEnd c.val d.tbNs)

/-- An import joins the coverage record of its shard (R222), and keeps the descriptor that it read. -/
def Dev.startImport (d : Dev) (c : Fin 16) (k : Cmd) (head : List Byte) : Dev :=
  let h := fieldAt k.args 0 2
  let d := d.modCmd c k.entry.seq fun q => { q with fetched := [(0, head)], lists := [] }
  match d.shard? h, descriptorOf head with
  | some x, some g =>
    d.modShard h fun y =>
      { y.withBoxes k.step.isSome (y.coverBoxes k.step.isSome ++ [intersect g.shape.ranges x.ranges]) with
        imported := y.imported || k.step.isSome }
  | _, _ => d

/-- What follows an issue, opcode by opcode. -/
def Dev.afterIssue (d : Dev) (c : Fin 16) (k : Cmd) : Dev :=
  let op := k.entry.opcode
  let seq := k.entry.seq
  if op = opNop then d.finishCmd c seq
  else if op = opMarker then d.sendMarker c k
  else if op = opStepBegin then ((d.beginStep c k).finishCmd c seq).voteRefused c
  else if op = opStepEnd then d.endStep c k (k.lists.headD 0 == 1)
  else if op = opImport then d.startImport c k (k.lists.map (BitVec.ofNat 8))
  else if op = opStage then d.tryReceive c seq
  else if op = opOuter then
    let h := outerHead k.args
    if h.apply then d.modMeters c fun m => { m with round := h.round } else d.startSend c k
  else d

/-- A command issues (R167, R173): it begins from its start. -/
def Dev.issueGood (d : Dev) (c : Fin 16) (k : Cmd) (args : List Byte) (total : Nat) (lists : List Nat) : Dev :=
  let spec := (d.ctx c).spanPos k.index == some 1
  let new : Cmd := { k with
    issued := true, spec := spec, issuedAt := d.now, waitSince := d.now, args := args, lists := lists, total := total
    did := [], requeued := [], next := 0, acc := [], passes := [], failing := none, ended := none }
  let d := d.modCmd c k.entry.seq fun _ => new
  let d := d.measure c new fun m => m.started new d.now
  (d.afterIssue c new).noteSlow c

/-- Carries out a verdict; false when the command must wait. -/
def Dev.issueOne (d : Dev) (c : Fin 16) (k : Cmd) : Dev × Bool :=
  match d.judge c k with
  | (d, .refuse st, _) => (d.refuseCmd c { k with spec := (d.ctx c).spanPos k.index == some 1 } st, true)
  | (d, .wait, _) => (d, false)
  | (d, .go total lists, args) => ((d.countForced k).issueGood c k args total lists, true)

/-- Issues the oldest of the pool of the ready commands `ks`; one that must wait for memory does not hold up the rest of the pool
(DESIGN CHOICE, log 17), which holds nothing that R343 puts behind a ready command. One candidate for each unit of fuel. The
command that has issued or been refused comes with the device. -/
def Dev.issueLoop (ks : List (Fin 16 × Cmd)) : Nat → List (Fin 16 × Cmd) → Dev → Dev × Option (Fin 16 × Cmd)
  | 0, _, d => (d, none)
  | n + 1, pool, d =>
    match leastBy orderKey pool with
    | none => (d, none)
    | some a =>
      match (d.deferOthers ks a).issueOne a.1 a.2 with
      | (d, true) => (d, some a)
      | (d, false) => Dev.issueLoop ks n (pool.filter fun b => b.1 != a.1 || b.2.entry.seq != a.2.entry.seq) d

/-- The next issue of the device (R371). -/
def Dev.issueNext (d : Dev) : Dev × Option (Fin 16 × Cmd) :=
  let d := d.noteReady
  let ks := d.readyCmds
  Dev.issueLoop ks (d.pool ks).length (d.pool ks) d

/-- COMMAND_ISSUE (R371). -/
def execCommandIssue (s : State) : Host.Outcome State Fault Refusal := done s s.dev.issueNext.1

/-- A ring command issues by name: it does so when it is the headgate's present choice (R167, R371). -/
def Dev.issueNamed (d : Dev) (c : Fin 16) (seq : W32) (op : Nat) : Dev :=
  match d.issueNext with
  | (e, some (x, k)) => if x = c && k.entry.seq = seq && k.entry.opcode = op then e else d
  | (_, none) => d

/-- NOP (R168). -/
def execNop (c : Fin 16) (seq : W32) (s : State) : Host.Outcome State Fault Refusal := done s (s.dev.issueNamed c seq opNop)

/-- MARKER (R476). -/
def execMarker (c : Fin 16) (seq : W32) (s : State) : Host.Outcome State Fault Refusal :=
  done s (s.dev.issueNamed c seq opMarker)

/-- ARRAY_OP (R38). -/
def execArrayOp (c : Fin 16) (seq : W32) (s : State) : Host.Outcome State Fault Refusal :=
  done s (s.dev.issueNamed c seq opArray)

/-- FLUME_OP (R61). -/
def execFlumeOp (c : Fin 16) (seq : W32) (s : State) : Host.Outcome State Fault Refusal :=
  done s (s.dev.issueNamed c seq opFlume)

/-- VECTOR_OP (R105). -/
def execVectorOp (c : Fin 16) (seq : W32) (s : State) : Host.Outcome State Fault Refusal :=
  done s (s.dev.issueNamed c seq opVector)

/-- MOVE (R148). -/
def execMove (c : Fin 16) (seq : W32) (s : State) : Host.Outcome State Fault Refusal :=
  done s (s.dev.issueNamed c seq opMove)

/-- STEP_BEGIN (R232). -/
def execStepBegin (c : Fin 16) (seq : W32) (s : State) : Host.Outcome State Fault Refusal :=
  done s (s.dev.issueNamed c seq opStepBegin)

/-- STEP_END (R234). -/
def execStepEnd (c : Fin 16) (seq : W32) (s : State) : Host.Outcome State Fault Refusal :=
  done s (s.dev.issueNamed c seq opStepEnd)

/-- REDUCE (R285). -/
def execReduce (c : Fin 16) (seq : W32) (s : State) : Host.Outcome State Fault Refusal :=
  done s (s.dev.issueNamed c seq opReduce)

/-- UPDATE (R201). -/
def execUpdate (c : Fin 16) (seq : W32) (s : State) : Host.Outcome State Fault Refusal :=
  done s (s.dev.issueNamed c seq opUpdate)

/-- SHARD_EXPORT (R218). -/
def execShardExport (c : Fin 16) (seq : W32) (s : State) : Host.Outcome State Fault Refusal :=
  done s (s.dev.issueNamed c seq opExport)

/-- SHARD_IMPORT (R219). -/
def execShardImport (c : Fin 16) (seq : W32) (s : State) : Host.Outcome State Fault Refusal :=
  done s (s.dev.issueNamed c seq opImport)

/-- SIPHON_SAVE (R353). -/
def execSiphonSave (c : Fin 16) (seq : W32) (s : State) : Host.Outcome State Fault Refusal :=
  done s (s.dev.issueNamed c seq opSave)

/-- SIPHON_LOAD (R354). -/
def execSiphonLoad (c : Fin 16) (seq : W32) (s : State) : Host.Outcome State Fault Refusal :=
  done s (s.dev.issueNamed c seq opLoad)

/-- STAGE_SEND (R344). -/
def execStageSend (c : Fin 16) (seq : W32) (s : State) : Host.Outcome State Fault Refusal :=
  done s (s.dev.issueNamed c seq opStage)

/-- OUTER_ROUND (R329). -/
def execOuterRound (c : Fin 16) (seq : W32) (s : State) : Host.Outcome State Fault Refusal :=
  done s (s.dev.issueNamed c seq opOuter)

/-- DEFER_LIMIT (R371): a deferred command that has been ready for MAX_DEFER_US issues whatever its estimate. -/
def execDeferLimit (s : State) : Host.Outcome State Fault Refusal :=
  let d := s.dev.noteReady
  let old := (groupFirst d.readyCmds).filter fun a => a.2.deferred && d.deferExpired a.2
  match leastBy orderKey old with
  | none => done s d
  | some a => done s (d.issueOne a.1 a.2).1

end Sys2Proof.Machine
end

