-- ==== Sys2Proof/Machine/Reader.lean ====
section
/-! DEFINITION. The ditch rider reads ring entries (R164 to R167, R173 to R176, R341) and takes doorbells. -/

namespace Sys2Proof.Machine

open Sys2Proof

/-! ### Doorbells (R164) -/

/-- A doorbell value. -/
def Dev.doorbell (d : Dev) (c : Fin 16) (v : W32) : Dev :=
  let x := d.ctx c
  if x.state = .closed || v = x.tail then d
  else if dist32 x.tail v < 2 ^ 31 && dist32 x.head v ≤ 2 ^ x.ringLog2 then d.modCtx c fun x => { x with tail := v }
  else d.event c 0 0x0005 0 v.toNat

/-- CTX_DOORBELL (R164). -/
def execCtxDoorbell (c : Fin 16) (v : W32) (s : State) : Host.Outcome State Fault Refusal := done s (s.dev.doorbell c v)

/-! ### Reading -/

/-- The SEQ that the entry at a ring index must carry (R166). -/
def Ctx.expected (x : Ctx) (i : W32) : W32 := x.nextSeq - (x.readIdx - i)

/-- Whether the entry at a ring index has been read and needs no reading again: it is outstanding, complete or released
(R173). -/
def Ctx.known (x : Ctx) (i : W32) : Bool :=
  x.cmds.any (fun k => k.index == i) || x.freed.contains i || x.doneSeqs.contains (x.expected i)

/-- Moves CTX_RING_READ over known entries; one for each unit of fuel. -/
def Ctx.skipKnown : Nat → Ctx → Ctx
  | 0, x => x
  | n + 1, x =>
    if x.readIdx != x.tail && x.known x.readIdx then
      Ctx.skipKnown n { x with readIdx := x.readIdx + 1, nextSeq := x.nextSeq + 1 } else x

/-- R341: a step's groups with an entry of a PHASE and MICROBATCH read, and the entry's group. -/
def StepSpan.group (sp : StepSpan) (e : Entry) : StepSpan × Option Nat :=
  if e.phase ≠ 1 && e.phase ≠ 2 then (sp, none)
  else if sp.groupKey = some (e.phase, e.micro) then (sp, some (sp.groups - 1))
  else ({ sp with groups := sp.groups + 1, groupKey := some (e.phase, e.micro) }, some sp.groups)

/-- A new outstanding command. -/
def newCmd (e : Entry) (slot : Nat) (idx : W32) (step : Option W64) (group : Option Nat) : Cmd :=
  { entry := e, slot := slot, index := idx, step := step, group := group }

/-- The spans after a STEP_BEGIN at a ring index has been read (R175): a new step, or the step that began there named anew. -/
def Ctx.openSpan (x : Ctx) (e : Entry) (i : W32) : Ctx :=
  let step := BitVec.ofNat 64 (fieldAt e.args 0 8)
  let outer := bitOf (fieldAt e.args 8 1) 0
  if x.steps.any fun sp => sp.beginIndex == i then
    { x with
      steps := mapWhere (fun sp => sp.beginIndex == i) (fun sp => { sp with step := step, outer := outer, begun := false }) x.steps
      cmds := x.cmds.map fun k => if (x.spanOf k.index).any (fun sp => sp.beginIndex == i) then { k with step := some step } else k }
  else { x with steps := x.steps ++ [{ step := step, outer := outer, beginIndex := i, beginSeq := e.seq }] }

/-- The spans after an entry at a ring index has been read: the step's groups and its end. A step whose first entry is no
longer a STEP_BEGIN is no step. -/
def Ctx.joinSpan (x : Ctx) (e : Entry) (i : W32) : Ctx × Option W64 × Option Nat :=
  match x.spanOf i with
  | none => (x, none, none)
  | some sp =>
    if sp.beginIndex = i then
      ({ x with
        steps := x.steps.filter fun q => q.beginIndex != i
        cmds := x.cmds.map fun k => if sp.has k.index then { k with step := none, group := none } else k }, none, none)
    else
      let (new, g) := sp.group e
      let new := if e.opcode = opStepEnd && new.endIndex.isNone then { new with endIndex := some i, endSeq := e.seq } else new
      ({ x with steps := mapWhere (fun q => q.beginIndex == sp.beginIndex) (fun _ => new) x.steps }, some sp.step, g)

/-- Takes a good entry: the command becomes outstanding (R167). -/
def Ctx.takeEntry (x : Ctx) (e : Entry) (i : W32) : Ctx :=
  let begins := e.opcode = opStepBegin && (x.spanOf i).all fun sp => sp.beginIndex == i
  let (x, step, group) := if begins then
      let x := x.openSpan e i
      (x, (x.spanOf i).map (·.step), none)
    else x.joinSpan e i
  { x with cmds := x.cmds ++ [newCmd e x.freeSlot i step group] }

/-- An entry found bad when it is read is refused: at once, or, where `later`, when the outcome awaited is known (R177). -/
def Dev.badEntry (d : Dev) (c : Fin 16) (later : Bool) (i seq nextSeq : W32) (op status : Nat) : Dev :=
  if later then d.modCtx c fun x => { x with heldRefusal := some (i, seq, nextSeq, op, status), stopRead := true }
  else d.refuseEntry c i seq nextSeq op status

/-- R166, R174: reads the entry at a ring index, whose SEQ must be `seq`. An entry of the next step that is bad while the
present one awaits its outcome, and that may run ahead, is refused when the outcome is known (R177). A ring in a window
removed since gives no entry (R146). -/
def Dev.readEntry (d : Dev) (c : Fin 16) (i seq : W32) : Dev :=
  let x := d.ctx c
  let s := d.slc c
  let a := x.ringBase + 64 * (i.toNat % 2 ^ x.ringLog2)
  let pos := x.spanPos i
  let later := pos == some 1 && x.runahead != 0 && (s.stepState == .voted || s.stepState == .inDoubt)
  if d.removedIn [(a, 64)] then d.badEntry c later i 0 seq 0 stNoResource else
  match d.access [(a, 64)] with
  | (d, false) => d
  | (d, true) =>
    let d := d.modCtx c fun x => { x with again := x.again.filter (· != i) }
    match d.readBytes srcWork a 64 with
    | (d, none) => d.badEntry c later i 0 seq 0 stUncorrectable
    | (d, some bs) =>
      let e := entryOf bs
      if !entryOk seq bs then d.badEntry c later i e.seq seq e.opcode stBadArg
      else
        let d := d.modCtx c fun x =>
          let y := x.takeEntry e i
          if i = x.readIdx then { y with readIdx := i + 1, nextSeq := seq + 1 } else y
        d.noteSlow c

/-- Whether the entry at a ring index may be read while a hold is pending: it belongs to the step in flight (R179). -/
def Dev.holdReads (d : Dev) (c : Fin 16) (i : W32) : Bool :=
  let x := d.ctx c
  !x.holdPending || (d.stepOpen c && x.spanPos i == some 0)

/-- Reads the next entry, where the context's state and the limit of 32 allow it (R160, R167, R174). Entries to be issued
again go first (R173). -/
def Dev.readNext (d : Dev) (c : Fin 16) : Dev :=
  let x := d.ctx c
  let waits := (d.slc c).stepState == .repeatWait && (x.steps.head?).any (·.begun)
  if x.state ≠ .running || x.stopRead || waits || 32 ≤ x.cmds.length then d
  else match x.again with
    | i :: _ => d.readEntry c i (x.expected i)
    | [] =>
      let x := Ctx.skipKnown (x.cmds.length + x.freed.length + x.doneSeqs.length) x
      let d := d.modCtx c fun _ => x
      if x.readIdx = x.tail || !d.holdReads c x.readIdx then d else d.readEntry c x.readIdx x.nextSeq

/-- RING_ENTRY_READ (R166). -/
def execRingEntryRead (c : Fin 16) (s : State) : Host.Outcome State Fault Refusal := done s (s.dev.readNext c)

end Sys2Proof.Machine
end

