-- ==== Sys2Proof/Machine/Release.lean ====
section
/-! DEFINITION. The release of units to engines (R44, R60 to R63, R121, R156, R167, R200, R363, R373). -/

namespace Sys2Proof.Machine

open Sys2Proof

/-- Whether an array is good (R3): not disabled at test and not retired. -/
def Dev.goodArray (d : Dev) (a : Nat) : Bool :=
  decide (a < 64) && !d.mxa.testDisabled.getLsbD a && !d.mxa.retired.getLsbD a

/-- Whether a quadrant has a good array, so that its flume works (R60). -/
def Dev.goodFlume (d : Dev) (f : Nat) : Bool := (List.range 16).any fun i => d.goodArray (16 * f + i)

/-- Whether an engine takes a unit: it is in service for nobody and has room for one unit beyond the one that runs. -/
def Engine.takes (e : Engine) : Bool := !e.service && !e.dead && e.replay.isNone && decide (e.units.length < 2)

/-- Instances of a class. -/
def instances (cls : Nat) : Nat := if cls = 1 then 64 else if cls = 2 then 4 else 16

/-- Whether a quadrant's admission hold lets a new pass or chunk be released (R373). -/
def Dev.admitted (d : Dev) (cls inst : Nat) : Bool :=
  let x := d.hg.quads.toList.getD (quadrantOf cls inst) {}
  3 < cls || !x.held || d.hg.admits x d.now

/-- Whether an array is free: it has no pass, and could be given one now (R3, R63, R373). -/
def Dev.arrayFree (d : Dev) (a : Nat) : Bool :=
  let e := d.engine 1 a
  d.goodArray a && e.takes && e.units.isEmpty && d.admitted 1 a && (d.engine 2 (a / 16)).units.isEmpty

/-- The first byte of the W chunk of a tile's pass. -/
def ArrayArgs.wChunk (x : ArrayArgs) (tile pass : Nat) : Nat :=
  let (plane, _, bs) := x.pass pass
  let c := (x.tile tile).2.2.1
  let (_, wb, kb, _) := x.operands plane (bs.headD 0)
  if x.blocky then wb + 1024 * (if x.tw then tileOf x.k c (32 * kb) else tileOf x.n (32 * kb) c)
  else wb + x.elemBytes * (if x.tw then c * x.k + 32 * kb else 32 * kb * x.n + c)

/-- R129: a pass goes to an array of the quadrant that holds its W chunk, by the chunk's first byte (DEDUCED, log 13), unless none
there is free. -/
def Dev.nearW (d : Dev) (k : Cmd) (inst i : Nat) : Bool :=
  match arrayArgs k.args with
  | none => true
  | some x =>
    let home := bitsOf (x.wChunk i (lookupD i 0 k.passes)) 31 2
    home == inst / 16 || (List.range 16).all fun j => !d.arrayFree (16 * home + j)

/-- Whether an instance may be given unit `i` of a command: an array whose quadrant's flume is idle (R63), where R129 puts the pass;
the flume of the unit's part, or another where that one has no good array (R61). -/
def Dev.suits (d : Dev) (k : Cmd) (cls inst i : Nat) : Bool :=
  if cls = 1 then d.goodArray inst && (d.engine 2 (inst / 16)).units.isEmpty && d.nearW k inst i
  else if cls = 2 then d.goodFlume inst && (i % 4 == inst || !d.goodFlume (i % 4))
  else true

/-- Whether a unit must wait for the command's other units: the descriptor of an export (R218) and the last piece of
an import (R221). -/
def Cmd.lastWaits (k : Cmd) (i : Nat) : Bool :=
  (k.entry.opcode == opExport || k.entry.opcode == opImport) && i + 1 == k.units && decide (k.did.length + 1 < k.units)

/-- A unit as it is given to an engine. -/
def Dev.newUnit (d : Dev) (c : Fin 16) (seq : W32) (i cls inst : Nat) : UnitRef :=
  { ctx := c, seq := seq, idx := i, order := d.dispatched, gen := (d.engine cls inst).gen }

/-- Gives a unit to an engine; the first unit given to a quadrant ends its park (R368). -/
def Dev.place (d : Dev) (c : Fin 16) (seq : W32) (i cls inst : Nat) : Dev :=
  let u := d.newUnit c seq i cls inst
  let d := d.modEngine cls inst fun e => { e with units := e.units ++ [u] }
  let d := { d with dispatched := d.dispatched + 1 }
  if cls < 5 then d.modQuad (quadrantOf cls inst) fun q => { q with parked := false, releasedAt := d.now } else d

/-- A culvert that starts a piece with a remote side sends its packets. -/
def Dev.startPiece (d : Dev) (inst : Nat) : Dev :=
  match (d.engine 4 inst).units with
  | u :: _ =>
    match (d.ctx u.ctx).cmd? u.seq with
    | some k => if u.suppressed || d.pieceHeld k then d else
        match d.pieceOf u.ctx k u.idx with
        | some p => d.pushPiece inst u p
        | none => d
    | none => d
  | [] => d

/-- The entry of a command of class 5 that a home controller is given: the lowest not complete and not with the engine. -/
def Dev.entryFor (d : Dev) (c : Fin 16) (k : Cmd) (inst : Nat) : Option Nat :=
  (List.range k.total).find? fun i => !k.did.contains i && d.homeOf k i == some inst
    && (d.engine 5 inst).units.all fun u => !(u.ctx == c && u.seq == k.entry.seq && u.idx == i)

/-- Releases a unit of an issued command to an engine instance of its class, where the rules let it. -/
def Dev.release (d : Dev) (c : Fin 16) (seq : W32) (inst : Nat) : Dev :=
  let x := d.ctx c
  match x.cmd? seq with
  | none => d
  | some k =>
    let cls := engineOf k.entry.opcode
    let e := d.engine cls inst
    if !k.hasUnit || (x.state ≠ .running && x.state ≠ .draining) || 5 < cls || instances cls ≤ inst || !e.takes
        || !d.admitted cls inst then d
    else if cls = 5 then
      match d.entryFor c k inst with
      | some i => d.place c seq i 5 inst
      | none => d
    else
      let (i, q) := k.takeUnit
      if !d.suits k cls inst i || k.lastWaits i || (stageArgs k.args).any (fun s => k.entry.opcode == opStage && s.receive) then d
      else
        let d := (d.modCmd c seq fun _ => q).place c seq i cls inst
        if cls = 4 && e.units.isEmpty then d.startPiece inst else d

/-- UNIT_DISPATCH (R167). -/
def execUnitDispatch (c : Fin 16) (seq : W32) (inst : Nat) (s : State) : Host.Outcome State Fault Refusal :=
  done s (s.dev.release c seq inst)

end Sys2Proof.Machine
end

