-- ==== Sys2Proof/Machine/Contexts.lean ====
section
/-! DEFINITION. Contexts between RUNNING and CLOSED: faults and the removal of work (R182, R199, R400, R401), drains (R181),
and the effects of the context commands (R161, R163, R179, R190). -/

namespace Sys2Proof.Machine

open Sys2Proof

/-! ### Watchdogs (R399) -/

/-- Whether a context's watchdog counts: it is RUNNING, HOLDING or DRAINING, and a unit of it is dispatched and not
held for replay (R399). -/
def Dev.hasUnit (d : Dev) (c : Fin 16) : Bool :=
  let mine := fun (e : Engine) => e.replay.isNone && e.units.any fun u => u.ctx == c
  d.mxa.arrays.any mine || d.flm.flumes.any mine || d.vxe.engines.any mine || d.clv.engines.any mine
    || d.ctl.engines.any mine

/-- Whether the context's state lets its watchdog count (R399). -/
def Ctx.watched (x : Ctx) : Bool :=
  x.state == .running || x.state == .holding || x.state == .draining

/-! ### Faults and removal (R182, R199, R400, R401) -/

/-- Status bits that a reset of a context clears: MXA_SAT_STATUS, VXE_SAT_STATUS, RED_SAT_STATUS, UPD_NONFINITE, RED_WEIR. -/
def Dev.clearStatus (d : Dev) (c : Fin 16) : Dev :=
  let off := fun (v : BitVec 16) => v &&& ~~~(1#16 <<< c.val)
  { d with
    mxa := { d.mxa with sat := off d.mxa.sat }
    vxe := { d.vxe with sat := off d.vxe.sat }
    upd := { d.upd with nonfinite := off d.upd.nonfinite }
    red := { d.red with sat := off d.red.sat, weir := d.red.weir.set c 0, weirJob := d.red.weirJob.set c 0 } }

/-- A suspect of a replay whose removal begins has no verdict to come (R405, R407). -/
def Replay.leave (c : Fin 16) (r : Replay) : Replay := { r with innocent := r.innocent.filter (· != c), gone := c :: r.gone }

/-- A context moves to FAULTED: its work is taken from every engine; a step on which the device has not voted is voted abort,
and its staging discarded at once; a step voted ready stays frozen (R182, R199, R401). `notice` places the event of the cause after the state change. -/
def Dev.faultWith (d : Dev) (c : Fin 16) (cause : Nat) (notice : Dev → Dev) : Dev :=
  let d := notice (d.setState c .faulted cause)
  let d := d.modCtx c fun x => { x with removing := true }
  let d := d.mapEngines fun e => { e with replay := e.replay.map (Replay.leave c) }
  let d := (d.removeUnits c fun _ => true).clearStatus c
  let d := if (d.slc c).stepState = .active then
      (d.discardStaging c).voteAbort c 4 stOk false else d
  d.modShards (Shard.ofCtx c) Shard.forget

/-- The same with no event but the state change. -/
def Dev.faultContext (d : Dev) (c : Fin 16) (cause : Nat) : Dev := d.faultWith c cause id

/-- Whether a suspect of a replay is this context: its removal waits for the replay's end (R405). -/
def Dev.underReplay (d : Dev) (c : Fin 16) : Bool :=
  allEngines.any fun e => (d.engine e.1 e.2).replay.any fun r => r.current == some c

/-- R401: the context's commands end with ABORTED. Their slots stay as they are until CTX_REARM or CTX_CLOSE (R182). -/
def Dev.endCmds (d : Dev) (c : Fin 16) : Dev :=
  let open_ := (d.ctx c).cmds.filter fun k => k.ended.isNone
  let d := open_.foldl (fun d k => (d.leaveOpen k).notify c k stAborted) d
  d.modCtx c fun x => { x with removing := false, cmds := x.cmds.map fun k => { k with ended := some (k.ended.getD stAborted) } }

/-- Ends the mailbox command that runs: DOORBELL clears, the status is placed, and MSI-X vector 16 goes out (R189). -/
def Dev.mbxEnd (d : Dev) (status vendor : Nat) : Dev :=
  let d := { d with mbx := { d.mbx with doorbell := false, returnCode := status, vendorStatus := vendor } }
  if d.mbx.irqEn then d.emit (.msix 16) else d

/-- Removal ends once no unit of the context is left; a CTX_RESET ends with it (R189, R401). -/
def Dev.workRemoved (d : Dev) (c : Fin 16) : Dev :=
  if !(d.ctx c).removing || !(d.unitsOf c).isEmpty || d.underReplay c then d
  else
    let d := d.endCmds c
    if d.mbx.resetting = some c then ({ d with mbx := { d.mbx with resetting := none } }).mbxEnd stOk 0 else d

/-- CONTEXT_WORK_REMOVED (R401). -/
def execContextWorkRemoved (c : Fin 16) (s : State) : Host.Outcome State Fault Refusal := done s (s.dev.workRemoved c)

/-- The SEQ and class of the oldest command of a context with a running unit (R400). -/
def Dev.oldestRunning (d : Dev) (c : Fin 16) : W32 × Nat :=
  let runs := allEngines.filterMap fun e => ((d.engine e.1 e.2).units.head?).bind fun u =>
    if u.ctx = c then some (u.seq, e.1) else none
  (leastBy (fun u => dist32 ((d.ctx c).lastSeq + 1) u.1) runs).getD (0, 0)

/-- R400. -/
def Dev.watchdog (d : Dev) (c : Fin 16) : Dev :=
  let x := d.ctx c
  if !x.watched || !d.hasUnit c || x.watchdogNs < msNs x.watchdogMs then d
  else
    let (seq, cls) := d.oldestRunning c
    let step := d.stepInForce c
    d.faultWith c 5 fun d => d.eventAt c seq 0x0050 0 step cls

/-- WATCHDOG_EXPIRY (R400). -/
def execWatchdogExpiry (c : Fin 16) (s : State) : Host.Outcome State Fault Refusal := done s (s.dev.watchdog c)

/-! ### Drains (R181) -/

/-- Whether issued work of a context is left. -/
def Ctx.working (x : Ctx) : Bool := x.cmds.any fun k => k.issued && k.ended.isNone

/-- The first ring entry that has not issued, or CTX_RING_READ. -/
def Ctx.firstUnissued (x : Ctx) : W32 :=
  let is := ((x.cmds.filter fun k => !k.issued || k.ended.isSome).map (·.index)) ++ x.again ++ [x.readIdx]
  (leastBy (fun i => dist32 x.head i) is).getD x.readIdx

/-- A drained context is OPEN, with CTX_RING_READ at the first entry not issued. -/
def Dev.drained (d : Dev) (c : Fin 16) : Dev :=
  let d := d.modCtx c fun x =>
    let i := x.firstUnissued
    { x with
      nextSeq := x.expected i, readIdx := i, cmds := [], steps := [], again := [], stopRead := false, heldRefusal := none }
  d.setState c .opened 7

/-- R181: a drain goes on when no issued work is left: an open step without its STEP_END is voted abort; with no outcome
awaited the drain is complete. -/
def Dev.drain (d : Dev) (c : Fin 16) : Dev :=
  let x := d.ctx c
  let s := d.slc c
  if x.state ≠ .draining || x.working then d
  else match s.stepState with
    | .idle => d.drained c
    | .active =>
      if s.stepEnded then d
      else
        let d := d.voteAbort c 5 stOk false
        if (d.slc c).stepState = .idle then d.drained c else d
    | _ => d

/-- DRAIN_COMPLETE (R181). -/
def execDrainComplete (c : Fin 16) (s : State) : Host.Outcome State Fault Refusal := done s (s.dev.drain c)

end Sys2Proof.Machine
end

