-- ==== Sys2Proof/Machine/Resets.lean ====
section
/-! DEFINITION. Device reset (R443, R446): what it leaves and what it sets. -/

namespace Sys2Proof.Machine

open Sys2Proof

/-- TDP of a marked part in W, the allotment after device reset (R21, R492). -/
def tdpWatts (marked : Nat) : Nat := if marked = 0 then 1600 else if marked = 1 then 1500 else 1400

/-- The incarnation drawn at the `n`-th device reset; it differs from the one before (R277). -/
def newIncarnation (n : Nat) (old : W16) : W16 :=
  let x := Config.incarnation n
  if x = old then x + 1 else x

/-- What no reset changes of the memory's repair state: fuses and repairs (R443). -/
def Rsv.fuses (r : Rsv) : Rsv :=
  { spared := r.spared, softRepairs := r.softRepairs, repairs := r.repairs, retiredPc := r.retiredPc, windows := r.windows }

/-- What no reset changes of the arrays: fuses (R443). -/
def Mxa.fuses (m : Mxa) : Mxa := { testDisabled := m.testDisabled, retired := m.retired, marked := m.marked }

/-- What no reset changes of images and keys: fuses, and what the cistern's BOOT partition holds (R443). -/
def Sec.kept (x : Sec) : Sec :=
  { slotA := x.slotA, slotB := x.slotB, bootDefault := x.bootDefault, svnFuses := x.svnFuses, epochFuses := x.epochFuses
    leafRecord := x.leafRecord, aliasOf := x.aliasOf, aliasCert := x.aliasCert }

/-- The flash (R443). What waits or runs is lost: partial checkpoints are freed. -/
def Cis.kept (x : Cis) : Cis :=
  { flash := x.flash, fitted := x.fitted, spare := x.spare, totalMib := x.totalMib, jseq := x.jseq, journal := x.journal
    ckpts := x.ckpts }

/-- The watermaster runs on; its copy and the marker counts are device registers (R443, R467). -/
def Meter.kept (m : Meter) : Meter :=
  { m with flying := [], copyMwh := 0, copyMeanW := 0, copyStatus := 0, copyAt := none, sent := 0, dropped := 0 }

/-- A device reset for a cause of SEC_RESET_CAUSE: start-up begins at B (R443, R444, R446). -/
def Dev.deviceReset (d : Dev) (cause : Nat) : Dev :=
  let n := d.boot.resets + 1
  { mem := { hard := d.mem.hard }
    rsv := d.rsv.fuses
    mxa := d.mxa.fuses
    fab := { inc := newIncarnation n d.fab.inc }
    hg := { watts := tdpWatts d.mxa.marked }
    boot := {
      por := d.boot.por, perst := d.boot.perst, thermLatch := d.boot.thermLatch
      resetCause := cause, resetCount := satTo 0xFFFF (d.boot.resetCount + 1), resets := n }
    sec := d.sec.kept
    cis := d.cis.kept
    meter := d.meter.kept
    out := d.out
    dispatched := d.dispatched
    free := d.free }

/-- Power-on reset: VIN12 is below the falling POR threshold (R443, R484). SEC_RESET_CAUSE starts anew, and start-up at A. -/
def Dev.powerReset (d : Dev) : Dev :=
  let d := d.deviceReset 0
  { d with boot := { d.boot with por := false, resetCount := 0 } }

/-- A reset by a cause other than VIN12: without power there is nothing to reset. -/
def Dev.resetFor (d : Dev) (cause : Nat) : Dev := if d.boot.por then d.deviceReset cause else d

end Sys2Proof.Machine
end

