-- ==== Sys2Proof/Machine/Mailbox.lean ====
section
/-! DEFINITION. The mailbox (R188 to R191): how a command is taken, judged in three stages (R162) and ended, and the context
and service commands of R190. A payload shorter than its layout reads as if zeros followed (DESIGN CHOICE, log 9). -/

namespace Sys2Proof.Machine

open Sys2Proof

/-! ### Taking and ending a command (R162, R189, R437, R445) -/

/-- How a mailbox command ends: the status, VENDOR_STATUS, the response payload, and the cause of a device reset that follows
the status (R448). -/
structure Answer where
  status : Nat
  vendor : Nat := 0
  resp : List Byte := []
  reset : Option Nat := none
  deriving DecidableEq, Repr

/-- A command's work: it ends with an answer, or goes on. -/
abbrev Command := Dev → List Byte → Dev × Option Answer

/-- Ends with a status and no response. -/
def ends (d : Dev) (status : Nat) : Dev × Option Answer := (d, some { status := status })

/-- Every byte of a payload of `n` bytes outside the listed fields (offset, length) is 0: reserved fields (R9). -/
def restZero (n : Nat) (used : List (Nat × Nat)) (p : List Byte) : Bool :=
  (List.range n).all fun i => used.any (fun u => decide (u.1 ≤ i) && decide (i < u.1 + u.2)) || p.getD i 0 == 0

/-- The CTX byte of a payload: bits [7:4] are reserved. -/
def ctxByteOk (p : List Byte) : Bool := decide (fieldAt p 0 1 < 16)

/-- The context that a payload names. -/
def ctxOf (p : List Byte) : Fin 16 := Fin.ofNat 16 (fieldAt p 0 1)

/-- Stage 2 of R162: a context in another state rejects the command, with its state in VENDOR_STATUS and an event unless it
is CLOSED. -/
def Dev.inState (d : Dev) (c : Fin 16) (op : Nat) (legal : List CtxState) (f : Dev → Dev × Option Answer) : Dev × Option Answer :=
  let st := (d.ctx c).state
  if legal.contains st then f d
  else (d.event c 0 0x0003 stReject op, some { status := stReject, vendor := st.code })

/-- A command on a context: stage 1 with `ok`, then stage 2, then its own work. -/
def ctxCommand (op : Nat) (ok : List Byte → Bool) (legal : List CtxState) (f : Fin 16 → Command) : Command := fun d p =>
  if ctxByteOk p && ok p then d.inState (ctxOf p) op legal fun d => f (ctxOf p) d p else ends d stBadArg

/-- Every context state but CLOSED. -/
def notClosed : List CtxState := [.opened, .running, .holding, .draining, .faulted]

/-- Runs `f` once the command may use local ranges; until then it waits and is run again (R275, R427). -/
def Dev.whenFree (d : Dev) (rs : List (Nat × Nat)) (f : Dev → Dev × Option Answer) : Dev × Option Answer :=
  match d.access rs with
  | (d, false) => ({ d with mbx := { d.mbx with waiting := true } }, none)
  | (d, true) => f d

/-- Runs `f` once the cistern takes accesses: they stall during a flagged loss as those to memory do (R389). -/
def Dev.whenCistern (d : Dev) (f : Dev → Dev × Option Answer) : Dev × Option Answer :=
  if d.clk.refLost then ({ d with mbx := { d.mbx with waiting := true } }, none) else f d

/-- The vendor commands that need memory: they end with BUSY until Memory Active, and with NO_RESOURCE where no stack
trained (R445, R447; which ones is DEDUCED, log 9). -/
def needsMemory (op : Nat) : Bool :=
  [0xC000, 0xC012, 0xC040, 0xC081, 0xC082, 0xC0C8, 0xC140, 0xC150, 0xC202, 0xC203, 0xC205, 0xC206].contains op

/-- What the device's state makes of an opcode before the command itself is judged: run it, end it with a status, or leave it
untaken because no firmware runs. -/
inductive Gate where
  | run
  | status (st : Nat)
  | untaken
  deriving DecidableEq, Repr

/-- Success of the CXL return codes (PRESUMED, log 9). -/
def cxlSuccess : Nat := 0
/-- Unsupported of the CXL return codes (PRESUMED, log 9). -/
def cxlUnsupported : Nat := 3
/-- Busy of the CXL return codes (PRESUMED, log 9). -/
def cxlBusy : Nat := 6
/-- Invalid Payload Length of the CXL return codes (PRESUMED, log 9). -/
def cxlPayloadLength : Nat := 0x16

/-- RETURN_CODE of a command that is busy: an R11 code for a vendor opcode, a CXL return code for a standard one (R13). -/
def busyCode (op : Nat) : Nat := if 0xC000 ≤ op then stBusy else cxlBusy
/-- RETURN_CODE of a command whose PAYLOAD_LEN exceeds the mailbox (R13, R188). -/
def lengthCode (op : Nat) : Nat := if 0xC000 ≤ op then stBadArg else cxlPayloadLength

/-- R437, R445, R447. -/
def Dev.gate (d : Dev) (op : Nat) : Gate :=
  let vendor := decide (0xC000 ≤ op)
  let security := [0xC180, 0xC181, 0xC182, 0xC188].contains op
  if d.boot.recovery then
    if [0x0001, 0xC181, 0xC182].contains op then .run else .status (busyCode op)
  else if !d.boot.firmware then (if vendor then .status stBusy else .untaken)
  else if !vendor || op == 0xC143 || security then .run
  else if d.boot.noStack && needsMemory op then .status stNoResource
  else if !d.boot.active && needsMemory op then .status stBusy
  else .run

/-- Places a response payload. -/
def Dev.respond (d : Dev) (resp : List Byte) : Dev :=
  { d with mbx := { d.mbx with payload := splice d.mbx.payload 0 resp } }

/-- DOORBELL has been set: the command runs on the payload that stands in the mailbox (R189). The spec does not say what a
PAYLOAD_LEN above the length of the command's layout means: each command reads its own fields, and bytes beyond them are neither
read nor judged (DESIGN CHOICE, log 9). -/
def Dev.runCommand (d : Dev) (op : Nat) (f : Command) : Dev :=
  let d := { d with mbx := { d.mbx with doorbell := true, waiting := false } }
  if 4096 < d.mbx.len then d.mbxEnd (lengthCode op) 0
  else match d.gate op with
    | .untaken => d
    | .status st => d.mbxEnd st 0
    | .run =>
      match f d (d.mbx.payload.take d.mbx.len) with
      | (d, none) => d
      | (d, some a) =>
        let d := (d.respond a.resp).mbxEnd a.status a.vendor
        match a.reset with
        | some cause => d.deviceReset cause
        | none => d

/-- The whole transaction of a command row: MBX_CMD and the payload are written and DOORBELL is set; ignored while DOORBELL is
set (R189). -/
def Dev.submit (d : Dev) (op : Nat) (p : List Byte) (f : Command) : Dev :=
  if d.mbx.doorbell then d
  else
    let d := { d with mbx := { d.mbx with opcode := op, len := p.length, payload := splice d.mbx.payload 0 (p.take 4096) } }
    d.runCommand op f

/-! ### Contexts (R161, R163, R190) -/

/-- Bytes of a context's ring and of its event queue. -/
def Ctx.areas (x : Ctx) : List (Nat × Nat) :=
  if x.state = .closed then [] else [(x.ringBase, 64 * 2 ^ x.ringLog2), (x.eqBase, 32 * 2 ^ x.eqLog2)]

/-- R163: where a ring and a queue may lie. -/
def Dev.placementOk (d : Dev) (ring eq : Nat × Nat) : Bool :=
  let free := fun (r : Nat × Nat) => aligned r.1 4096 && d.slowStatus r.1 r.2 == stOk
    && allCtx.all fun c => (d.ctx c).areas.all fun q => !overlaps r.1 r.2 q.1 q.2
  free ring && free eq && !overlaps ring.1 ring.2 eq.1 eq.2

/-- The defaults of a new context beyond its own record (R14, R225, R359). -/
def Dev.freshContext (d : Dev) (c : Fin 16) : Dev :=
  let d := d.clearDry c
  { d with
    slcs := d.slcs.set c {}
    trn := { d.trn with trns := d.trn.trns.set c {} }
    ldg := { d.ldg with threshold := d.ldg.threshold.set c 256 }
    sip := { d.sip with ready := d.sip.ready.set c [] } }

/-- CTX_CREATE. -/
def cmdCtxCreate : Command :=
  ctxCommand 0xC000
    (fun p => decide (fieldAt p 1 1 < 64) && decide (bitsOf (fieldAt p 1 1) 2 2 ≤ 2)
      && decide (6 ≤ fieldAt p 2 1) && decide (fieldAt p 2 1 ≤ 16) && decide (6 ≤ fieldAt p 3 1)
      && decide (fieldAt p 3 1 ≤ 16) && decide (fieldAt p 4 4 ≤ 600000) && zeroAt p 28 4)
    [.closed] fun c d p =>
      let ring := fieldAt p 8 8
      let eq := fieldAt p 16 8
      let first := BitVec.ofNat 32 (fieldAt p 24 4)
      if !d.placementOk (ring, 64 * 2 ^ fieldAt p 2 1) (eq, 32 * 2 ^ fieldAt p 3 1) then ends d stBadArg
      else
        let ms := fieldAt p 4 4
        let x : Ctx := {
          flags := fieldAt p 1 1
          watchdogMs := if ms = 0 then 2000 else ms
          ringBase := ring
          ringLog2 := fieldAt p 2 1
          eqBase := eq
          eqLog2 := fieldAt p 3 1
          irq := bitOf (fieldAt p 1 1) 5
          lastSeq := first - 1
          commitSeq := first - 1
          nextSeq := first }
        ends (((d.freshContext c).modCtx c fun _ => x).setState c .opened 0) stOk

/-- A payload of a CTX byte and three more that its layout does not list. R9 judges reserved fields, and the spec does not say
whether payload bytes that a layout leaves out are such: here, and in every other command that leaves bytes out, they are, and a
byte that is not 0 ends the command with BAD_ARG (DESIGN CHOICE, log 21). -/
def onlyCtx (p : List Byte) : Bool := zeroAt p 1 3

/-- CTX_START. -/
def cmdCtxStart : Command :=
  ctxCommand 0xC001 onlyCtx [.opened] fun c d _ => ends (d.setState c .running 0) stOk

/-- CTX_HOLD (R179). -/
def cmdCtxHold : Command :=
  ctxCommand 0xC002 (fun p => decide (fieldAt p 1 1 < 2) && zeroAt p 2 2) [.running] fun c d p =>
    if fieldAt p 1 1 = 0 then
      ends ((d.modCtx c fun x => { x with holdPending := true }).holdIfQuiet c) stOk
    else ends (d.setState c .holding 0) stOk

/-- R173, R174: what a resumed context reads again. -/
def Dev.resumeReading (d : Dev) (c : Fin 16) : Dev :=
  let ended := (d.ctx c).cmds.filter fun k => k.ended.isSome
  let d := ended.foldl (fun d k =>
    if k.entry.opcode = opImport && k.step.isNone then
      match d.importRun k with
      | some (r, _, _) => d.uncover (fieldAt k.args 0 2) r.box
      | none => d
    else d) d
  d.modCtx c fun x =>
    { x with
      stopRead := false, heldRefusal := none, again := x.again ++ ended.map (·.index)
      cmds := x.cmds.filter fun k => k.ended.isNone }

/-- CTX_RESUME. A RUNNING context with no hold pending rejects it. -/
def cmdCtxResume : Command := fun d p =>
  let c := ctxOf p
  let legal := if (d.ctx c).holdPending then [CtxState.holding, .running] else [.holding]
  ctxCommand 0xC003 onlyCtx legal (fun c d _ =>
    if (d.ctx c).state = .holding then ends ((d.resumeReading c).setState c .running 0) stOk
    else ends (d.modCtx c fun x => { x with holdPending := false }) stOk) d p

/-- CTX_DRAIN (R181). -/
def cmdCtxDrain : Command :=
  ctxCommand 0xC004 onlyCtx [.running, .holding] fun c d _ =>
    ends (d.setState c .draining 0) stOk

/-- CTX_RESET (R182, R189): it ends once the work has been removed. -/
def cmdCtxReset : Command :=
  ctxCommand 0xC005 onlyCtx [.opened, .running, .holding, .draining] fun c d _ =>
    let d := d.faultContext c 0
    if (d.unitsOf c).isEmpty && !d.underReplay c then ends (d.endCmds c) stOk
    else ({ d with mbx := { d.mbx with resetting := some c } }, none)

/-- The ditch rider waits no longer for a context's markers on their way. Whether the meter still keeps one that arrives later the
spec does not say: it is gone (DESIGN CHOICE, log 23). -/
def Dev.dropMarkers (d : Dev) (c : Fin 16) : Dev :=
  { d with meter := { d.meter with flying := d.meter.flying.filter fun m => m.1 != c } }

/-- CTX_REARM (R182, R183). -/
def cmdCtxRearm : Command :=
  ctxCommand 0xC006 (fun p => zeroAt p 1 3) [.faulted] fun c d p =>
    let x := d.ctx c
    let i := BitVec.ofNat 32 (fieldAt p 4 4)
    let first := BitVec.ofNat 32 (fieldAt p 8 4)
    if dist32 x.head x.tail < dist32 x.head i then ends d stBadArg
    else
      let d := (if x.removing then d.endCmds c else d).dropMarkers c
      let none_ := (d.slc c).epoch == noStep
      let span := d.spanNow c
      let d := d.modSlc c fun s => { s with span := if s.stepState = .idle then none else span }
      let d := d.modCtx c fun x =>
        { x with
          cmds := [], steps := [], doneSeqs := [], freed := [], again := [], stopRead := false, heldRefusal := none
          head := i, readIdx := i, nextSeq := first, lastSeq := first - 1
          commitSeq := if none_ then first - 1 else x.commitHeld.getD x.commitSeq, commitHeld := none, watchdogNs := 0 }
      ends (d.setState c .opened 0) stOk

/-- Ends a checkpoint in progress: its pins go, the partial checkpoint is freed, and the event is placed (R458). -/
def Dev.endCheckpoint (d : Dev) (c : Fin 16) (status : Nat) : Dev :=
  match d.cis.runs[c] with
  | none => d
  | some r =>
    let d := { d with cis := { d.cis with runs := d.cis.runs.set c none } }
    d.event c 0 0x0060 status (packFields [(0, status), (8, r.ckpt.step.toNat)])

/-- R161, R192, R299, R336, R458: a context becomes CLOSED: its shards are released, its jobs and enrolments go, its ring and
queue are detached. Its outcome records stay until the context is created again (R242). -/
def Dev.closeContext (d : Dev) (c : Fin 16) : Dev :=
  let d := (if (d.ctx c).removing then d.endCmds c else d).dropMarkers c
  let d := ((d.endCheckpoint c stAborted).withdrawAll c).closeJobs c
  let d := { d with
    upd := { d.upd with shards := d.upd.shards.filter fun e => e.2.ctx != c }
    red := { d.red with jobs := d.red.jobs.filter fun j => j.ctx != c } }
  let d := d.disown (Owner.ofCmd c fun _ => true)
  let d := d.modSlc c fun s => { s.cleared with stepState := .idle, token := none }
  (d.modCtx c fun _ => {}).setState c .closed 0

/-- CTX_CLOSE. -/
def cmdCtxClose : Command :=
  ctxCommand 0xC007 onlyCtx [.opened, .faulted] fun c d _ => ends (d.closeContext c) stOk

/-! ### Service requests (R191) -/

/-- The slots of a service opcode that are queued or running. -/
def Dev.services (d : Dev) (op : Nat) : List SvcSlot :=
  d.mbx.slots.toList.filter fun s => s.opcode == op && (s.phase == 1 || s.phase == 2)

/-- Whether a request for a target is queued or running. -/
def Dev.serviceFor (d : Dev) (op target : Nat) : Bool := (d.services op).any fun s => s.target == target

/-- The first free slot. -/
def Dev.freeSlot (d : Dev) : Option (Fin 8) := (List.finRange 8).find? fun i => d.mbx.slots[i].phase == 0

/-- Accepts a service request into a slot, unless `judge` refuses it; no free slot comes first, as in the table of R191
(DEDUCED, log 9). -/
def Dev.accept (d : Dev) (op target judge : Nat) : Dev × Option Answer :=
  match d.freeSlot with
  | none => ends d stNoResource
  | some i =>
    if judge ≠ stOk then ends d judge
    else
      let slot : SvcSlot := { opcode := op, target := target, phase := 1 }
      ends { d with mbx := { d.mbx with slots := d.mbx.slots.set i slot } } stOk

/-- A service request ends: its slot shows the result and every context not CLOSED has the event (R191). -/
def Dev.serviceEnd (d : Dev) (i : Fin 8) (status : Nat) : Dev :=
  let slot := { d.mbx.slots[i] with phase := 3, status := status }
  ({ d with mbx := { d.mbx with slots := d.mbx.slots.set i slot } }).eventAll 0x000D (packFields [(0, i.val), (8, status)])

/-- The slot of a request that is queued or running. -/
def Dev.serviceSlot (d : Dev) (op target : Nat) : Option (Fin 8) :=
  (List.finRange 8).find? fun i =>
    let s := d.mbx.slots[i]
    s.opcode == op && s.target == target && (s.phase == 1 || s.phase == 2)

/-- An array that is retired or disabled at test (R4). -/
def Dev.arrayGone (d : Dev) (a : Nat) : Bool := d.mxa.retired.getLsbD a || d.mxa.testDisabled.getLsbD a

/-- Good arrays that no pending retirement will take. -/
def Dev.arraysLeft (d : Dev) : Nat :=
  ((List.range 64).filter fun a => !d.arrayGone a && !d.serviceFor 0xC010 a).length

/-- ARRAY_RETIRE at acceptance. -/
def cmdArrayRetire : Command := fun d p =>
  let a := fieldAt p 0 1
  if !zeroAt p 1 3 || 64 ≤ a then ends d stBadArg
  else d.accept 0xC010 a
    (if d.serviceFor 0xC010 a then stBusy
    else if d.arrayGone a then stBadArg
    else if d.arraysLeft ≤ 1 then stNoResource
    else stOk)

/-- Whether a re-calibration of an array is pending or running: one asked for, the periodic one of R59, or one of R407. -/
def Dev.recalFor (d : Dev) (a : Nat) : Bool :=
  d.serviceFor 0xC011 a || d.mxa.draining == some a || d.mxa.judging.contains a

/-- ARRAY_RECAL at acceptance. -/
def cmdArrayRecal : Command := fun d p =>
  let a := fieldAt p 0 1
  if !zeroAt p 1 3 || 64 ≤ a then ends d stBadArg
  else d.accept 0xC011 a
    (if d.recalFor a || d.serviceFor 0xC010 a then stBusy
    else if d.arrayGone a then stBadArg
    else stOk)

/-- PC_RETIRE at acceptance. TARGET holds the stack in its upper byte. -/
def cmdPcRetire : Command := fun d p =>
  let pc := fieldAt p 0 1
  let s := fieldAt p 1 1
  if !zeroAt p 2 2 || 32 ≤ pc || 12 ≤ s then ends d stBadArg
  else d.accept 0xC012 (256 * s + pc)
    (if d.pcGone s pc then stBadArg
    else if 4 ≤ d.rsv.windows.toList.getD s 0 + d.retirementsWaiting s then stNoResource
    else stOk)

/-- MBX_SVC_FREE (R191): a write of FREE frees a slot in phase 3 and is ignored in others. -/
def Dev.svcFree (d : Dev) (i : Fin 8) : Dev :=
  if d.mbx.slots[i].phase = 3 then { d with mbx := { d.mbx with slots := d.mbx.slots.set i {} } } else d

/-! ### Rows -/

/-- CTX_CREATE (R190). -/
def execCtxCreate (p : List Byte) (s : State) : Host.Outcome State Fault Refusal := done s (s.dev.submit 0xC000 p cmdCtxCreate)
/-- CTX_START (R190). -/
def execCtxStart (p : List Byte) (s : State) : Host.Outcome State Fault Refusal := done s (s.dev.submit 0xC001 p cmdCtxStart)
/-- CTX_HOLD (R190). -/
def execCtxHold (p : List Byte) (s : State) : Host.Outcome State Fault Refusal := done s (s.dev.submit 0xC002 p cmdCtxHold)
/-- CTX_RESUME (R190). -/
def execCtxResume (p : List Byte) (s : State) : Host.Outcome State Fault Refusal := done s (s.dev.submit 0xC003 p cmdCtxResume)
/-- CTX_DRAIN (R190). -/
def execCtxDrain (p : List Byte) (s : State) : Host.Outcome State Fault Refusal := done s (s.dev.submit 0xC004 p cmdCtxDrain)
/-- CTX_RESET (R190). -/
def execCtxReset (p : List Byte) (s : State) : Host.Outcome State Fault Refusal := done s (s.dev.submit 0xC005 p cmdCtxReset)
/-- CTX_REARM (R190). -/
def execCtxRearm (p : List Byte) (s : State) : Host.Outcome State Fault Refusal := done s (s.dev.submit 0xC006 p cmdCtxRearm)
/-- CTX_CLOSE (R190). -/
def execCtxClose (p : List Byte) (s : State) : Host.Outcome State Fault Refusal := done s (s.dev.submit 0xC007 p cmdCtxClose)
/-- ARRAY_RETIRE (R190, R191). -/
def execArrayRetire (p : List Byte) (s : State) : Host.Outcome State Fault Refusal := done s (s.dev.submit 0xC010 p cmdArrayRetire)
/-- ARRAY_RECAL (R190, R191). -/
def execArrayRecal (p : List Byte) (s : State) : Host.Outcome State Fault Refusal := done s (s.dev.submit 0xC011 p cmdArrayRecal)
/-- PC_RETIRE (R190, R191). -/
def execPcRetire (p : List Byte) (s : State) : Host.Outcome State Fault Refusal := done s (s.dev.submit 0xC012 p cmdPcRetire)
/-- MBX_SVC_FREE (R191). -/
def execMbxSvcFree (slot : Fin 8) (s : State) : Host.Outcome State Fault Refusal := done s (s.dev.svcFree slot)

end Sys2Proof.Machine
end

