-- ==== Sys2Proof/Machine/ShardCommands.lean ====
section
/-! DEFINITION. Mailbox commands on shards (R192 to R196, R223), the sluice (R228 to R230, R254) and the turnout (R326, R327,
R339). -/

namespace Sys2Proof.Machine

open Sys2Proof

/-! ### SHARD_REGISTER (R193 to R196, R223) -/

/-- The shard that a SHARD_REGISTER payload describes; its home is found from SLOT0. -/
def shardOfPayload (p : List Byte) : Shard :=
  let axes := fieldAt p 3 1
  { ctx := ctxOf p, form := fieldAt p 1 1, layout := fieldAt p 2 1, axes := axes, layer := fieldAt p 6 2, tensor := fieldAt p 8 4
    ranges := (List.range axes).map fun i => (fieldAt p (16 + 8 * i) 4, fieldAt p (20 + 8 * i) 4)
    extent := (List.range axes).map fun i => fieldAt p (48 + 4 * i) 4
    slot0 := fieldAt p 64 8, slot1 := fieldAt p 72 8, home := unitOf (fieldAt p 64 8) }

/-- What the payload alone decides: reserved fields, unused axes and the field ranges (R9, R162, R193, R216). -/
def registerOkPayload (p : List Byte) : Bool :=
  let axes := fieldAt p 3 1
  decide (fieldAt p 1 1 < 16) && (bitOf (fieldAt p 1 1) 1 || !bitOf (fieldAt p 1 1) 2) && decide (fieldAt p 2 1 < 4)
    && axes == fieldAt p 2 1 + 1 && decide (fieldAt p 6 2 < 4096) && zeroAt p 12 4 && zeroAt p 80 8
    && (axes == 4 || (zeroAt p (16 + 8 * axes) (32 - 8 * axes) && zeroAt p (48 + 4 * axes) (16 - 4 * axes)))
    && ((shardOfPayload p).ranges.zip (shardOfPayload p).extent).all fun e => decide (e.1.1 < e.1.2) && decide (e.1.2 ≤ e.2)

/-- The combinations of form and shape that R194 allows. -/
def Shard.formOk (x : Shard) : Bool :=
  let last := x.ranges.getLast?.getD (0, 0)
  (!x.factored || (x.layout != 0 && last == (0, x.extent.getLast?.getD 0)))
    && (!x.hasWc || (x.layout != 0 && aligned x.rows 32 && aligned x.cols 32))
    && (!x.momBs8 || aligned x.cols 32)
    && (x.factored || x.hasMom)

/-- Whether [a, a + n) lies in one memory controller's range, aligned to 4 KiB, and touches no reserved range, removed window
or slot of a registered shard (R196). -/
def Dev.areaOk (d : Dev) (a n : Nat) : Bool :=
  aligned a 4096 && d.slowStatus a n == stOk && unitOf a == unitOf (a + n - 1)
    && d.upd.shards.all fun e => !overlaps a n e.2.slot0 e.2.slotSize && !overlaps a n e.2.slot1 e.2.slotSize

/-- SHARD_REGISTER. -/
def cmdShardRegister : Command :=
  ctxCommand 0xC040 registerOkPayload [.opened, .holding] fun _ d p =>
    let x := shardOfPayload p
    let h := fieldAt p 4 2
    let n := x.slotSize
    if (d.shard? h).isSome || !x.formOk || !d.areaOk x.slot0 n || !d.areaOk x.slot1 n || overlaps x.slot0 n x.slot1 n
        || unitOf x.slot0 ≠ unitOf x.slot1 then ends d stBadArg
    else if 65536 ≤ d.upd.shards.length then ends d stNoResource
    else (d.setShard h x, some { status := stOk, resp := toLe 8 n })

/-! ### SHARD_RELEASE and SHARD_QUERY (R199, R223, R338, R455) -/

/-- The payload of CTX and HANDLE. -/
def onlyHandle (p : List Byte) : Bool := zeroAt p 1 1

/-- Whether a step that the device has voted ready on holds a shard's staging (R199). -/
def Dev.frozenShard (d : Dev) (x : Shard) : Bool :=
  let st := (d.slc x.ctx).stepState
  x.state == .staged && (st == .voted || st == .inDoubt)

/-- Whether an export of a handle runs, or a checkpoint pins it. -/
def Dev.exporting (d : Dev) (h : Nat) : Bool := d.pinned h 0 || d.pinned h 1

/-- SHARD_RELEASE. -/
def cmdShardRelease : Command :=
  ctxCommand 0xC041 onlyHandle [.opened, .holding, .faulted] fun c d p =>
    let h := fieldAt p 2 2
    match d.shard? h with
    | none => ends d stBadArg
    | some x =>
      if x.ctx ≠ c || (d.enrol? h).isSome then ends d stBadArg
      else if x.state = .staged || d.exporting h || d.importing h then ends d stBusy
      else ends { d with upd := { d.upd with shards := d.upd.shards.filter fun e => e.1 != h } } stOk

/-- SHARD_QUERY. -/
def cmdShardQuery : Command :=
  ctxCommand 0xC042 onlyHandle notClosed fun c d p =>
    match d.shard? (fieldAt p 2 2) with
    | none => ends d stBadArg
    | some x =>
      if x.ctx ≠ c then ends d stBadArg
      else (d, some { status := stOk, resp := layout 24 [(0, 1, x.state.code),
        (1, 1, packFields [(0, x.live), (1, bit (d.frozenShard x))]), (2, 2, x.home), (8, 8, x.step.toNat), (16, 8, x.slotSize)] })

/-! ### The sluice (R228 to R230, R242, R254) -/

/-- Codes of R245. -/
def StepState.code : StepState → Nat
  | .idle => 0
  | .active => 1
  | .voted => 2
  | .inDoubt => 3
  | .repeatWait => 4

/-- Outcome and attempt that OUTCOME_QUERY reports. The manual gives no attempt for a step below the next one whose record the
device no longer holds, nor for one above it: a free value (log 2). -/
def Slc.outcomeOf (s : Slc) (n : W64) (free : W64) : Nat × Nat :=
  if s.epoch ≠ noStep && n.toNat ≤ s.epoch.toNat then
    (1, match s.records.find? fun r => r.step == n && r.commit with
      | some r => r.attempt.toNat
      | none => free.toNat % 2 ^ 32)
  else if n = s.step then
    if s.stepState ≠ .idle then (0, s.attempt.toNat)
    else if s.attempt ≠ 0 then (2, (s.attempt - 1).toNat)
    else (0, 0)
  else (3, free.toNat % 2 ^ 32)

/-- OUTCOME_QUERY. -/
def cmdOutcomeQuery : Command :=
  ctxCommand 0xC080 (fun p => zeroAt p 1 7) notClosed fun c d p =>
    let n := BitVec.ofNat 64 (fieldAt p 8 8)
    let s := d.slc c
    let (k, d) := d.draw
    let (o, a) := s.outcomeOf n (Config.freeWord k)
    let resp := layout 16 [(0, 1, o), (1, 1, s.stepState.code), (4, 4, a), (8, 8, s.epoch.toNat)]
    let d := if s.stepState = .inDoubt && n == s.step then d.askNow c else d
    (d, some { status := stOk, resp := resp })

/-- The COUNT entries of a member list. -/
def memberList (count : Nat) (bs : List Byte) : List Nat := (List.range count).map fun i => fieldAt bs (4 * i) 4

/-- R230: reserved bits 0, each fabric ID once, and the own entry at the own index. -/
def Dev.membersOk (d : Dev) (c : Fin 16) (index : Nat) (ms : List Nat) : Bool :=
  ms.all (fun m => decide (m < 2 ^ 24)) && ms.getD index 0 == d.fab.id + 2 ^ 20 * c.val
    && decide ((ms.map fun m => m % 2 ^ 20).eraseDups.length = ms.length)

/-- Sets a ring: the records of the former ring, which answered to its tag only, are dropped (DEDUCED, log 18). -/
def Slc.setRing (s : Slc) (count index : Nat) (tag : W32) (check step : W64) (ms : List Nat) : Slc :=
  { s.cleared with
    isSet := true, count := count, index := index, tag := tag, check := check, members := ms, step := step, attempt := 0
    token := none, records := [] }

/-- What the payload of RING_SET alone decides: COUNT and INDEX, and a list in HBM3E or LPDDR5X, aligned to 8 bytes. -/
def ringOkPayload (p : List Byte) : Bool :=
  let n := fieldAt p 4 4
  let region := regionOfRange (fieldAt p 16 8) (4 * n)
  zeroAt p 1 3 && decide (1 ≤ n) && decide (n ≤ 65568) && decide (fieldAt p 8 4 < n) && aligned (fieldAt p 16 8) 8
    && (region == .hbm || region == .lpddr)

/-- RING_SET. -/
def cmdRingSet : Command :=
  ctxCommand 0xC081 ringOkPayload [.opened, .holding] fun c d p =>
    let n := fieldAt p 4 4
    let index := fieldAt p 8 4
    let a := fieldAt p 16 8
    if d.slowStatus a (4 * n) ≠ stOk then ends d stBadArg
    else if (d.slc c).stepState ≠ .idle then ends d stBusy
    else d.whenFree [(a, 4 * n)] fun d =>
      match d.readBytes srcWork a (4 * n) with
      | (d, none) => ends d stUncorrectable
      | (d, some bs) =>
        let ms := memberList n bs
        if !d.membersOk c index ms then ends d stBadArg
        else
          let tag := BitVec.ofNat 32 (fieldAt p 12 4)
          let check := shaCheck (toLe 4 tag.toNat ++ toLe 4 n ++ bs)
          let d := d.modSlc c fun s => s.setRing n index tag check (BitVec.ofNat 64 (fieldAt p 24 8)) ms
          (d.purgeReady c, some { status := stOk, resp := toLe 8 check.toNat })

/-! ### The turnout (R326, R327, R339) -/

/-- Copies whole granules; one that can not be read leaves its copy poisoned (DEDUCED, log 14). -/
def Dev.copyGranules (d : Dev) (from_ to_ n : Nat) : Dev :=
  (List.range (n / 32)).foldl (fun d i =>
    match d.readBytes srcWork (from_ + 32 * i) 32 with
    | (d, some bs) => { d with mem := d.mem.store (to_ + 32 * i) bs }
    | (d, none) => { d with mem := d.mem.poisonGranule ((to_ + 32 * i) / 32) }) d

/-- R326: both anchors take the live W and REM planes; outer momenta and feedback planes become zero. -/
def Dev.startArea (d : Dev) (x : Shard) (e : Enrol) (l : Nat) : Dev :=
  let p := x.size
  let d := [0, 1].foldl (fun d i =>
    let a := e.plane p l i
    (d.copyGranules (x.liveBase + x.planeOff 0) a (2 * p)).copyGranules (x.liveBase + x.planeOff 1) (a + alignUp (2 * p) 4096) p) d
  { d with mem := [2, 3, 4, 5].foldl (fun m i => m.store (e.plane p l i) (List.replicate (2 * p) 0)) d.mem }

/-- The partners of a TRN_ENROL payload. -/
def partnersOf (p : List Byte) : List Partner :=
  (List.range (fieldAt p 1 1)).map fun i =>
    let b := 32 + 16 * i
    { fid := fieldAt p b 4 % 2 ^ 20, ctx := bitsOf (fieldAt p b 4) 20 4, handle := fieldAt p (b + 4) 2, recv := fieldAt p (b + 8) 8 }

/-- What the payload alone decides. -/
def enrolOkPayload (p : List Byte) : Bool :=
  let n := fieldAt p 1 1
  decide (1 ≤ n) && decide (n ≤ 7) && zeroAt p 24 8 && aligned (fieldAt p 8 8) 4096
    && (List.range n).all fun i => decide (fieldAt p (32 + 16 * i) 4 < 2 ^ 24) && zeroAt p (38 + 16 * i) 2

/-- Whether an area touches one of another enrolled shard (R326, DEDUCED, log 14). -/
def Dev.areaTaken (d : Dev) (a n : Nat) : Bool :=
  d.trn.enrols.any fun e =>
    match d.shard? e.handle with
    | none => false
    | some x => overlaps a n e.area (areaBytes x.size e.partners.length (d.staleOf x.ctx))

/-- TRN_ENROL. -/
def cmdTrnEnrol : Command :=
  ctxCommand 0xC0C8 enrolOkPayload [.opened, .holding] fun c d p =>
    let h := fieldAt p 2 2
    let ps := partnersOf p
    let sites := ps.map fun q => siteOf q.fid
    match d.shard? h with
    | none => ends d stBadArg
    | some x =>
      let l := d.staleOf c
      let a := fieldAt p 8 8
      let n := areaBytes x.size ps.length l
      if x.ctx ≠ c then ends d stBadArg
      else if x.lost then ends d stNoResource
      else if x.state ≠ .seeded || (d.enrol? h).isSome || !aligned x.cols 32 || sites.contains (siteOf d.fab.id)
          || sites.eraseDups.length ≠ sites.length
          || ps.any (fun q => d.sideStatus false [(localOf q.recv, (l + 1) * deltaPitch x.size)] != stOk) || !d.areaOk a n || unitOf a ≠ x.home || d.areaTaken a n then ends d stBadArg
      else if fieldAt p 16 8 < n then ends d stNoResource
      else d.whenFree [(x.liveBase, x.slotSize), (a, n)] fun d =>
        let e : Enrol := { handle := h, ctx := c, firstRound := fieldAt p 4 4, area := a, partners := ps }
        let d := d.startArea x e l
        ({ d with trn := { d.trn with enrols := d.trn.enrols ++ [e] } }, some { status := stOk, resp := toLe 8 n })

/-- TRN_WITHDRAW. -/
def cmdTrnWithdraw : Command :=
  ctxCommand 0xC0C9 onlyHandle [.opened, .holding, .faulted] fun c d p =>
    let h := fieldAt p 2 2
    match d.enrol? h with
    | none => ends d stBadArg
    | some e =>
      if e.ctx ≠ c then ends d stBadArg
      else if e.applyStaged then ends d stBusy
      else ends (d.withdraw h) stOk

/-! ### Rows -/

/-- SHARD_REGISTER (R223). -/
def execShardRegister (p : List Byte) (s : State) : Host.Outcome State Fault Refusal :=
  done s (s.dev.submit 0xC040 p cmdShardRegister)
/-- SHARD_RELEASE (R223). -/
def execShardRelease (p : List Byte) (s : State) : Host.Outcome State Fault Refusal := done s (s.dev.submit 0xC041 p cmdShardRelease)
/-- SHARD_QUERY (R223). -/
def execShardQuery (p : List Byte) (s : State) : Host.Outcome State Fault Refusal := done s (s.dev.submit 0xC042 p cmdShardQuery)
/-- OUTCOME_QUERY (R254). -/
def execOutcomeQuery (p : List Byte) (s : State) : Host.Outcome State Fault Refusal := done s (s.dev.submit 0xC080 p cmdOutcomeQuery)
/-- RING_SET (R228, R254). -/
def execRingSet (p : List Byte) (s : State) : Host.Outcome State Fault Refusal := done s (s.dev.submit 0xC081 p cmdRingSet)
/-- TRN_ENROL (R326, R339). -/
def execTrnEnrol (p : List Byte) (s : State) : Host.Outcome State Fault Refusal := done s (s.dev.submit 0xC0C8 p cmdTrnEnrol)
/-- TRN_WITHDRAW (R339). -/
def execTrnWithdraw (p : List Byte) (s : State) : Host.Outcome State Fault Refusal := done s (s.dev.submit 0xC0C9 p cmdTrnWithdraw)

end Sys2Proof.Machine
end

