-- ==== Sys2Proof/Machine/Cistern.lean ====
section
/-! DEFINITION. The cistern (R449 to R462): the journal, checkpoints, rollback (R252, R253), retention, and its mailbox commands.
What the flash holds of a checkpoint is kept shard by shard (log 18). -/

namespace Sys2Proof.Machine

open Sys2Proof

/-! ### Accessors -/

/-- READY of CIS_STATE. -/
def cisReady : Nat := 2

/-- OWNER of context `c` of this device (R453). -/
def Dev.owner (d : Dev) (c : Fin 16) : Nat := d.fab.id + 2 ^ 20 * c.val

/-- Changes the checkpoint that context `c` runs. -/
def Dev.modRun (d : Dev) (c : Fin 16) (f : CkptRun → CkptRun) : Dev :=
  { d with cis := { d.cis with runs := d.cis.runs.set c (d.cis.runs[c].map f) } }

/-- Bytes of a checkpoint's shards: each a descriptor and its payload. -/
def Ckpt.bytes (k : Ckpt) : Nat := k.shards.foldl (fun t s => t + s.descriptor.length + s.payload.length) 0

/-- Whether another `n` bytes still fit beside the checkpoints that the flash holds. What the journal, the spare blocks and
metadata take of it is not given; they are not counted (log 18). -/
def Dev.flashFull (d : Dev) (c : Fin 16) (n : Nat) : Bool :=
  let mine := match d.cis.runs[c] with
    | some r => r.ckpt.bytes
    | none => 0
  decide (d.cis.totalMib * 2 ^ 20 < d.cis.ckpts.foldl (fun t k => t + k.bytes) 0 + mine + n)

/-- A complete checkpoint that can be used: no page of it is lost (R460). -/
def Dev.ckpt? (d : Dev) (owner : Nat) (step : W64) : Option Ckpt :=
  d.cis.ckpts.find? fun k => k.owner == owner && k.step == step && !k.bad

/-- The bytes that a capture of a context takes: descriptor and SET 0 payload of each shard, one after the other (R455). -/
def Dev.captureSize (d : Dev) (c : Fin 16) : Nat :=
  (d.shardsOf c).foldl (fun t e => t + 128 + e.2.payloadLen 0) 0

/-! ### The journal (R453, R454) -/

/-- A journal entry of 8 KiB. -/
def journalEntry (jseq owner : Nat) (body : List Byte) : List Byte :=
  let head := padTo 4240 (toLe 8 jseq ++ toLe 4 owner ++ toLe 4 0 ++ body)
  padTo 8192 (head ++ sha384 head)

/-- The oldest queued entry goes to its ring. Accesses stall while REFCLK is lost (R389); without a format, or read-only,
nothing is written (R452). -/
def Dev.writeJournal (d : Dev) : Dev :=
  if d.clk.refLost || d.cis.state ≠ cisReady then d else
    match d.cis.queue with
    | [] => d
    | (c, body) :: r =>
      let j := d.cis.jseq.toList.getD c 0
      let owner := d.fab.id + 2 ^ 20 * c
      { d with cis := { d.cis with
        queue := r
        jseq := modVec d.cis.jseq c (· + 1)
        journal := insertKey (65536 * c + j % 65536) (journalEntry j owner body) d.cis.journal } }

/-- JOURNAL_ENTRY_WRITE (R454). -/
def execJournalEntryWrite (s : State) : Host.Outcome State Fault Refusal := done s s.dev.writeJournal

/-! ### Checkpoints (R455 to R458) -/

/-- Reads the payload of a captured slot. -/
def Dev.readPayload (d : Dev) (x : Shard) (slot : Nat) : Dev × Except Nat (List Byte) :=
  let base := x.slotBase slot
  let n := x.payloadLen 0
  match d.readView ((x.payloadRanges 0 base 0 n).map fun r => (r.1, r.2.2)) [] with
  | (d, .error a) => (d, .error a)
  | (d, .ok v) => (d, .ok (x.payloadBytes v 0 base 0 n))

/-- The shard goes to flash, unless the cistern is full or read-only (R458). -/
def Dev.toFlash (d : Dev) (c : Fin 16) (x : CkptShard) : Dev :=
  let n := x.descriptor.length + x.payload.length
  if d.cis.state ≠ cisReady || d.flashFull c n then d.endCheckpoint c stNoResource
  else
    let d := d.modRun c fun r => { r with ckpt := { r.ckpt with shards := r.ckpt.shards ++ [x] } }
    match d.cis.runs[c] with
    | some r =>
      let bytes := r.ckpt.shards.foldl (fun t s => t + s.payload.length) 0
      { d with cis := { d.cis with doneGib := d.cis.doneGib.set c (bytes / gib) } }
    | none => d

/-- Copies the next captured shard into BUF; its pin is released. After the last one the writing begins (R455). -/
def Dev.copyShard (d : Dev) (c : Fin 16) (r : CkptRun) (h slot : Nat) (x : Shard) : Dev :=
  match d.readPayload x slot with
  | (d, .error _) => d.endCheckpoint c stUncorrectable
  | (d, .ok pay) =>
    let bytes := x.descriptor 0 slot r.ckpt.step (sha384 pay) ++ pay
    let at_ := r.buf + r.bufOff
    match d.access [(at_, bytes.length)] with
    | (d, false) => d
    | (d, true) =>
      let d := (d.writeBytes at_ bytes).1
      d.modRun c fun r =>
        let left := r.left.drop 1
        { r with
          left := left, bufOff := if left.isEmpty then 0 else r.bufOff + bytes.length
          copied := r.copied ++ [(h, bytes.length)], phase := if left.isEmpty then 2 else 1 }

/-- Writes the next shard to flash: from BUF, or straight from its slot, whose pin is then released. -/
def Dev.flashShard (d : Dev) (c : Fin 16) (r : CkptRun) : Dev :=
  match r.copied, r.left with
  | (h, n) :: rest, _ =>
    match d.readBytes srcWork (r.buf + r.bufOff) n with
    | (d, none) => d.endCheckpoint c stUncorrectable
    | (d, some bs) =>
      let d := d.modRun c fun r =>
        { r with copied := rest, bufOff := r.bufOff + n, phase := if rest.isEmpty then 3 else 2 }
      d.toFlash c { handle := h, descriptor := bs.take 128, payload := bs.drop 128 }
  | [], (h, slot) :: rest =>
    match d.shard? h with
    | none => d
    | some x =>
      match d.readPayload x slot with
      | (d, .error _) => d.endCheckpoint c stUncorrectable
      | (d, .ok pay) =>
        let d := d.modRun c fun r => { r with left := rest, phase := if rest.isEmpty then 3 else 2 }
        d.toFlash c { handle := h, descriptor := x.descriptor 0 slot r.ckpt.step (sha384 pay), payload := pay }
  | [], [] => d

/-- The local ranges that the next piece of a checkpoint reads. -/
def Dev.ckptReads (d : Dev) (r : CkptRun) : List (Nat × Nat) :=
  match r.copied, r.left with
  | _, (h, slot) :: _ => match d.shard? h with
    | some x => [(x.slotBase slot, x.slotSize)]
    | none => []
  | (_, n) :: _, [] => [(r.buf + r.bufOff, n)]
  | [], [] => []

/-- The next shard of a checkpoint is copied or written. -/
def Dev.shardWritten (d : Dev) (c : Fin 16) : Dev :=
  match d.cis.runs[c] with
  | none => d
  | some r =>
    if d.clk.refLost then d
    else match d.access (d.ckptReads r) with
      | (d, false) => d
      | (d, true) =>
        if r.phase = 1 then
          match r.left with
          | (h, slot) :: _ => match d.shard? h with
            | some x => d.copyShard c r h slot x
            | none => d
          | [] => d
        else if r.phase = 2 then d.flashShard c r
        else d

/-- CHECKPOINT_SHARD_WRITTEN (R455). -/
def execCheckpointShardWritten (c : Fin 16) (s : State) : Host.Outcome State Fault Refusal := done s (s.dev.shardWritten c)

/-- R457: the newest KEEP complete checkpoints of an owner stay. -/
def keepNewest (owner keep : Nat) (ks : List Ckpt) : List Ckpt :=
  let steps := (sortBy (fun k => k.step.toNat) (ks.filter fun k => k.owner == owner)).map (·.step)
  let old := steps.take (steps.length - keep)
  ks.filter fun k => k.owner != owner || !old.contains k.step

/-- The manifest is programmed and read back: the checkpoint is complete, and older ones are freed. One of the same owner and
step is replaced. -/
def Dev.writeManifest (d : Dev) (c : Fin 16) : Dev :=
  match d.cis.runs[c] with
  | none => d
  | some r =>
    if r.phase ≠ 3 || d.clk.refLost then d
    else if d.cis.state ≠ cisReady then d.endCheckpoint c stNoResource
    else
      let k := r.ckpt
      let ks := (d.cis.ckpts.filter fun q => !(q.owner == k.owner && q.step == k.step)) ++ [k]
      ({ d with cis := { d.cis with ckpts := keepNewest k.owner d.cis.keep[c] ks } }).endCheckpoint c stOk

/-- CHECKPOINT_MANIFEST_WRITE (R456, R457). -/
def execCheckpointManifestWrite (c : Fin 16) (s : State) : Host.Outcome State Fault Refusal := done s (s.dev.writeManifest c)

/-- The committed step record of SLC_EPOCH. A context that has adopted its state has none of its own (R419): what the adopted
state does not tell of it, ATTEMPTS, KIND and TIME, are free values (log 18). -/
def Dev.recordFor (d : Dev) (c : Fin 16) : List Byte × Dev :=
  let s := d.slc c
  match s.lastRecord with
  | some r => (r, d)
  | none =>
    let (k, d) := d.draw
    let r : Record := {
      step := s.epoch, attempt := BitVec.ofNat 32 (Config.freeWord k).toNat, commit := true, overflow := false
      kind := Config.freeBool k, byDeputy := false, cause := 0, status := 0, abortBy := BitVec.allOnes 32, ls := s.ls
      table := s.scale }
    let (bs, d) := d.drawBytes 8
    (splice (d.committedRecord c r) 40 bs, d)

/-- What a capture takes at its instant: every shard's live slot, ascending, with the committed record and table (R455). -/
def Dev.capture (d : Dev) (c : Fin 16) (buf bufLen : Nat) : Dev :=
  let s := d.slc c
  let (record, d) := d.recordFor c
  let run : CkptRun := {
    phase := if bufLen = 0 then 2 else 1, buf := buf, bufLen := bufLen
    left := (d.shardsOf c).map fun e => (e.1, e.2.live)
    ckpt := { owner := d.owner c, step := s.epoch, record := record, table := mapBytes s.scale, shards := [] } }
  { d with cis := { d.cis with runs := d.cis.runs.set c (some run), doneGib := d.cis.doneGib.set c 0 } }

/-- CIS_CHECKPOINT (R455, R458, R461); where more than one status applies, the first of its list (DEDUCED, log 18). -/
def cmdCisCheckpoint : Command :=
  ctxCommand 0xC202 (fun p => zeroAt p 1 7 && aligned (fieldAt p 8 8) 4096) [.opened, .running, .holding, .draining] fun c d p =>
    let buf := fieldAt p 8 8
    let n := fieldAt p 16 8
    let xs := (d.shardsOf c).map (·.2)
    if (d.slc c).epoch = noStep || xs.isEmpty || xs.any (fun x => x.state == .unseeded && !x.lost)
        || fidOf buf != 0 || (n != 0 && d.slowStatus buf n == stBadArg) then ends d stBadArg
    else if d.cis.runs[c].isSome then ends d stBusy
    else if d.cis.state ≠ cisReady || xs.any (·.lost) || (n != 0 && (decide (n < d.captureSize c) || d.slowStatus buf n != stOk)) then
      ends d stNoResource
    else ends (d.capture c buf n) stOk

/-! ### Space, lists and fetches (R457, R459, R461) -/

/-- CIS_INFO. How much is free is not given (log 18): a free value, at most the total. -/
def cmdCisInfo : Command := fun d p =>
  if !ctxByteOk p || !zeroAt p 1 3 then ends d stBadArg
  else
    let (k, d) := d.draw
    let freeMib := (Config.freeWord k).toNat % (d.cis.totalMib + 1)
    (d, some { status := stOk, resp := toLe 8 d.cis.totalMib ++ toLe 8 freeMib ++ toLe 8 (d.captureSize (ctxOf p)) })

/-- CIS_FORMAT (R452). -/
def cmdCisFormat : Command := fun d p =>
  if fieldAt p 0 4 ≠ 1 then ends d stBadArg
  else if d.cis.runs.any (·.isSome) then ends d stBusy
  else if d.cis.state = 0 then ends d stOk
  else d.whenCistern fun d =>
    let st := if d.cis.state = 3 then 3 else cisReady
    let cis := { d.cis with
      state := st, flash := st, jseq := Vector.replicate 16 0, journal := [], ckpts := [] }
    ends { d with cis := cis } stOk

/-- OWNER of a payload: fabric ID 0 for the own one (R461). -/
def Dev.ownerOf (d : Dev) (p : List Byte) : Nat :=
  let fid := fieldAt p 4 4
  (if fid = 0 then d.fab.id else fid) + 2 ^ 20 * (ctxOf p).val

/-- The CTX byte, reserved bytes, and a fabric ID of 20 bits. -/
def ownerOkPayload (p : List Byte) : Bool := ctxByteOk p && zeroAt p 1 3 && decide (fieldAt p 4 4 < 2 ^ 20)

/-- CIS_LIST: as many entries as DST_LEN holds are written; COUNT is how many there are (log 18). -/
def cmdCisList : Command := fun d p =>
  let dst := fieldAt p 8 8
  let room := fieldAt p 16 8 / 16
  if !ownerOkPayload p then ends d stBadArg
  else
    let owner := d.ownerOf p
    let ks := sortBy (fun k => k.step.toNat) (d.cis.ckpts.filter fun k => k.owner == owner && !k.bad)
    let bs := (ks.take room).flatMap fun k => toLe 8 k.step.toNat ++ toLe 8 k.bytes
    if fidOf dst ≠ 0 || (fieldAt p 16 8 ≠ 0 && d.rangeStatus dst (fieldAt p 16 8) ≠ stOk) then ends d stBadArg
    else d.whenCistern fun d => d.whenFree [(dst, bs.length)] fun d =>
      ((d.writeBytes dst bs).1, some { status := stOk, resp := toLe 4 ks.length })

/-- CIS_DISCARD. No checkpoint to free is BAD_ARG (DEDUCED, log 18). -/
def cmdCisDiscard : Command := fun d p =>
  if !ownerOkPayload p then ends d stBadArg
  else
    let owner := d.ownerOf p
    let step := BitVec.ofNat 64 (fieldAt p 8 8)
    if !d.cis.ckpts.any fun k => k.owner == owner && k.step == step then ends d stBadArg
    else d.whenCistern fun d =>
      let ks := d.cis.ckpts.filter fun k => !(k.owner == owner && k.step == step)
      ends { d with cis := { d.cis with ckpts := ks } } stOk

/-- CIS_FETCH: a descriptor and its payload go to DST; the payload is verified first (R459). -/
def cmdCisFetch : Command := fun d p =>
  let dst := fieldAt p 24 8
  let room := fieldAt p 32 8
  if !ownerOkPayload p || !zeroAt p 20 4 then ends d stBadArg
  else d.whenCistern fun d => match (d.ckpt? (d.ownerOf p) (BitVec.ofNat 64 (fieldAt p 8 8))).bind fun k => k.shards[fieldAt p 16 4]? with
    | none => ends d stNoResource
    | some x =>
      let bs := x.descriptor ++ x.payload
      if room < bs.length || d.rangeStatus dst bs.length = stBadArg then ends d stBadArg
      else if d.rangeStatus dst bs.length ≠ stOk then ends d stNoResource
      else if sha384 x.payload ≠ (x.descriptor.drop 80).take 48 then ends d stAuthFail
      else d.whenFree [(dst, bs.length)] fun d =>
        match d.writeBytes dst bs with
        | (d, true) => ends d stOk
        | (d, false) => ends d stUncorrectable

/-- The slots of a journal ring from FIRST_JSEQ on; one never written reads as erased flash, all ones (DESIGN CHOICE,
log 18). -/
def Dev.journalRead (d : Dev) (c first count : Nat) : List Byte :=
  (List.range count).flatMap fun i =>
    lookupD (65536 * c + (first + i) % 65536) (List.replicate 8192 0xFF) d.cis.journal

/-- CIS_JOURNAL_READ. -/
def cmdCisJournalRead : Command := fun d p =>
  let count := min 65536 (fieldAt p 4 4)
  let dst := fieldAt p 16 8
  if !ctxByteOk p || !zeroAt p 1 3 || fidOf dst ≠ 0 then ends d stBadArg
  else if count = 0 then ends d stOk
  else if d.rangeStatus dst (8192 * count) ≠ stOk then ends d stBadArg
  else d.whenCistern fun d =>
    let bs := d.journalRead (fieldAt p 0 1) (fieldAt p 8 8) count
    d.whenFree [(dst, bs.length)] fun d => ends (d.writeBytes dst bs).1 stOk

/-! ### Rollback (R252, R253, R459) -/

/-- The shard of a checkpoint that has a registered shard's tensor and ranges. -/
def Ckpt.match? (k : Ckpt) (x : Shard) : Option CkptShard :=
  k.shards.find? fun s => match descriptorOf s.descriptor with
    | some g => g.shape.tensor == x.tensor && g.shape.ranges == x.ranges
    | none => false

/-- The import of a checkpointed shard into a slot of a registered one; the payload lies beyond every address. -/
def rollbackRun (x : Shard) (g : ImportSrc) (slot : Nat) : ImportRun :=
  ⟨{ x with colvCleared := false }, g, x.slotBase slot, x.ranges, 2 ^ 60⟩

/-- Writes one shard, piece by piece; false when a granule can not be read. -/
def Dev.restoreShard (d : Dev) (mode : FpMode) (r : ImportRun) (payload : List Byte) : Dev × Bool :=
  let v := cellsOf r.pb payload
  (List.range (payloadPieces r.g.len)).foldl (fun acc i =>
    if !acc.2 then acc else
      let piece := r.piece mode none 0 i
      match acc.1.readView piece.own [] with
      | (d, .error _) => (d, false)
      | (d, .ok own) =>
        (piece.build v own).1.foldl (fun a w =>
          let (d, ok) := a.1.writeBytes w.1 w.2
          (d, a.2 && ok)) (d, true)) (d, true)

/-- R253, step 1: the record's table digest and every payload's digest. -/
def Ckpt.verified (k : Ckpt) (ss : List CkptShard) : Bool :=
  sha384 k.table == (k.record.drop 48).take 48 && ss.all fun s => sha384 s.payload == (s.descriptor.drop 80).take 48

/-- Step 3 for every shard in turn. -/
def Dev.restoreAll (d : Dev) (c : Fin 16) (slot : Nat) (step : W64) : List (Nat × Shard × CkptShard) → Dev × Bool
  | [] => (d, true)
  | (h, x, s) :: rest =>
    match descriptorOf s.descriptor with
    | none => (d, false)
    | some g =>
      match d.restoreShard (d.ctx c).ovf (rollbackRun x g slot) s.payload with
      | (d, false) => (d, false)
      | (d, true) =>
        let d := d.modShard h fun x => { x with live := slot, step := step }
        d.restoreAll c slot step rest

/-- Steps 4 and 5 of R253, at one instant (R226); the dry counts become 0 (R359), and the event says that the rollback is complete
(R255). -/
def Dev.installRecord (d : Dev) (c : Fin 16) (k : Ckpt) : Dev :=
  let d := d.modSlc c fun s =>
    { s.cleared with
      stepState := .idle, attempt := 0, epoch := k.step, step := k.step + 1, scale := mapOf k.table
      ls := { s := fieldAt k.record 13 1, warm := bitOf (fieldAt k.record 14 1) 0, clean := fieldAt k.record 16 2 }
      lastRecord := some k.record, meters := {}, specMeters := {} }
  let d := d.modShards (Shard.ofCtx c) fun x => { x with state := .seeded, committed := true }
  ((d.clearDry c).purgeReady c).eventAt c 0 0x0015 0 k.step 0

/-- The effect of a rollback that has been accepted. -/
def Dev.rollback (d : Dev) (c : Fin 16) (k : Ckpt) (ss : List (Nat × Shard × CkptShard)) : Dev × Option Answer :=
  let d := d.withdrawAll c
  let d := d.modShards (Shard.ofCtx c) fun x =>
    { x with state := .unseeded, committed := false, byImport := false, boxes := [], colvCleared := false, outBoxes := [], outColv := false
             report := none, imported := false, step := noStep }
  match d.restoreAll c ((k.step.toNat + 1) % 2) k.step ss with
  | (d, false) => ends d stUncorrectable
  | (d, true) => ends ((d.closeJobs c).installRecord c k) stOk

/-- ROLLBACK. A payload that its shard could not import counts as no match (DEDUCED, log 18). -/
def cmdRollback : Command :=
  ctxCommand 0xC082 (fun p => zeroAt p 1 7) [.opened] fun c d p =>
    let st := (d.slc c).stepState
    let xs := d.shardsOf c
    if (st ≠ .idle && st ≠ .inDoubt) || d.cis.runs[c].isSome then ends d stBusy
    else match d.ckpt? (d.owner c) (BitVec.ofNat 64 (fieldAt p 8 8)) with
      | none => ends d stNoResource
      | some k =>
        let found := xs.filterMap fun e => (k.match? e.2).map fun s => (e.1, e.2, s)
        let fits := found.all fun e => match descriptorOf e.2.2.descriptor with
          | some g => d.checkSource c e.1 false { e.2.1 with state := .unseeded, outBoxes := [] } g == stOk && g.set == 0
              && g.len == e.2.2.payload.length
          | none => false
        if d.clk.refLost then d.whenCistern (ends · stOk)
        else if d.cis.state < cisReady || found.length ≠ xs.length || !fits || xs.any (·.2.lost) then ends d stNoResource
        else if !k.verified (found.map (·.2.2)) then ends d stAuthFail
        else d.whenFree (xs.map fun e => (e.2.slotBase ((k.step.toNat + 1) % 2), e.2.slotSize)) fun d => d.rollback c k found

/-! ### Endurance and retention (R460) -/

/-- The cistern becomes read-only: checkpoints that run end, and the event is placed with the blocks that are free, a free
value (log 18). -/
def Dev.readOnly (d : Dev) : Dev :=
  let d := { d with cis := { d.cis with state := 3, flash := 3 } }
  let (k, d) := d.draw
  let d := d.eventAll 0x0062 (Config.freeWord k).toNat
  allCtx.foldl (fun d c => d.endCheckpoint c stNoResource) d

/-- An uncorrectable page, numbered as CIS_UE_LAST has it: channel, target, LUN and page. Which structure the page belongs to
follows from a flash layout that is not given: a free value says whether it is a journal entry or a checkpoint, and which
(log 18). -/
def Dev.badPage (d : Dev) (page : Nat) : Dev :=
  let d := { d with cis := { d.cis with
    ueChannel := bitsOf page 0 2, ueTarget := bitsOf page 2 3, ueLun := bitsOf page 5 2, uePage := bitsOf page 8 32, ueNew := true } }
  let d := d.eventAll 0x0063 (page / 256)
  let (k, d) := d.draw
  let w := (Config.freeWord k).toNat
  if Config.freeBool k then { d with cis := { d.cis with journal := d.cis.journal.filter fun e => e.1 != w } }
  else { d with cis := { d.cis with ckpts := modifyAt w (fun q => { q with bad := true }) d.cis.ckpts } }

/-- A rewrite may find a block that fails, which takes a spare one: how many are left then is a free value, no more than before.
Below 0.5 % the cistern becomes read-only (log 18). -/
def Dev.rewritePages (d : Dev) : Dev :=
  let (k, d) := d.draw
  let left := (Config.freeWord k).toNat % (d.cis.sparePct + 1)
  let d := { d with cis := { d.cis with sparePct := left, spare := left } }
  if left < 5 && d.cis.state == cisReady then d.readOnly else d

/-- RETENTION_SCRUB: every valid page is read once in DAYS days; pages that needed retry are rewritten; `bad` are pages found
uncorrectable. -/
def Dev.retentionScrub (d : Dev) (bad retry : List Nat) : Dev :=
  if d.cis.days = 0 || d.clk.refLost || d.cis.state = 0 || !d.passed d.cis.scrubAt (d.cis.days * 86400 * 1000000000) then d
  else
    let d := bad.foldl Dev.badPage { d with cis := { d.cis with scrubAt := d.now } }
    if retry.isEmpty || d.cis.state = 3 then d else d.rewritePages

/-- RETENTION_SCRUB (R460). -/
def execRetentionScrub (bad retry : List Nat) (s : State) : Host.Outcome State Fault Refusal := done s (s.dev.retentionScrub bad retry)

/-! ### Rows -/

/-- ROLLBACK (R253, R254). -/
def execRollback (p : List Byte) (s : State) : Host.Outcome State Fault Refusal := done s (s.dev.submit 0xC082 p cmdRollback)
/-- CIS_INFO (R461). -/
def execCisInfo (p : List Byte) (s : State) : Host.Outcome State Fault Refusal := done s (s.dev.submit 0xC200 p cmdCisInfo)
/-- CIS_FORMAT (R452, R461). -/
def execCisFormat (p : List Byte) (s : State) : Host.Outcome State Fault Refusal := done s (s.dev.submit 0xC201 p cmdCisFormat)
/-- CIS_CHECKPOINT (R455, R461). -/
def execCisCheckpoint (p : List Byte) (s : State) : Host.Outcome State Fault Refusal := done s (s.dev.submit 0xC202 p cmdCisCheckpoint)
/-- CIS_LIST (R461). -/
def execCisList (p : List Byte) (s : State) : Host.Outcome State Fault Refusal := done s (s.dev.submit 0xC203 p cmdCisList)
/-- CIS_DISCARD (R461). -/
def execCisDiscard (p : List Byte) (s : State) : Host.Outcome State Fault Refusal := done s (s.dev.submit 0xC204 p cmdCisDiscard)
/-- CIS_FETCH (R459, R461). -/
def execCisFetch (p : List Byte) (s : State) : Host.Outcome State Fault Refusal := done s (s.dev.submit 0xC205 p cmdCisFetch)
/-- CIS_JOURNAL_READ (R461). -/
def execCisJournalRead (p : List Byte) (s : State) : Host.Outcome State Fault Refusal :=
  done s (s.dev.submit 0xC206 p cmdCisJournalRead)

end Sys2Proof.Machine
end

