-- ==== Sys2Proof/Machine/HostMemory.lean ====
section
/-! DEFINITION. Host access through the HDM windows (R425, R426) with the snoop filter (R427). -/

namespace Sys2Proof.Machine

open Sys2Proof

/-! ### Addresses (R425) -/

/-- The local address of a device physical address: range 1 is LPDDR5X, range 2 HBM3E from the end of the reserved range's usual
place on. -/
def localOfDpa (dpa : Nat) : Option Nat :=
  if dpa < 0x10000000000 then some (lpBase + dpa)
  else if dpa < 0x16BE0000000 then some (hbmBase + reservedBytes + (dpa - 0x10000000000))
  else none

/-- The first DPA of what decoder `i` maps: the skips and sizes before it (the standard's rule; PRESUMED, log 22). -/
def Link.dpaBase (l : Link) (i : Fin 2) : Nat :=
  if i = 0 then l.decoders[0].skip else l.decoders[0].skip + l.decoders[0].size + l.decoders[1].skip

/-- Whether a committed decoder maps a DPA. -/
def Link.maps (l : Link) (dpa : Nat) : Bool :=
  (List.finRange 2).any fun i =>
    l.decoders[i].committed && decide (l.dpaBase i ≤ dpa) && decide (dpa < l.dpaBase i + l.decoders[i].size)

/-- Whether a granule is out of the host's reach: in a removed window, or in the reserved range where R447 has moved it. -/
def Dev.hostGone (d : Dev) (g : Nat) : Bool := d.inRemoved (32 * g) 32 || d.inReserved (32 * g) 32

/-! ### Reads and writes (R426) -/

/-- Lines that the snoop filter holds. -/
def filterLines : Nat := 1048576

/-- One granule as the host reads it: none where the response carries poison. -/
def Dev.hostGranule (d : Dev) (g : Nat) : Dev × Option (List Byte) :=
  if d.hostGone g then (d, none) else d.readGranule srcHost g

/-- A read of a line of 64 bytes: with poison in either granule all data bytes are 0. The line is tracked from now on. -/
def Dev.hostRead (d : Dev) (line : Nat) : Dev :=
  let (d, x) := d.hostGranule (2 * line)
  let (d, y) := d.hostGranule (2 * line + 1)
  let d := if d.link.lines.contains line then d else { d with link := { d.link with lines := d.link.lines ++ [line] } }
  match x, y with
  | some bs, some cs => d.emit (.hostData (bs ++ cs) false)
  | _, _ => d.emit (.hostData (List.replicate 64 0) true)

/-- A write of enabled bytes from `a`: a granule whose bytes are all enabled is written whole, which ends its poison; one
covered in part is merged (R426). Where the granule is out of reach, or poisoned and covered in part, it changes nothing. -/
def Dev.hostWrite (d : Dev) (a : Nat) (data : List Byte) (enable : List Bool) : Dev :=
  (granulesOf a data.length).foldl (fun d g =>
    let on := (List.range 32).map fun i => decide (a ≤ 32 * g + i) && enable.getD (32 * g + i - a) false
    let bs := (List.range 32).map fun i => data.getD (32 * g + i - a) 0
    if d.hostGone g || !on.any id then d
    else if on.all id then { d with mem := d.mem.store (32 * g) bs }
    else (d.mergeGranule srcHost g bs on).1) d

/-- An access waits, behind those that wait already (log 22). -/
def Dev.hostWaits (d : Dev) (x : HdmAccess) : Dev := { d with link := { d.link with waiting := d.link.waiting ++ [x] } }

/-- A full snoop filter invalidates its oldest line before a new read (R427). -/
def Dev.evictLine (d : Dev) : Dev :=
  match d.link.lines with
  | [] => d
  | l :: _ =>
    if d.link.snooped.contains l then d
    else ({ d with link := { d.link with snooped := d.link.snooped ++ [l] } }).emit (.bisnp l)

/-- Serves an access, or lets it wait for stalled memory or for a place in the filter. -/
def Dev.hostServe (d : Dev) (x : HdmAccess) : Dev :=
  match localOfDpa x.dpa with
  | none => d
  | some a =>
    if d.clk.refLost || !d.link.waiting.isEmpty then d.hostWaits x
    else if x.write then (d.hostWrite a x.data x.enable).emit .hostDone
    else if filterLines ≤ d.link.lines.length && !d.link.lines.contains (a / 64) then d.evictLine.hostWaits x
    else d.hostRead (a / 64)

/-- Serves what waits, in order. -/
def Dev.resumeHost (d : Dev) : Dev :=
  d.link.waiting.foldl Dev.hostServe { d with link := { d.link with waiting := [] } }

/-- The DVSEC reports Memory Active: start-up has ended, and the link is a CXL link (R422, R444). -/
def Dev.memoryActive (d : Dev) : Bool := d.boot.active && d.link.cxl

/-- A host access: one that no decoder maps does not reach the device's memory. -/
def Dev.hostAccess (d : Dev) (x : HdmAccess) : Dev :=
  if !d.memoryActive then d.emit .hostInactive
  else if !d.link.maps x.dpa then d
  else d.hostServe x

/-- HDM_ACCESS (R426). -/
def execHdmAccess (a : HdmAccess) (s : State) : Host.Outcome State Fault Refusal := done s (s.dev.hostAccess a)

/-! ### Decoders (R422, R425) -/

/-- 256 MiB, the unit of a decoder. -/
def decoderUnit : Nat := 0x10000000

/-- Bytes of range 2: all HBM3E outside the reserved range. -/
def hbmRange : Nat := 0x6BE0000000

/-- Whether the host may commit a decoder: in 256-byte flit mode, interleave ways 1, not committed yet and in order, on multiples
of 256 MiB, within one range (the order is the standard's; PRESUMED, log 22). -/
def Dev.decoderOk (d : Dev) (i : Fin 2) (base size skip ways : Nat) : Bool :=
  let l := { d.link with decoders := d.link.decoders.set i { base := base, size := size, skip := skip } }
  let lo := l.dpaBase i
  d.link.cxl && ways == 1 && !d.link.decoders[i].committed && (i == 0 || d.link.decoders[0].committed)
    && size != 0 && aligned base decoderUnit && aligned size decoderUnit && aligned skip decoderUnit
    && (decide (lo + size ≤ 0x10000000000)
      || (d.link.hbmWindow && decide (0x10000000000 ≤ lo) && decide (lo + size ≤ 0x10000000000 + hbmRange)))

/-- HDM_DECODER_COMMIT: a decoder maps its part, or ends in the standard's commit error. -/
def Dev.commitDecoder (d : Dev) (i : Fin 2) (base size skip ways : Nat) : Dev :=
  if d.decoderOk i base size skip ways then
    let x : HdmDecoder := { committed := true, base := base, size := size, skip := skip }
    ({ d with link := { d.link with decoders := d.link.decoders.set i x } }).emit (.decoder i.val true)
  else d.emit (.decoder i.val false)

/-- HDM_DECODER_COMMIT (R425). -/
def execHdmDecoderCommit (dec : Fin 2) (base size skip ways : Nat) (s : State) : Host.Outcome State Fault Refusal :=
  done s (s.dev.commitDecoder dec base size skip ways)

/-! ### The link (R433) -/

/-- The link goes down: every key set is discarded and both streams are Insecure. -/
def Dev.linkDown (d : Dev) : Dev :=
  { d with link := { d.link with
    training := false, up := false, cxl := false, ioTx := {}, ioRx := {}, cmTx := {}, cmRx := {}, ioSecure := false
    cmSecure := false } }

end Sys2Proof.Machine
end

