-- ==== Sys2Proof/Machine/Ledger.lean ====
section
/-! DEFINITION. The ledger's copy (R358) and the allotment commands of the headgate (R364, R378). -/

namespace Sys2Proof.Machine

open Sys2Proof

/-! ### Copying records (R358) -/

/-- Copies slots from `slot` on, at most `n`, and stops at the slot that the next record takes or at one that can not be read:
the status, and how many were copied. -/
def Dev.copySlots : Nat → Nat → Nat → Nat → Dev → Dev × Nat × Nat
  | 0, _, _, k, d => (d, stOk, k)
  | n + 1, slot, dst, k, d =>
    if slot = d.ldg.next % 65536 then (d, stOk, k)
    else match d.readBytes srcWork (d.reservedBase + 256 * slot) 256 with
      | (d, none) => (d, stUncorrectable, k)
      | (d, some _) =>
        let d := { d with mem := d.mem.store dst (lookupD slot (List.replicate 256 0) d.ldg.records) }
        Dev.copySlots n ((slot + 1) % 65536) (dst + 256) (k + 1) d

/-- Runs the copy that has started; it waits while memory is stalled or the host holds lines of it, and ends where its destination
has been removed since (R146). -/
def Dev.ledgerCopy (d : Dev) : Dev :=
  match d.ldg.running with
  | none => d
  | some (dst, first, count) =>
    if d.removedIn [(dst, 256 * count)] then { d with ldg := { d.ldg with running := none, copied := 0, result := stNoResource } }
    else match d.access [(dst, 256 * count), (d.reservedBase, 256 * 65536)] with
    | (d, false) => d
    | (d, true) =>
      let (d, st, k) := Dev.copySlots count (first % 65536) dst 0 d
      { d with ldg := { d.ldg with running := none, copied := k, result := st } }

/-- A write of LDG_COPY_CTRL with COUNT and START. -/
def Dev.ledgerStart (d : Dev) (v : W32) : Dev :=
  let count := bitsOf v.toNat 0 17
  let d := { d with ldg := { d.ldg with count := count } }
  if !bitOf v.toNat 17 || d.ldg.running.isSome then d
  else if count = 0 || 65536 < count || !aligned d.ldg.dst 256 || d.slowStatus d.ldg.dst (256 * count) ≠ stOk then
    { d with ldg := { d.ldg with copied := 0, result := stBadArg } }
  else ({ d with ldg := { d.ldg with running := some (d.ldg.dst, d.ldg.first, count) } }).ledgerCopy

/-- LDG_COPY_START (R358). -/
def execLdgCopyStart (v : W32) (s : State) : Host.Outcome State Fault Refusal := done s (s.dev.ledgerStart v)

/-! ### The allotment (R362, R364, R378) -/

/-- ALLOT_SET: in force from the next control period. -/
def cmdAllotSet : Command := fun d p =>
  let w := fieldAt p 0 2
  let t := fieldAt p 4 4
  if !zeroAt p 2 2 || w < 600 || 1800 < w || t < 10 || 60000 < t then ends d stBadArg
  else ends { d with hg := { d.hg with pending := some (w, t) } } stOk

/-- ALLOT_GET. -/
def cmdAllotGet : Command := fun d _ =>
  let h := d.hg
  let resp := layout 16 [(0, 2, h.watts), (4, 4, h.intervalMs), (8, 2, h.meanInterval d.now / 1000),
    (12, 4, h.remainNj d.now / 1000000)]
  (d, some { status := stOk, resp := resp })

/-- ALLOT_SET (R364, R378). -/
def execAllotSet (p : List Byte) (s : State) : Host.Outcome State Fault Refusal := done s (s.dev.submit 0xC100 p cmdAllotSet)
/-- ALLOT_GET (R378). -/
def execAllotGet (p : List Byte) (s : State) : Host.Outcome State Fault Refusal := done s (s.dev.submit 0xC101 p cmdAllotGet)

end Sys2Proof.Machine
end

