-- ==== Sys2Proof/Machine/TimeBase.lean ====
section
/-! DEFINITION. The time base and the exchanges that steer it (R317 to R321, R391 to R398). Divisions whose rounding the manual
does not give round down (DESIGN CHOICE, log 19). -/

namespace Sys2Proof.Machine

open Sys2Proof

/-! ### Which port is followed (R393, R394) -/

/-- Codes of CLK_STATUS.TB_STATE: 0 UNSET, 1 MASTER, 2 FOLLOWING, 3 HOLDOVER. -/
def tbUnset : Nat := 0
/-- MASTER -/
def tbMaster : Nat := 1
/-- FOLLOWING -/
def tbFollowing : Nat := 2
/-- HOLDOVER -/
def tbHoldover : Nat := 3

/-- R394: whether a listed port may be followed. -/
def Dev.eligible (d : Dev) (n : Nat) : Bool :=
  let x := d.lat.lats.toList.getD n {}
  decide (n < 96) && (d.port n).state.live && decide (1 ≤ x.nbrState) && decide (x.nbrState ≤ 3) && decide (x.nbrStratum ≤ 14)
    && !x.remeasuring && x.toCompare == 0

/-- The port of lowest stratum among those listed, the first among equals. -/
def Dev.sourcePort (d : Dev) : Option Nat :=
  leastBy (fun n => (d.lat.lats.toList.getD n {}).nbrStratum) (d.clk.src.toList.filter d.eligible)

/-- The largest rate adjustment: 200 ppm in 2^-32 ns per ns. -/
def maxRate : Int := 858993

/-- A rate limited to 200 ppm. -/
def clampRate (r : Int) : Int := if r < -maxRate then -maxRate else if maxRate < r then maxRate else r

/-- The rate that the frequency term alone gives (R396). -/
def Clk.heldRate (c : Clk) : Int := clampRate (c.freq / 2 ^ 32)

/-- The event of a change of state or source (R398). -/
def Dev.tbEvent (d : Dev) (old : Clk) : Dev :=
  if old.state = d.clk.state && old.followed = d.clk.followed then d
  else d.eventAllNoStep 0x004A (packFields [(0, d.clk.followed), (8, d.clk.state), (12, d.clk.stratum)])

/-- R394, R396: settles state, stratum and followed port. A master does not follow, and during a loss of REFCLK the time base
only holds (R389). An UNSET device stays so until its first θ; a device with no eligible port holds over at its last frequency
term, and its stratum is 15, which breaks a loop (R394). -/
def Dev.chooseSource (d : Dev) : Dev :=
  if d.clk.state = tbMaster || d.clk.refLost then d else
    let next := match d.sourcePort with
      | some n =>
        let s := (d.lat.lats.toList.getD n {}).nbrStratum + 1
        if d.clk.state = tbUnset then { d.clk with followed := n }
        else { d.clk with state := tbFollowing, followed := n, stratum := s }
      | none =>
        if d.clk.state = tbUnset then { d.clk with followed := 0x7F }
        else { d.clk with state := tbHoldover, followed := 0x7F, stratum := 15, rate := d.clk.heldRate }
    ({ d with clk := next }).tbEvent d.clk

/-- A change of CLK_TB_CTRL.MODE takes effect at an exchange (R393). -/
def Dev.applyMode (d : Dev) : Dev :=
  if d.clk.master && d.clk.state ≠ tbMaster && !d.clk.refLost then
    ({ d with clk := { d.clk with state := tbMaster, stratum := 0, followed := 0x7F, rate := 0 } }).tbEvent d.clk
  else if !d.clk.master && d.clk.state = tbMaster then
    let e := ({ d with clk := { d.clk with state := tbHoldover, stratum := 15, rate := d.clk.heldRate } }).chooseSource
    if e.clk.state = tbHoldover then e.tbEvent d.clk else e
  else d

/-! ### Steering (R391, R395) -/

/-- The time base moved by a step of `t` in 2^-16 ns, counted and reported (R395, R398). -/
def Dev.stepTime (d : Dev) (t : Int) : Dev :=
  let tb := ((d.clk.tb : Int) + t * 2 ^ 16) % ((2 ^ 96 : Nat) : Int)
  let d := { d with clk := { d.clk with tb := tb.toNat, stepCount := satTo 0xFFFF (d.clk.stepCount + 1) } }
  d.eventAllNoStep 0x004B (unsigned 64 (t.tdiv (2 ^ 16)))

/-- R395: what a delivered θ, in 2^-16 ns, does. -/
def Dev.steer (d : Dev) (t : Int) : Dev :=
  let d := if d.clk.state = tbUnset then
      let s := (d.lat.lats.toList.getD d.clk.followed {}).nbrStratum + 1
      let d := d.stepTime t
      ({ d with clk := { d.clk with state := tbFollowing, stratum := s, freq := 0 } }).tbEvent d.clk
    else if d.clk.stepEn && decide (((d.clk.stepNs * 2 ^ 16 : Nat) : Int) < (t.natAbs : Int)) then d.stepTime t
    else { d with clk := { d.clk with freq := d.clk.freq + t * 2 ^ 48 / 256000000 } }
  { d with clk := { d.clk with rate := clampRate (d.clk.freq / 2 ^ 32 + t * 2 ^ 16 / 8000000) } }

/-- CLK_TB_SET (R391): the stratum-0 device sets the time base to NS with fraction 0, counted as a step. -/
def Dev.setTime (d : Dev) (ns : W64) : Dev :=
  if d.clk.state ≠ tbMaster then d else
    let t : Int := (ns.toNat : Int) - (d.tbNs : Int)
    let d := { d with clk := { d.clk with tb := ns.toNat * 2 ^ 32, stepCount := satTo 0xFFFF (d.clk.stepCount + 1) } }
    d.eventAllNoStep 0x004B (unsigned 64 t)

/-- CLK_TB_SET. -/
def execClkTbSet (ns : W64) (s : State) : Host.Outcome State Fault Refusal := done s (s.dev.setTime ns)

/-! ### Grants (R315, R316, R321) -/

/-- Flits that a lateral sends in `t`, in 2^-16 ns, times `num`/`den`, rounded up: 154.4 M flits/s exactly, half when DEGRADED
(R311). -/
def lateralFlits (degraded : Bool) (t num den : Nat) : Nat :=
  let up := 448000000000 * 120 * 514 * 5120 * t * num
  let down := 128 * 544 * 5140 * 2560 * 1000000000 * 65536 * den * (if degraded then 2 else 1)
  ceilDiv up down

/-- RTT + 100 µs in 2^-16 ns. -/
def Lat.turn (x : Lat) : Nat := x.rtt + usNs 100 * 65536

/-- Laterals in UP or DEGRADED. -/
def Dev.laterals (d : Dev) : List (Fin 96) := (List.finRange 96).filter fun n => d.fab.ports[n].lateral && d.fab.ports[n].state.live

/-- A lateral's share of a pool of `size` flits, when all together want `total`. -/
def share (size total want : Nat) : Nat := if size < total then want * size / total else want

/-- Resizes every grant (R315, R316). -/
def Dev.resizeGrants (d : Dev) : Dev :=
  let want := fun (n : Fin 96) (num den : Nat) => lateralFlits (d.fab.ports[n].state == .degraded) d.lat.lats[n].turn num den
  let retry := fun n => want n d.fab.privShare 16
  let ingress := fun n => want n 1 1
  let total := fun (f : Fin 96 → Nat) => (d.laterals.map f).foldl (· + ·) 0
  let tr := total retry
  let ti := total ingress
  let lats := Vector.ofFn fun n : Fin 96 =>
    let x := d.lat.lats[n]
    if d.laterals.contains n then { x with retryGrant := share 209715 tr (retry n), ingressGrant := share 629145 ti (ingress n) }
    else { x with retryGrant := 0, ingressGrant := 0 }
  { d with lat := { d.lat with lats := lats, retryScaled := decide (209715 < tr), ingressScaled := decide (629145 < ti) } }

/-! ### Exchanges (R317 to R321) -/

/-- The median of a list of values, the lower of the two middle ones; 0 of none. -/
def median (l : List Int) : Int :=
  let s := l.foldl (fun acc x =>
    let lo := acc.takeWhile fun y => decide (y ≤ x)
    lo ++ x :: acc.drop lo.length) []
  s.getD ((s.length - 1) / 2) 0

/-- Exchanges whose δ lies within 50 ns of their median (R319). -/
def kept (l : List Exchange) : List Exchange :=
  let m := median (l.map (·.delta))
  l.filter fun e => decide ((e.delta - m).natAbs ≤ 50 * 2 ^ 16)

/-- α in ps: FIBRE counts on a lateral only (R317, R318). -/
def Lat.alphaPs (x : Lat) (lateral : Bool) : Int := x.fixedPs - x.fixedNbrPs + if lateral then x.fibrePs else 0

/-- The mean θ of exchanges in 2^-16 ns. -/
def meanTheta (alphaPs : Int) (l : List Exchange) : Int :=
  let n : Int := l.length
  if l.isEmpty then 0 else (1000 * (l.foldl (fun t e => t + e.diff) 0) - n * alphaPs * 65536) / (2000 * n)

/-- One exchange taken in, and what the link delivers. -/
def Lat.take (x : Lat) (lateral : Bool) (e : Exchange) : Lat :=
  let recent := (e :: x.recent).take 16
  let good := kept recent
  { x with
    recent := recent
    accepted := if good.contains e then (e.delta :: x.accepted).take 16 else x.accepted
    theta := meanTheta (x.alphaPs lateral) good
    rtt := (median (good.map (·.delta))).toNat }

/-- The reference of R320: the median δ of the epoch's last accepted exchanges; for the first three exchanges after a retrain,
the one held before the port went down. -/
def Lat.reference (x : Lat) : Option Int :=
  if x.toCompare = 0 then (if x.accepted.isEmpty then none else some (median x.accepted)) else x.refHeld

/-- The reference is held over a retrain: the next three exchanges are compared with it (R320, R394). -/
def Lat.hold (x : Lat) : Lat :=
  { x with
    pending := [], toCompare := 3, off := []
    refHeld := if x.toCompare = 0 && !x.accepted.isEmpty then some (median x.accepted) else x.refHeld }

/-- R320: the exchange is off the reference. -/
def Dev.offReference (d : Dev) (x : Lat) (e : Exchange) : Bool :=
  x.reference.any fun r => decide (d.lat.stepNs * 2 ^ 16 < (e.delta - r).natAbs)

/-- R321, steps 1 to 4: a new path epoch. -/
def Dev.pathEpoch (d : Dev) (n : Fin 96) (off : List Exchange) : Dev :=
  let x := d.lat.lats[n]
  let old := x.reference.getD 0
  let now := median (off.map (·.delta))
  let epoch := (x.epoch + 1) % 256
  let d := d.modLat n fun x =>
    { x with
      epoch := epoch, remeasuring := true, thetaHeld := x.theta, recent := [], accepted := [], off := [], gathered := []
      rtt := now.toNat, toCompare := 0, timerRtt := some (x.timerRtt.getD x.rtt) }
  let d := d.eventAll 0x0030 (packFields [(0, n.val), (8, epoch), (32, unsigned 32 ((now - old) / 2 ^ 16))])
  (d.resizeGrants).chooseSource

/-- R320, R321: an exchange of a lateral. -/
def Dev.lateralExchange (d : Dev) (n : Fin 96) (e : Exchange) : Dev :=
  let x := d.lat.lats[n]
  if x.remeasuring then d.modLat n fun x => { x with gathered := e :: x.gathered }
  else if d.offReference x e then
    let off := e :: x.off
    if 3 ≤ off.length then d.pathEpoch n off
    else d.modLat n fun x => { x.take true e with off := off, toCompare := x.toCompare - 1 }
  else d.modLat n fun x => { x.take true e with off := [], toCompare := x.toCompare - 1 }

/-- The difference of two 80-bit time values. -/
def tbDiff (a b : Nat) : Int := signed 80 ((a + 2 ^ 80 - b % 2 ^ 80) % 2 ^ 80)

/-- Steering by what the link has delivered, if the time base follows it. -/
def Dev.deliver (d : Dev) (n : Fin 96) : Dev :=
  if d.clk.followed = n.val && d.clk.state ≠ tbMaster && !d.lat.lats[n].remeasuring then d.steer d.lat.lats[n].theta else d

/-- TIME_EXCHANGE_START: every 1 ms on a link that is up. A round trip may be longer than that: the answers are taken in the order
of the requests (DESIGN CHOICE, log 19). -/
def Dev.startExchange (d : Dev) (n : Fin 96) : Dev :=
  let x := d.lat.lats[n]
  if !d.fab.ports[n].state.live || !d.passed x.startedAt (msNs 1) then d
  else
    let d := d.applyMode
    let d := d.modLat n fun x => { x with pending := x.pending ++ [d.tb80], startedAt := d.now }
    d.emit (.timeRequest n.val d.tb80)

/-- TIME_EXCHANGE_START (R317). -/
def execTimeExchangeStart (port : Fin 96) (s : State) : Host.Outcome State Fault Refusal := done s (s.dev.startExchange port)

/-- TIME_EXCHANGE_REQUEST (R317, R394): the answer carries t2 and t3 and the sender's stratum and state. -/
def execTimeExchangeRequest (port : Fin 96) (_t1 : Nat) (s : State) : Host.Outcome State Fault Refusal :=
  let d := s.dev
  if d.fab.ports[port].state.live then
    let d := d.applyMode
    done s (d.emit (.timeAnswer port.val d.tb80 d.tb80 d.clk.stratum d.clk.state))
  else done s d

/-- TIME_EXCHANGE_ANSWER: δ and θ of the oldest exchange in progress. -/
def Dev.endExchange (d : Dev) (n : Fin 96) (t2 t3 stratum state : Nat) : Dev :=
  match d.lat.lats[n].pending with
  | [] => d
  | t1 :: rest =>
    if !d.fab.ports[n].state.live then d
    else
      let d := d.applyMode
      let t4 := d.tb80
      let e : Exchange := { delta := tbDiff t2 t1 + tbDiff t4 t3, diff := tbDiff t2 t1 - tbDiff t4 t3 }
      let d := d.modLat n fun x => { x with pending := rest, nbrStratum := stratum % 16, nbrState := state % 4 }
      let d := if d.fab.ports[n].lateral then d.lateralExchange n e
        else d.modLat n fun x => { x.take false e with toCompare := x.toCompare - 1 }
      (d.resizeGrants.chooseSource).deliver n

/-- TIME_EXCHANGE_ANSWER (R319, R320, R395). -/
def execTimeExchangeAnswer (port : Fin 96) (t2 t3 stratum tbState : Nat) (s : State) : Host.Outcome State Fault Refusal :=
  done s (s.dev.endExchange port t2 t3 stratum tbState)

/-- R321, steps 5 and 6. -/
def Dev.endRemeasure (d : Dev) (n : Fin 96) : Dev :=
  let x := d.lat.lats[n]
  if !x.remeasuring || x.gathered.length < d.lat.remeasure then d
  else
    let m := (median (x.gathered.map (·.diff)) - 2 * x.thetaHeld) * 1000 / 65536 - (x.fixedPs - x.fixedNbrPs)
    let meas := signed 32 (unsigned 32 m)
    let last := x.gathered.take 16
    let d := d.modLat n fun x =>
      { x with
        remeasuring := false, measPs := meas, fibrePs := if x.asymLock then x.fibrePs else meas, gathered := []
        recent := last, accepted := (kept last).map (·.delta) }
    (d.eventAll 0x0031 (packFields [(0, n.val), (32, unsigned 32 meas)])).chooseSource

/-- REMEASUREMENT_COMPLETE (R321). -/
def execRemeasurementComplete (port : Fin 96) (s : State) : Host.Outcome State Fault Refusal := done s (s.dev.endRemeasure port)

end Sys2Proof.Machine
end

