-- ==== Sys2Proof/Machine/Ports.lean ====
section
/-! DEFINITION. Ports and links (R258, R279 to R284), link state (R271), and the rewriting of routes (R323, R324). -/

namespace Sys2Proof.Machine

open Sys2Proof

/-! ### Link state and routes (R271, R323, R324) -/

/-- The states and generations of this device's ports (R271, R279). -/
def Dev.portStates (d : Dev) : List (Nat × Nat) := d.fab.ports.toList.map fun x => (x.state.code, x.gen)

/-- Sends the link state to every other slot of the basin. -/
def Dev.tellBasin (d : Dev) : Dev :=
  let slots := (List.range 32).filter (· != slotOf d.fab.id)
  let d := d.emitAll (slots.map fun t => .linkState t d.portStates)
  { d with fab := { d.fab with linkSentAt := d.now } }

/-- Whether some of a route's exits are up in the basin map. -/
def Dev.anyUp (d : Dev) (es : List (Nat × Nat)) : Bool := es.any fun e => d.mapUp e.1 (31 + e.2)

/-- The exits that a route entry's value gives in the present table. -/
def Dev.exitsOfRaw (d : Dev) (raw : Nat) : List (Nat × Nat) :=
  let r := routeOfRaw raw
  if r.kind = 1 then r.exits else if r.kind = 2 && (d.route r.via).kind == 1 then (d.route r.via).exits else []

/-- An exit as one number. -/
def exitKey (e : Nat × Nat) : Nat := 64 * e.1 + e.2

/-- Notes since when each route has had no exit up, and since when each exit of the routes and of the saved ones has been up
(R323, R324). -/
def Dev.noteRoutes (d : Dev) : Dev :=
  let dead := (d.fab.routes.filter fun r => (routeOfRaw r.2).kind != 0 && !d.anyUp (d.exitsOfRaw r.2)).map (·.1)
  let named := (d.fab.routes ++ d.fab.saved).flatMap fun r => d.exitsOfRaw r.2
  let up := ((named.filter fun e => d.anyUp [e]).map exitKey).eraseDups
  let since := fun (old : List (Nat × Nat)) (ks : List Nat) => ks.map fun k => (k, lookupD k d.now old)
  { d with fab := { d.fab with downSince := since d.fab.downSince dead, upSince := since d.fab.upSince up } }

/-- After a change of a port, of the map or of the table: times are noted and waiting packets routed again. -/
def Dev.afterRoutes (d : Dev) : Dev := d.noteRoutes.rerouteWaiting

/-- The entry that replaces one with no exit up: KIND 2 through the first fallback basin of its site that can carry it,
otherwise KIND 0. SITE stays. -/
def Dev.rewritten (d : Dev) (raw : Nat) : Nat :=
  let site := (routeOfRaw raw).site
  let reg := d.lat.fallback.toList.getD site 0
  let basins := (List.range (bitsOf reg 48 3)).map fun i => bitsOf reg (12 * i) 12
  match basins.find? fun b => (d.route b).kind == 1 && d.anyUp (d.route b).exits with
  | some b => packFields [(0, 2), (48, b), (60, site)]
  | none => packFields [(60, site)]

/-- Marks the laterals of this device that saved routes use (LAT_STATUSn.ROUTED_AROUND). -/
def Dev.markRouted (d : Dev) : Dev :=
  let own := slotOf d.fab.id
  let used := d.fab.saved.flatMap fun r => (d.exitsOfRaw r.2).filterMap fun e => if e.1 = own then some (31 + e.2) else none
  let lats := Vector.ofFn fun n : Fin 96 => { d.lat.lats[n] with routedAround := used.contains n.val }
  { d with lat := { d.lat with lats := lats } }

/-- ROUTE_REWRITE (R324): a route that has had no exit up for HOLD_MS. While canonical routing is in effect none is rewritten. -/
def Dev.rewriteRoute (d : Dev) (n : Nat) : Dev :=
  match d.fab.downSince.find? fun e => e.1 == n with
  | none => d
  | some (_, t) =>
    if d.canonical || !d.passed t (msNs d.lat.holdMs) then d
    else
      let raw := lookupD n 0 d.fab.routes
      let new := d.rewritten raw
      let saved := if d.fab.saved.any fun e => e.1 == n then d.fab.saved else insertKey n raw d.fab.saved
      let via := if (routeOfRaw new).kind = 2 then (routeOfRaw new).via else 0xFFF
      let d := { d with fab := { d.fab with routes := insertKey n new d.fab.routes, saved := saved } }
      ((d.markRouted).eventAll 0x0032 (packFields [(0, n), (12, via)])).afterRoutes

/-- ROUTE_REWRITE. -/
def execRouteRewrite (basin : Nat) (s : State) : Host.Outcome State Fault Refusal := done s (s.dev.rewriteRoute basin)

/-- Whether an exit of a route has been up for HOLD_MS without a break. -/
def Dev.exitHeld (d : Dev) (raw : Nat) : Bool :=
  (d.exitsOfRaw raw).any fun e =>
    (d.fab.upSince.find? fun u => u.1 == exitKey e).any fun u => d.passed u.2 (msNs d.lat.holdMs)

/-- ROUTE_RESTORE (R324): an original exit has been up for HOLD_MS without a break. -/
def Dev.restoreRoute (d : Dev) (n : Nat) : Dev :=
  match d.fab.saved.find? fun e => e.1 == n with
  | none => d
  | some (_, raw) =>
    if !d.exitHeld raw then d
    else
      let d := { d with fab := { d.fab with routes := insertKey n raw d.fab.routes, saved := eraseKey n d.fab.saved } }
      ((d.markRouted).eventAll 0x0033 n).afterRoutes

/-- ROUTE_RESTORE. -/
def execRouteRestore (basin : Nat) (s : State) : Host.Outcome State Fault Refusal := done s (s.dev.restoreRoute basin)

/-- LINK_STATE_MESSAGE (R271): the newest state of each port of a slot is kept, by its generation. -/
def Dev.takeLinkState (d : Dev) (slot : Nat) (states : List (Nat × Nat)) : Dev :=
  if slot = slotOf d.fab.id then d else
    let put := fun (m : List (Nat × Nat × Nat)) (e : (Nat × Nat) × Nat) =>
      let key := 96 * slot + e.2
      let newer := match m.find? fun x => x.1 == key with
        | some (_, _, g) => decide ((e.1.2 + 256 - g % 256) % 256 < 128)
        | none => true
      if newer then insertKey key e.1 m else m
    let map := ((states.take 96).zip (List.range 96)).foldl put d.fab.map
    ({ d with fab := { d.fab with map := map } }).afterRoutes

/-- LINK_STATE_MESSAGE. -/
def execLinkStateMessage (slot : Fin 32) (states : List (Nat × Nat)) (s : State) : Host.Outcome State Fault Refusal :=
  done s (s.dev.takeLinkState slot.val states)

/-- LINK_STATE_BROADCAST (R271): every 10 ms. -/
def execLinkStateBroadcast (s : State) : Host.Outcome State Fault Refusal :=
  let d := s.dev
  done s (if d.fab.enable && d.passed d.fab.linkSentAt (msNs 10) then d.tellBasin else d)

/-! ### Changes of state (R279, R281, R282) -/

/-- Ends the retrain that a service slot waits for: OK when the port is up again, TIMEOUT when it is not (DESIGN CHOICE,
log 11). -/
def Dev.endRetrain (d : Dev) (n : Fin 96) : Dev :=
  if !d.fab.ports[n].retrainPending then d else
    let st := if d.fab.ports[n].state.live then stOk else stTimeout
    let d := d.modPort n fun x => { x with retrainPending := false }
    match d.serviceSlot 0xC0C0 n.val with
    | some i => d.serviceEnd i st
    | none => d

/-- A port moves to a state: its change bit, its generation at each entry to UP or DEGRADED, the interrupt, the basin, routes,
grants and the time base's source (R271, R279, R394). -/
def Dev.setPort (d : Dev) (n : Fin 96) (st : PortState) : Dev :=
  if d.fab.ports[n].state = st then d else
    let d := d.modPort n fun x =>
      { x with state := st, changed := true, since := d.now, gen := if st.live then (x.gen + 1) % 256 else x.gen }
    let d := if d.fab.irq then d.emit (.msix 17) else d
    let d := (d.tellBasin.resizeGrants).chooseSource
    d.afterRoutes

/-- What a port keeps of a link goes: unacknowledged flits and the packets they carry, packets half received, credits of both
ends. Numbers start again at 0 (log 11). Packets still queued are routed anew (R323). -/
def Port.discard (x : Port) : Port :=
  { x with
    txNext := 0, rxNext := 0, nakOut := false, unacked := [], credits := [], lent := [], queue := [], partSlots := [], partPriv := []
    bulkTx := 0, bulkRx := 0, dropRest := false, heldFlits := [], badCodewords := [], badHalf := false }

/-- Packets that came by a port fill no buffer of it any more. -/
def Dev.dropTransit (d : Dev) (n : Fin 96) : Dev :=
  { d with fab := { d.fab with transit := d.fab.transit.filter fun e => e.2.1 != n.val } }

/-- R282: a port goes DOWN or DISABLED. -/
def Dev.portDown (d : Dev) (n : Fin 96) (st : PortState) : Dev :=
  let queued := d.fab.ports[n].queue
  let d := (d.dropTransit n).modPort n fun x => { x.discard with lanesTx := 0, lanesRx := 0, thenTrain := false }
  let d := d.modLat n fun x => { x.hold with ackCum := 0 }
  let d := { d with fab := { d.fab with waiting := d.fab.waiting ++ queued } }
  (d.setPort n st).endRetrain n

/-- R279, R281: an UP or DEGRADED port drains, and then trains again or is DISABLED. -/
def Dev.startDrain (d : Dev) (n : Fin 96) (thenTrain : Bool) : Dev :=
  (d.modPort n fun x => { x with thenTrain := thenTrain }).setPort n .draining

/-- R280: a lane fault. -/
def Dev.laneFault (d : Dev) (n : Fin 96) : Dev := if d.fab.ports[n].state.live then d.startDrain n true else d

/-- Enters TRAINING: the identity of this end goes out (R258). -/
def Dev.train (d : Dev) (n : Fin 96) : Dev :=
  let d := d.setPort n .training
  d.emit (.train n.val d.fab.id d.fab.ports[n].lateral d.fab.inc.toNat)

/-- Port and fabric are enabled. -/
def Dev.portOn (d : Dev) (n : Fin 96) : Bool := d.fab.enable && d.fab.ports[n].enable

/-- The PLL of a port is judged locked (R384, R386), and the device has recovered from a loss of REFCLK (R390, step 6). -/
def Dev.portClock (d : Dev) (n : Fin 96) : Bool := d.clk.pllLock.getLsbD (2 + n.val / 4) && !d.clk.refLost

/-- R279: what a change of the enables does to one port. -/
def Dev.applyEnable (d : Dev) (n : Fin 96) : Dev :=
  let st := d.fab.ports[n].state
  if d.portOn n then (if st = .disabled then d.setPort n .down else d)
  else match st with
    | .disabled => d
    | .down => d.portDown n .disabled
    | .training => d.portDown n .disabled
    | .draining => d.modPort n fun x => { x with thenTrain := false }
    | .up => d.startDrain n false
    | .degraded => d.startDrain n false

/-- PORT_ENABLE (R279): ENABLE of a port, or of the fabric. -/
def Dev.setEnable (d : Dev) (port : Option (Fin 96)) (on : Bool) : Dev :=
  match port with
  | some n => (d.modPort n fun x => { x with enable := on }).applyEnable n
  | none =>
    let d := { d with fab := { d.fab with enable := on } }
    (List.finRange 96).foldl Dev.applyEnable d

/-- PORT_ENABLE. -/
def execPortEnable (port : Option (Fin 96)) (on : Bool) (s : State) : Host.Outcome State Fault Refusal :=
  done s (s.dev.setEnable port on)

/-- SIGNAL_DETECTED (R279): tried again every second. -/
def Dev.signal (d : Dev) (n : Fin 96) : Dev :=
  let x := d.fab.ports[n]
  if x.state = .down && d.portOn n && d.portClock n && x.retryAt ≤ d.now then d.train n else d

/-- SIGNAL_DETECTED. -/
def execSignalDetected (port : Fin 96) (s : State) : Host.Outcome State Fault Refusal := done s (s.dev.signal port)

/-! ### Training (R258, R268, R281) -/

/-- Whether the device at the other end of a link fits the role of port `n` of device `own` (R256, R258), and the canonical wiring
while that is in effect (R268). -/
def Dev.roleOf (d : Dev) (own n nbr nbrPort : Nat) (lateral : Bool) : Bool :=
  let s := slotOf own
  let sameBasin := basinOf nbr == basinOf own && siteOf nbr == siteOf own
  if n < 31 then sameBasin && slotOf nbr == (if n < s then n else n + 1)
  else if n < 95 then
    let p := n - 31
    let b := d.fab.basins
    let wired := !d.canonical || (basinOf nbr == (basinOf own + (64 * s + p) % (b - 1) + 1) % b
      && slotOf nbr == 31 - s && nbrPort == 31 + (63 - p))
    basinOf nbr != basinOf own && (lateral == (siteOf nbr != siteOf own)) && wired
  else n == 95

/-- R258: each end is consistent with the role of the other end's port. -/
def Dev.roleOk (d : Dev) (n : Nat) (t : TrainInfo) : Bool :=
  d.roleOf d.fab.id n t.nbrId t.nbrPort t.lateral && d.roleOf t.nbrId t.nbrPort d.fab.id n t.lateral

/-- Training fails: DOWN, tried again in a second. -/
def Dev.trainFail (d : Dev) (n : Fin 96) : Dev :=
  (d.modPort n fun x => { x with retryAt := d.now + 1000000000 }).portDown n .down

/-- R281: unacknowledged flits leave again, in order (R260). -/
def Dev.replay (d : Dev) (n : Fin 96) : Dev :=
  let x := d.fab.ports[n]
  (d.modPort n fun x => { x with unacked := x.unacked.map fun f => { f with sends := f.sends + 1, sentAt := d.now } }).sendAgain n
    (if x.lateral then 2 else 1) x.unacked

/-- TRAINING_EXCHANGE (R258, R281, R282). A port that comes up gives its neighbour the credit of its free buffers (R266). -/
def Dev.trained (d : Dev) (n : Fin 96) (t : TrainInfo) : Dev :=
  let x := d.fab.ports[n]
  if x.state ≠ .training || !d.portClock n then d
  else if t.lateral ≠ x.lateral || !d.roleOk n.val t || t.lanesTx = 0 || t.lanesRx = 0 || 2 < t.lanesTx || 2 < t.lanesRx then
    d.trainFail n
  else
    let queue := x.queue
    let d := if x.nbrInc = t.nbrInc then d else d.dropTransit n
    let d := d.modPort n fun x =>
      let x := if x.nbrInc = t.nbrInc then x else { x.discard with queue := queue }
      { x with
        nbrId := t.nbrId, nbrPort := t.nbrPort, nbrInc := t.nbrInc, met := true, lanesTx := t.lanesTx, lanesRx := t.lanesRx }
    let d := d.modLat n fun x => { x with fixedPs := t.fixedOwn, fixedNbrPs := t.fixedNbr }
    let d := (d.setPort n (if t.lanesTx = 2 && t.lanesRx = 2 then .up else .degraded)).replay n
    ((d.sendCredits n).endRetrain n).pump n

/-- TRAINING_EXCHANGE. -/
def execTrainingExchange (port : Fin 96) (t : TrainInfo) (s : State) : Host.Outcome State Fault Refusal := done s (s.dev.trained port t)

/-- TRAINING_TIMEOUT (R279): after 100 ms. -/
def execTrainingTimeout (port : Fin 96) (s : State) : Host.Outcome State Fault Refusal :=
  let d := s.dev
  let x := d.fab.ports[port]
  done s (if x.state = .training && d.passed x.since (msNs 100) then d.trainFail port else d)

/-- A retraining port's PLL starts alone (R386): it may while none of its four ports carries traffic. Whether it does is left
open: a free value (log 19). -/
def Dev.restartPll (d : Dev) (n : Fin 96) : Dev :=
  let group := (List.finRange 96).filter fun m => m.val / 4 == n.val / 4
  let (k, d) := d.draw
  if Config.freeBool k && group.all fun m => !d.fab.ports[m].state.live && d.fab.ports[m].state != .draining then
    { d with clk := { d.clk with
      pllLock := d.clk.pllLock &&& ~~~(1#43 <<< (2 + n.val / 4)), pllAt := modVec d.clk.pllAt (2 + n.val / 4) fun _ => d.now } }
  else d

/-- A port that has drained trains again (R279); the reference of its exchanges is held (R320). -/
def Dev.retrain (d : Dev) (n : Fin 96) : Dev :=
  (((d.modPort n fun x => { x with thenTrain := false }).modLat n Lat.hold).train n).restartPll n

/-- PORT_DRAIN_COMPLETE (R281): every flit is acknowledged, or 50 µs have passed. -/
def Dev.portDrained (d : Dev) (n : Fin 96) : Dev :=
  let x := d.fab.ports[n]
  if x.state ≠ .draining || !((x.unacked.isEmpty && x.queue.isEmpty) || d.passed x.since (usNs 50)) then d
  else if x.thenTrain then d.retrain n
  else d.portDown n .disabled

/-- PORT_DRAIN_COMPLETE. -/
def execPortDrainComplete (port : Fin 96) (s : State) : Host.Outcome State Fault Refusal := done s (s.dev.portDrained port)

/-- All lanes of a direction are lost (R279). -/
def Dev.lanesGone (d : Dev) (n : Fin 96) : Dev :=
  let st := d.fab.ports[n].state
  if st = .disabled || st = .down then d else d.portDown n .down

/-- LANES_LOST (R279). -/
def execLanesLost (port : Fin 96) (s : State) : Host.Outcome State Fault Refusal := done s (s.dev.lanesGone port)

/-- LANE_LOSS_OF_LOCK (R280). -/
def execLaneLossOfLock (port : Fin 96) (s : State) : Host.Outcome State Fault Refusal := done s (s.dev.laneFault port)

/-! ### Mailbox commands (R269, R284, R324) -/

/-- PORT_RETRAIN at acceptance. TARGET holds the port. -/
def cmdPortRetrain : Command := fun d p =>
  let n := fieldAt p 0 1
  if h : n < 96 then
    let port : Fin 96 := ⟨n, h⟩
    let x := d.fab.ports[port]
    if !zeroAt p 1 3 || x.state = .disabled || x.state = .down then ends d stBadArg
    else if x.state = .training || x.state = .draining || x.retrainPending then ends d stBusy
    else match d.freeSlot with
      | none => ends d stNoResource
      | some i =>
        let slot : SvcSlot := { opcode := 0xC0C0, target := n, phase := 2 }
        let d := { d with mbx := { d.mbx with slots := d.mbx.slots.set i slot } }
        ends ((d.modPort port fun x => { x with retrainPending := true }).startDrain port true) stOk
  else ends d stBadArg

/-- The entries of a route table of 2,049. -/
def routeEntries (bs : List Byte) : List (Nat × Nat) :=
  (List.range 2049).filterMap fun n =>
    let v := fieldAt bs (8 * n) 8 % 2 ^ 63
    if v = 0 then none else some (n, v)

/-- R284: no reserved KIND, and every VIA names an entry of KIND 1. -/
def routesOk (rs : List (Nat × Nat)) : Bool :=
  rs.all fun r => decide (r.2 % 4 < 3) && (r.2 % 4 != 2 || (lookupD (bitsOf r.2 48 12) 0 rs) % 4 == 1)

/-- The new table replaces the old at once; rewrites in force are applied again to it (R324). -/
def Dev.loadRoutes (d : Dev) (rs : List (Nat × Nat)) : Dev :=
  let again := (d.fab.saved.map (·.1)).filter fun n => (routeOfRaw (lookupD n 0 rs)).kind != 0
  let d := { d with fab := { d.fab with routes := rs, saved := again.map fun n => (n, lookupD n 0 rs) } }
  let news : List (Nat × Nat) := again.map fun n => (n, d.rewritten (lookupD n 0 rs))
  let put := fun (t : List (Nat × Nat)) (e : Nat × Nat) => insertKey e.1 e.2 t
  let d := { d with fab := { d.fab with routes := news.foldl put d.fab.routes } }
  d.markRouted.afterRoutes

/-- ROUTE_LOAD; a list that can not be read whole is BAD_ARG (DEDUCED, log 11). -/
def cmdRouteLoad : Command := fun d p =>
  let a := fieldAt p 0 8
  if !aligned a 8 || d.slowStatus a (8 * 2049) ≠ stOk then ends d stBadArg
  else d.whenFree [(a, 8 * 2049)] fun d =>
    match d.readBytes srcWork a (8 * 2049) with
    | (d, none) => ends d stBadArg
    | (d, some bs) =>
      let rs := routeEntries bs
      if routesOk rs then ends (d.loadRoutes rs) stOk else ends d stBadArg

/-- PORT_RETRAIN (R284). -/
def execPortRetrain (p : List Byte) (s : State) : Host.Outcome State Fault Refusal := done s (s.dev.submit 0xC0C0 p cmdPortRetrain)

/-- ROUTE_LOAD (R269, R284). -/
def execRouteLoad (p : List Byte) (s : State) : Host.Outcome State Fault Refusal := done s (s.dev.submit 0xC0C1 p cmdRouteLoad)

end Sys2Proof.Machine
end

