-- ==== Sys2Proof/Machine/Receive.lean ====
section
/-! DEFINITION. The fabric's receiving side: requests served for other devices (R263, R264, R276), answers to the own requests
and their timers (R273 to R278, R303), and messages. -/

namespace Sys2Proof.Machine

open Sys2Proof

/-! ### Requests of other devices (R139, R263, R264) -/

/-- Bytes that a READ or WRITE covers. A packet with LEN 0 is judged by its first granule (DESIGN CHOICE, log 11). -/
def spanOf (p : Packet) : Nat := 32 * max 1 p.len

/-- BYTE_MASK of a WRITE. -/
def maskOf (p : Packet) : Nat := p.spec % 2 ^ 32

/-- R264: the status that a READ or WRITE meets at acceptance. -/
def Dev.judgeAccess (d : Dev) (p : Packet) : Nat :=
  let st := d.unitStatus p
  if 20 ≤ p.unit then stBadArg
  else if st ≠ stOk then st
  else if !aligned p.addr 32 || unitOf p.addr ≠ p.unit || unitOf (p.addr + spanOf p - 1) ≠ p.unit then stBadArg
  else if p.type = .write && maskOf p != 0 && p.len ≠ 1 then stBadArg
  else d.rangeStatus p.addr (spanOf p)

/-- An accepted WRITE stores whole granules with the check bytes that travelled, or merges the enabled bytes of one. False when
a partial write meets a poisoned granule. -/
def Dev.storePacket (d : Dev) (p : Packet) : Dev × Bool :=
  let g := p.addr / 32
  if maskOf p != 0 then
    d.mergeGranule srcWork g (padTo 32 p.data) ((List.range 32).map (bitOf (maskOf p)))
  else
    let put := fun (m : Mem) i => m.storeCodeword (g + i) (padTo 36 (p.data.drop (36 * i)))
    ({ d with mem := (List.range p.len).foldl put d.mem }, true)

/-- Serves an accepted READ or WRITE; it waits where memory is stalled (R389) or the host holds a line (R427). Where its window has
been removed meanwhile it is refused (R146). -/
def Dev.serveAccess (d : Dev) (p : Packet) : Dev :=
  let r := [(p.addr, 32 * p.len)]
  if d.inRemoved p.addr (32 * p.len) then d.reply p stNoResource else
  match if d.stalled r then (d, true) else d.snoopAll r with
  | (d, true) => { d with fab := { d.fab with stalled := d.fab.stalled ++ [p] } }
  | (d, false) =>
    if p.type = .read then
      match d.readBytes srcWork p.addr (32 * p.len) with
      | (d, none) => d.reply p stUncorrectable
      | (d, some bs) => d.answer p .readResp stOk (granuleSlots bs)
    else
      match d.storePacket p with
      | (d, true) => d.reply p stOk
      | (d, false) => d.reply p stUncorrectable

/-- A READ or WRITE arrives (R264). -/
def Dev.takeAccess (d : Dev) (p : Packet) : Dev :=
  let st := d.judgeAccess p
  if st = stOk then d.serveAccess p else d.reply p st

/-- GEN_QUERY (R263, R276). A reserved unit code is BAD_ARG (DESIGN CHOICE, log 11). -/
def Dev.takeGenQuery (d : Dev) (p : Packet) : Dev :=
  d.reply p (if 20 ≤ p.unit then stBadArg else if d.unitInService p.unit then stInService else stOk)

/-- Runs again what waits for memory, in order. -/
def Dev.resumeStalled (d : Dev) : Dev :=
  d.fab.stalled.foldl (fun d p => if p.type = .accum then d.serveAccum p else d.serveAccess p)
    { d with fab := { d.fab with stalled := [] } }

/-! ### Answers (R273, R278) -/

/-- The data of a READ_RESP, each granule's code checked at the requester (R136, R137): none when one is uncorrectable. -/
def responseData (p : Packet) : Option (List Byte) :=
  let granule := fun (i : Nat) =>
    let cw := padTo 36 (p.data.drop (36 * i))
    let data := cw.take 32
    let diff := ((List.range 4).zip ((cw.drop 32).zip (furrowCheck data))).map fun e => (32 + e.1, e.2.1 ^^^ e.2.2)
    match furrowDecode (diff.filter fun e => e.2 != 0) with
    | .clean => some data
    | .single j v => some (spoil data (if j < 32 then [(j, v)] else []))
    | .uncorrectable => none
  (List.range p.len).foldl (fun acc i =>
    match acc, granule i with
    | some bs, some g => some (bs ++ g)
    | _, _ => none) (some [])

/-- What has been learnt of a request's unit since its issue (R278). -/
def Dev.learntSince (d : Dev) (q : Packet) : Option (Nat × Nat) :=
  match d.cached q.dest q.unit with
  | none => none
  | some x => if (q.genValid || q.type == .genQuery) && x == (q.gen, q.inc) then none else some x

/-- Changes a live entry. -/
def Dev.modEntry (d : Dev) (i : Nat) (f : Outst → Outst) : Dev :=
  { d with fab := { d.fab with entries := d.fab.entries.map fun e => if e.1 = i then (i, f e.2) else e } }

/-- The entry waits before its reissue: 10 µs, doubling up to 1.28 ms (R278, R303). -/
def Dev.backOff (d : Dev) (i why : Nat) : Dev :=
  d.modEntry i fun q =>
    { q with waitUntil := some (d.now + q.backoff), waitFor := why, backoff := min 1280000 (2 * q.backoff) }

/-- A query for an entry is answered, or none came (R278, R303): the entry ends with STALE_GENERATION, which engines reissue
(R173), or with TIMEOUT. A piece of a reduction is reissued in any case. -/
def afterQuery (e : Outst) (reply : Option (Nat × Nat)) : Option Nat :=
  match e.owner with
  | .piece _ _ _ _ => none
  | _ =>
    match e.reference, reply with
    | some r, some x => if r = x then some stTimeout else none
    | _, _ => some stTimeout

/-- Ends an entry with a final status and its data, for whoever asked. A delta's entry is kept while it waits (R331). -/
def Dev.finalAnswer (d : Dev) (i : Nat) (q : Outst) (status : Nat) (data : List Byte) : Dev :=
  let note := (ackKey q.packet, data)
  match q.owner with
  | .culvert _ c s idx =>
    let d := d.closeEntry i
    if status = stOk then d.modPiece c s idx fun u => { u with rx := u.rx ++ [note], still := 0 } else d.failPiece c s idx status 0
  | .stage c s idx _ =>
    let d := d.closeEntry i
    if status = stOk then d.modPiece c s idx fun u => { u with rx := u.rx ++ [note], still := 0 } else d.failPiece c s idx status 0
  | .fetch c s =>
    let d := d.closeEntry i
    if status = stOk then d.modCmd c s fun k => { k with fetched := k.fetched ++ [note] }
    else match (d.ctx c).cmd? s with
      | some k =>
        if k.issued then d else d.refuseCmd c { k with spec := (d.ctx c).spanPos k.index == some 1 } status
      | none => d
  | .workCopy k c s idx =>
    let d := d.closeEntry i
    if status = stOk then
      d.modEngine 5 k fun e =>
        { e with units := mapWhere (fun u => u.ctx == c && u.seq == s && u.idx == idx) (fun u => { u with rx := u.rx ++ [note], still := 0 }) e.units }
    else d.failEntry k c s idx status 0
  | .piece c job chunk piece => (d.closeEntry i).pieceAnswer c job chunk piece status q.packet.dest
  | .delta h p k => d.deltaAnswer i q h p k status
  | .query _ => d.closeEntry i

/-- A live entry's request is issued again, if R25 still finds a way to its device; otherwise the entry ends with the status that
refuses it. -/
def Dev.reissueOrEnd (d : Dev) (i : Nat) : Dev :=
  match d.fab.entries.find? fun e => e.1 == i with
  | none => d
  | some (_, e) =>
    let st := d.judgeRemote e.packet.dest
    if st = stOk then d.reissue i else d.finalAnswer i e st []

/-- What a query's answer, or its silence, does to the entry that it asks for. -/
def Dev.endQuery (d : Dev) (j : Nat) (reply : Option (Nat × Nat)) : Dev :=
  match d.fab.entries.find? fun e => e.1 == j with
  | none => d
  | some (_, e) =>
    if e.discard then d.closeEntry j
    else match afterQuery e reply with
      | none => d.reissueOrEnd j
      | some st => d.finalAnswer j e st []

/-- Whether an answer is of the kind that a request asks for. -/
def answerFits (q p : Packet) : Bool :=
  if p.type = .readResp then q.type == .read && p.len == q.len
  else p.type == .reply && !(q.type == .read && p.status == stOk)

/-- READ_RESP or REPLY (R273, R275, R278): without a live entry it is discarded. -/
def Dev.takeAnswer (d : Dev) (p : Packet) : Dev :=
  match d.fab.entries.find? fun e => e.1 == p.tag with
  | none => d
  | some (i, q) =>
    if q.useCount ≠ p.useCount || !answerFits q.packet p then d
    else
      let d := d.disown (· == .query i)
      if q.discard then (d.learn q.packet.dest q.packet.unit p.gen p.inc).closeEntry i
      else if (d.learntSince q.packet).any (· != (p.gen, p.inc)) then d.reissueOrEnd i
      else
        let d := d.learn q.packet.dest q.packet.unit p.gen p.inc
        let isPiece := match q.owner with
          | .piece _ _ _ _ => true
          | _ => false
        if p.type = .readResp then
          match responseData p with
          | some bs => d.finalAnswer i q stOk bs
          | none => d.finalAnswer i q stUncorrectable []
        else if p.status = stInService then d.backOff i 1
        else match q.owner with
          | .query j => (d.closeEntry i).endQuery j (some (p.gen, p.inc))
          | _ =>
            if p.status = stStale then d.reissueOrEnd i
            else if p.status = stBusy && isPiece then d.backOff i 2
            else d.finalAnswer i q p.status []

/-! ### Messages (R237, R263, R345) -/

/-- A sluice message by its TYPE. -/
def Dev.takeSluice (d : Dev) (c : Fin 16) (type : Nat) (m : SluiceMsg) : Dev :=
  d.receive c m fun d =>
    if type = msgToken then d.takeToken c m
    else if type = msgAbortVote then d.takeAbortVote c m
    else if type = msgDecide then d.takeDecide c m
    else if type = msgDecided then d.takeDecided c m
    else if type = msgOutcome then d.takeOutcome c m
    else if type = msgQuery then d.takeQuery c m
    else d

/-- MSG: the sluice and READY in TC4, the turnout in TC6. Management messages in TC7 come as rows of their own (log 11). -/
def Dev.takeMsg (d : Dev) (p : Packet) : Dev :=
  let c : Fin 16 := Fin.ofNat 16 p.destCtx
  if p.tc = 4 then
    if p.spec % 256 = 0x40 then d.takeReady c (readyOf p.data)
    else let (type, m) := sluiceOf p.src p.data
      d.takeSluice c type m
  else if p.tc = 6 then d.turnoutReceive p
  else d

/-! ### Every packet -/

/-- A packet for this device. -/
def Dev.deliverPacket (d : Dev) (p : Packet) : Dev :=
  match p.type with
  | .read => d.takeAccess p
  | .write => d.takeAccess p
  | .accum => d.takeAccum p
  | .readResp => d.takeAnswer p
  | .reply => d.takeAnswer p
  | .msg => d.takeMsg p
  | .genQuery => d.takeGenQuery p

/-- A packet has arrived whole: it is for this device, or goes on with its hop number raised by one (R266, R270). -/
def Dev.arrive (d : Dev) (p : Packet) : Dev :=
  if p.dest = d.fab.id then d.deliverPacket p else d.routePacket { p with hop := p.hop + 1 }

/-- A row that reports a packet of a type. -/
def Dev.arriveAs (d : Dev) (type : PacketType) (p : Packet) : Dev := if p.type = type then d.arrive p else d

/-- READ (R264). -/
def execRead (p : Packet) (s : State) : Host.Outcome State Fault Refusal := done s (s.dev.arriveAs .read p)
/-- WRITE (R263, R264). -/
def execWrite (p : Packet) (s : State) : Host.Outcome State Fault Refusal := done s (s.dev.arriveAs .write p)
/-- READ_RESP (R278). -/
def execReadResp (p : Packet) (s : State) : Host.Outcome State Fault Refusal := done s (s.dev.arriveAs .readResp p)
/-- REPLY (R278). -/
def execReply (p : Packet) (s : State) : Host.Outcome State Fault Refusal := done s (s.dev.arriveAs .reply p)
/-- ACCUM (R300, R301). -/
def execAccum (p : Packet) (s : State) : Host.Outcome State Fault Refusal := done s (s.dev.arriveAs .accum p)
/-- GEN_QUERY (R263). -/
def execGenQuery (p : Packet) (s : State) : Host.Outcome State Fault Refusal := done s (s.dev.arriveAs .genQuery p)

/-- Whether a packet is a turnout message of a kind. -/
def isTurnout (p : Packet) (kind : Nat) : Bool := p.type == .msg && p.tc == 6 && bitsOf p.spec 0 8 == kind

/-- DONE (R333). -/
def execDone (p : Packet) (s : State) : Host.Outcome State Fault Refusal :=
  done s (if isTurnout p 1 then s.dev.arrive p else s.dev)

/-- RELEASE (R332). -/
def execRelease (p : Packet) (s : State) : Host.Outcome State Fault Refusal :=
  done s (if isTurnout p 2 then s.dev.arrive p else s.dev)

/-! ### Timers (R274, R278, R303) -/

/-- The GEN_QUERY for an entry whose timer has expired, and the reference that its answer is compared with. One that R25 refuses
finds no answer. -/
def Dev.askGeneration (d : Dev) (i : Nat) (e : Outst) : Dev :=
  let ref := if e.packet.genValid then some (e.packet.gen, e.packet.inc) else d.cached e.packet.dest e.packet.unit
  let d := d.modEntry i fun q => { q with reference := ref }
  let out := d.fab.entries.any fun q => q.2.owner == .query i && !q.2.discard
  if out then d
  else if d.judgeRemote e.packet.dest ≠ stOk then d.endQuery i none
  else (d.request (.query i) { emptyPacket with type := .genQuery, tc := 7, unit := e.packet.unit, dest := e.packet.dest }).getD d

/-- REQUEST_TIMER_EXPIRY (R274, R278). -/
def Dev.timerExpiry (d : Dev) (i : Nat) : Dev :=
  match d.fab.entries.find? fun e => e.1 == i with
  | none => d
  | some (_, e) =>
    if e.waitUntil.isSome || !d.passed e.issuedAt (usNs d.fab.reqUs) then d
    else if e.discard then d.closeEntry i
    else match e.owner with
      | .query j => (d.closeEntry i).endQuery j none
      | _ => d.askGeneration i e

/-- REQUEST_TIMER_EXPIRY. -/
def execRequestTimerExpiry (entry : Nat) (s : State) : Host.Outcome State Fault Refusal := done s (s.dev.timerExpiry entry)

/-- A back-off of a kind is over: the request is issued again. -/
def Dev.backoffOver (d : Dev) (i why : Nat) : Dev :=
  match d.fab.entries.find? fun e => e.1 == i with
  | none => d
  | some (_, e) =>
    match e.waitUntil with
    | none => d
    | some t => if e.waitFor = why && t ≤ d.now && !e.discard then d.reissueOrEnd i else d

/-- IN_SERVICE_BACKOFF_REISSUE (R278). -/
def execInServiceBackoffReissue (entry : Nat) (s : State) : Host.Outcome State Fault Refusal := done s (s.dev.backoffOver entry 1)

/-- The deadline of the job that an entry's piece belongs to has not passed (R303). -/
def Dev.beforeDeadline (d : Dev) (i : Nat) : Bool :=
  match d.fab.entries.find? fun e => e.1 == i with
  | none => false
  | some (_, e) =>
    match e.owner with
    | .piece c job _ _ => (d.job? c job).any fun j => decide (d.now < j.deadlineAt)
    | _ => false

/-- BUSY_BACKOFF_REISSUE (R303): until the job's deadline. -/
def execBusyBackoffReissue (entry : Nat) (s : State) : Host.Outcome State Fault Refusal :=
  done s (if s.dev.beforeDeadline entry then s.dev.backoffOver entry 2 else s.dev)

end Sys2Proof.Machine
end

