-- ==== Sys2Proof/Machine/Hangs.lean ====
section
/-! DEFINITION. Hangs: reset without drain (R402, R403), suspects and isolated replay (R404 to R406), instances judged faulty
(R407), with the re-calibration and retirement of one array (R57, R58). -/

namespace Sys2Proof.Machine

open Sys2Proof

/-! ### One array: retirement and re-calibration (R3, R4, R57, R58) -/

/-- Good arrays (R3). -/
def Dev.goodArrays (d : Dev) : Nat := ((List.range 64).filter d.goodArray).length

/-- The value of MXA_GRADE (R3). -/
def Dev.grade (d : Dev) : Nat :=
  let n := d.goodArrays
  let g := if n = 64 then 0 else if 56 ≤ n then 1 else if 48 ≤ n then 2 else 3
  packFields [(0, n), (8, g), (10, d.mxa.marked)]

/-- An instance returns to service; its generation goes up by one where `bump`. -/
def Dev.backInService (d : Dev) (cls inst : Nat) (bump : Bool) : Dev :=
  d.modEngine cls inst fun e => { e with service := false, gen := if bump then (e.gen + 1) % 256 else e.gen }

/-- R57, steps 3 and 4: an array is retired for good. -/
def Dev.retireArray (d : Dev) (a : Nat) (bump : Bool) : Dev :=
  let d := d.backInService 1 a bump
  let d := { d with mxa := { d.mxa with retired := d.mxa.retired ||| (1#64 <<< a) } }
  d.deviceEvent 0x0006 d.grade

/-- Keeps the result of a calibration in MXA_CAL_STATUS. -/
def Dev.calNote (d : Dev) (a result code : Nat) (kept : Bool) : Dev :=
  { d with mxa := { d.mxa with
    lastArray := a, lastResult := result, lastCode := code, kept := kept, lastTime := d.tbNs / 2 ^ 30 % 2 ^ 32 } }

/-- R58, steps 2 and 3: the outcome of the built-in test. The code last tried is not given where the array fails: a free value of
0 to 15 after a wrong result, and of 13 to 15 where none of 13 or less passes (DESIGN CHOICE, log 2). -/
def Dev.calibrate (d : Dev) (a : Nat) (r : CalResult) (bump : Bool) : Dev :=
  let setCode := fun (d : Dev) c => { d with mxa := { d.mxa with code := modVec d.mxa.code a fun _ => c } }
  match if r.wrong then none else (List.range 14).find? fun k => r.pass.getLsbD k with
  | some k =>
    let same := d.mxa.code.toList.getD a 15 == k + 2
    (setCode (d.calNote a (if same then 1 else 2) (k + 2) false) (k + 2)).backInService 1 a bump
  | none =>
    let (n, d) := d.draw
    let tried := if r.wrong then (Config.freeWord n).toNat % 16 else 13 + (Config.freeWord n).toNat % 3
    if 1 < d.goodArrays || !d.goodArray a then (d.calNote a 3 tried false).retireArray a bump
    else (setCode (d.calNote a 3 tried true) 15).backInService 1 a bump

/-! ### Draining (R57, R58, R409) -/

/-- Units go back to their commands, to be dispatched elsewhere. -/
def Dev.giveBack (d : Dev) (us : List UnitRef) : Dev :=
  us.foldl (fun d u => if u.suppressed then d else d.modCmd u.ctx u.seq fun k => { k with requeued := u.idx :: k.requeued }) d

/-- An instance stops accepting; what it has not started goes back to its command. True once nothing runs on it. -/
def Dev.drainEngine (d : Dev) (cls inst : Nat) : Dev × Bool :=
  let units := (d.engine cls inst).units
  let d := d.modEngine cls inst fun e => { e with service := true, units := e.units.take 1 }
  (d.giveBack (units.drop 1), units.isEmpty)

/-- Drains an array; a flume pass in its quadrant completes as well (R57). -/
def Dev.drainArray (d : Dev) (a : Nat) : Dev × Bool :=
  let (d, idle) := d.drainEngine 1 a
  (d, idle && (d.engine 2 (a / 16)).units.isEmpty)

/-- Whether an array is being calibrated: by a request, or by the ditch rider. -/
def Dev.calibrating (d : Dev) (a : Nat) : Bool :=
  d.mxa.draining == some a || d.mbx.slots.any fun s => s.opcode == 0xC011 && s.phase == 2 && s.target == a

/-- Whether another array of the quadrant is being calibrated (R59). -/
def Dev.quadrantBusy (d : Dev) (a : Nat) : Bool :=
  (List.range 64).any fun b => b != a && b / 16 == a / 16 && d.calibrating b

/-- R407, R58: an array that a faulty judgement has taken out of service is re-calibrated once it and its quadrant's flume are
idle. With the last of its quadrant a flume that was judged with them is back in service. -/
def Dev.judgedRecalibration (d : Dev) (a : Nat) (r : CalResult) : Dev :=
  if d.quadrantBusy a || (d.engine 1 a).replay.isSome then d
  else match d.drainArray a with
    | (d, false) => d
    | (d, true) =>
      let d := { d with mxa := { d.mxa with judging := d.mxa.judging.filter (· != a) } }
      let d := if d.goodArray a then d.calibrate a r true else d
      if d.mxa.judging.any fun b => b / 16 == a / 16 then d else d.modEngine 2 (a / 16) fun e => { e with service := e.replay.isSome }

/-! ### Reset without drain (R402, R403) -/

/-- Local ranges that a unit must touch: a culvert's piece or an update entry; array, flume and vector work is in the reservoir. -/
def Dev.unitRanges (d : Dev) (cls : Nat) (u : UnitRef) : List (Nat × Nat) :=
  match (d.ctx u.ctx).cmd? u.seq with
  | none => []
  | some k =>
    if cls = 4 then match d.pieceOf u.ctx k u.idx with
      | some p => p.local_ ++ if p.dst.isSome then [] else (p.build [] []).1.map fun w => (w.1, w.2.length)
      | none => []
    else if cls = 5 then match d.shard? (k.handle u.idx) with
      | some x => d.entryRanges u.ctx k u.idx x
      | none => []
    else []

/-- Whether the present moment of a running unit is not counted (R402): it waits for the fabric, for its job, for the host's answer
about a line it must touch, for a unit in service that it must use, or for stalled memory. -/
def Dev.excused (d : Dev) (cls inst : Nat) (u : UnitRef) : Bool :=
  let asks : Owner → Bool := fun o => match o with
    | .culvert _ c s i => cls == 4 && c == u.ctx && s == u.seq && i == u.idx
    | .stage c s i _ => cls == 4 && c == u.ctx && s == u.seq && i == u.idx
    | .workCopy k c s i => cls == 5 && k == inst && c == u.ctx && s == u.seq && i == u.idx
    | _ => false
  let rs := d.unitRanges cls u
  d.clk.refLost || (cls == 5 && !u.began) || (d.fab.entries.any fun e => asks e.2.owner && !e.2.discard)
    || (d.link.snooped.any fun l => rs.any fun r => overlaps r.1 r.2 (64 * l) 64)
    || (unitsOfRanges rs).any fun k => (cls != 5 || k != inst) && d.unitInService k

/-- A ns passes for an instance: it counts for the unit that runs. -/
def Dev.stillHere (d : Dev) (cls inst : Nat) (e : Engine) : Engine :=
  match e.units with
  | [] => e
  | u :: r => if d.excused cls inst u then e else { e with units := { u with still := u.still + 1 } :: r }

/-- A ns passes for every instance (R402). -/
def Dev.countStill (d : Dev) : Dev :=
  { d with
    mxa := { d.mxa with arrays := Vector.ofFn fun i : Fin 64 => d.stillHere 1 i.val d.mxa.arrays[i] }
    flm := { d.flm with flumes := Vector.ofFn fun i : Fin 4 => d.stillHere 2 i.val d.flm.flumes[i] }
    vxe := { d.vxe with engines := Vector.ofFn fun i : Fin 16 => d.stillHere 3 i.val d.vxe.engines[i] }
    clv := { d.clv with engines := Vector.ofFn fun i : Fin 16 => d.stillHere 4 i.val d.clv.engines[i] }
    ctl := { d.ctl with engines := Vector.ofFn fun i : Fin 16 => d.stillHere 5 i.val d.ctl.engines[i] } }

/-- An instance is hung (R402): its running unit has stood still for 1,000 µs. -/
def Dev.hung (d : Dev) (cls inst : Nat) : Bool :=
  match (d.engine cls inst).units with
  | [] => false
  | u :: _ => decide (usNs 1000 ≤ u.still)

/-- A set of contexts as a mask. -/
def ctxMask (l : List (Fin 16)) : Nat := l.foldl (fun m c => m ||| 2 ^ c.val) 0

/-- R403: the instance is reset: it is in service, its units are discarded, its generation goes up, and every context is told. -/
def Dev.resetInstance (d : Dev) (cls inst : Nat) (suspects : List (Fin 16)) : Dev :=
  let units := (d.engine cls inst).units
  let d := d.modEngine cls inst fun e => { e with units := [], service := true, gen := (e.gen + 1) % 256 }
  let d := units.foldl (fun d u => d.disown fun o => match o with
    | .culvert _ c s i => cls == 4 && c == u.ctx && s == u.seq && i == u.idx
    | .stage c s i _ => cls == 4 && c == u.ctx && s == u.seq && i == u.idx
    | _ => false) d
  d.eventAll 0x0051 (packFields [(0, cls), (8, inst), (16, (d.engine cls inst).gen), (24, ctxMask suspects)])

/-- R403 for a memory controller: it is in service for 20 µs, the requests it had accepted are lost, its jobs are lost (R307), and its
update entries run again from the start. -/
def Dev.resetController (d : Dev) (k : Nat) : Dev :=
  let mine : Owner → Bool := fun o => match o with
    | .workCopy j _ _ _ => j == k
    | _ => false
  let d := (d.disown mine).modEngine 5 k fun e => { e with
    service := true, resetEnds := some (d.now + usNs 20), gen := (e.gen + 1) % 256
    units := e.units.map fun u => { u with began := false, rx := [], still := 0 } }
  let d := { d with fab := { d.fab with stalled := d.fab.stalled.filter fun p => p.unit != k } }
  let d := d.eventAll 0x0051 (packFields [(0, 5), (8, k), (16, (d.engine 5 k).gen)])
  d.loseJobs k

/-- The reset of a controller has ended: it accepts again, unless it is being drained for a retirement (DESIGN CHOICE, log 20). -/
def Dev.endResets (d : Dev) : Dev :=
  let draining := fun (i : Nat) => d.rsv.retiring.any fun r => r.1 == i
  let back := fun (i : Nat) (e : Engine) =>
    if e.resetEnds.any fun t => decide (t ≤ d.now) then { e with resetEnds := none, service := draining i } else e
  { d with ctl := { d.ctl with engines := Vector.ofFn fun i : Fin 16 => back i.val d.ctl.engines[i] } }

/-- Whether the reset of a controller is over and still to be ended. -/
def Dev.resetOver (d : Dev) : Bool := d.ctl.engines.any fun e => e.resetEnds.any fun t => decide (t ≤ d.now)

/-! ### Isolated replay (R404 to R406) -/

/-- A replay verdict (R405, R420). -/
def Dev.verdict (d : Dev) (c : Fin 16) (cls inst code : Nat) : Dev :=
  d.event c 0 0x0052 0 (packFields [(0, code), (8, cls), (16, inst)])

/-- Changes the record of a replay. -/
def Dev.modReplay (d : Dev) (cls inst : Nat) (f : Replay → Replay) : Dev :=
  d.modEngine cls inst fun e => { e with replay := e.replay.map f }

/-- The record of an instance's replay. -/
def Dev.replayOf (d : Dev) (cls inst : Nat) : Replay := ((d.engine cls inst).replay).getD {}

/-- The innocent verdicts earned, all together. -/
def Dev.placeInnocent (d : Dev) (cls inst code : Nat) : Dev :=
  (d.replayOf cls inst).innocent.foldl (fun d c => d.verdict c cls inst code) d

/-- A suspect has earned an innocent verdict, if it has had none and is not being removed (R405). -/
def Replay.clear (r : Replay) (c : Fin 16) : Replay :=
  if r.gone.contains c || r.told.contains c then r else { r with innocent := r.innocent ++ [c] }

/-- Takes the next suspect, skipping those being removed; one with nothing left that is held has hung nothing. At the end the
instance returns to service. One suspect for each unit of fuel. -/
def Dev.nextSuspect : Nat → Nat → Nat → Dev → Dev
  | 0, _, _, d => d
  | n + 1, cls, inst, d =>
    let r := d.replayOf cls inst
    match r.suspects with
    | [] =>
      let d := d.placeInnocent cls inst (if r.anyHang then 0 else 3)
      d.modEngine cls inst fun e => { e with replay := none, service := false }
    | c :: rest =>
      let mine := r.held.filter fun u => u.ctx == c
      let d := d.modReplay cls inst fun r => { r with suspects := rest, held := r.held.filter (·.ctx != c) }
      if r.gone.contains c then Dev.nextSuspect n cls inst d
      else if mine.isEmpty then Dev.nextSuspect n cls inst (d.modReplay cls inst fun r => r.clear c)
      else (d.modReplay cls inst fun r => { r with current := some c }).modEngine cls inst fun e =>
        { e with units := mine.map fun u => { u with still := 0, rx := [], built := none } }

/-- R406: the command of a unit that had begun to write ends with ABORTED, once its other units have completed; its units that
wrote nothing are replayed before. -/
def Dev.notReplayed (d : Dev) (cls inst : Nat) (u : UnitRef) : Dev :=
  let d := d.modReplay cls inst fun r => { r with told := u.ctx :: r.told }
  ((d.failUnit u.ctx u.seq stAborted 0).settle u.ctx u.seq).verdict u.ctx cls inst 2

/-- Whether the running unit of an instance had begun to write its destination (R406). A piece that writes on another device has
once a WRITE of it has been sent; of any other the manual lets nobody know: a free value (log 2). -/
def Dev.hadBegun (d : Dev) (cls : Nat) (u : UnitRef) : Dev × Bool :=
  let remote := cls == 4 && (((d.ctx u.ctx).cmd? u.seq).bind fun k => d.pieceOf u.ctx k u.idx).any (·.dst.isSome)
  let sent : Owner → Bool := fun o => match o with
    | .culvert _ c s i => c == u.ctx && s == u.seq && i == u.idx
    | .stage c s i _ => c == u.ctx && s == u.seq && i == u.idx
    | _ => false
  let (n, d) := d.draw
  (d, if remote then !u.rx.isEmpty || d.fab.entries.any (fun e => sent e.2.owner && !e.2.discard) else Config.freeBool n)

/-- ENGINE_HANG for an array, flume, vector engine or culvert. -/
def Dev.engineReset (d : Dev) (cls inst : Nat) : Dev :=
  let units := (d.engine cls inst).units
  match units with
  | [] => d
  | head :: rest =>
    let (d, began) := d.hadBegun cls head
    let suspects := ((sortBy (·.order) units).map (·.ctx)).eraseDups
    let gone := suspects.filter fun c => (d.ctx c).removing || !(d.ctx c).watched
    let live := fun (u : UnitRef) => !u.suppressed && !gone.contains u.ctx
    let wrote := if began then [head].filter live else []
    let held := (if began then rest else units).filter live
    let d := d.resetInstance cls inst suspects
    let d := d.modEngine cls inst fun e => { e with replay := some { suspects := suspects, held := held, gone := gone } }
    let d := wrote.foldl (fun d u => d.notReplayed cls inst u) d
    Dev.nextSuspect 17 cls inst d

/-- ENGINE_HANG (R402, R403). -/
def execEngineHang (cls inst : Nat) (s : State) : Host.Outcome State Fault Refusal :=
  let d := s.dev
  if cls = 0 || 5 < cls || instances cls ≤ inst || (d.engine cls inst).replay.isSome || !d.hung cls inst then done s d
  else if cls = 5 then done s (d.resetController inst)
  else done s (d.engineReset cls inst)

/-! ### The end of a suspect's replay (R405, R407) -/

/-- Runs what is left of a suspect's units; one for each unit of fuel. A culvert's piece may have to wait for the fabric. -/
def Dev.runHeld : Nat → Nat → Nat → Dev → Dev
  | 0, _, _, d => d
  | n + 1, cls, inst, d =>
    if (d.engine cls inst).units.isEmpty then d
    else
      let d := match cls with
        | 1 => d.completeUnit 1 inst Dev.runArray
        | 2 => d.completeUnit 2 inst Dev.runFlume
        | 3 => d.completeUnit 3 inst Dev.runVector
        | _ => d.culvertEnd inst
      Dev.runHeld n cls inst d

/-- A suspect's units have completed: it is innocent (R405). -/
def Dev.replayGood (d : Dev) (cls inst : Nat) (c : Fin 16) : Dev :=
  let d := Dev.runHeld (d.engine cls inst).units.length cls inst d
  if !(d.engine cls inst).units.isEmpty then d
  else
    let d := d.modReplay cls inst fun r => { r.clear c with current := none, hungInRow := 0 }
    Dev.nextSuspect 17 cls inst d

/-- R407: replay stops: what is held goes to other instances, and innocent verdicts are placed at once. A command that has failed
ends, as nothing of it runs. -/
def Dev.stopReplay (d : Dev) (cls inst : Nat) : Dev :=
  let held := (d.replayOf cls inst).held
  let d := ((d.placeInnocent cls inst 0).modEngine cls inst fun e => { e with replay := none }).giveBack held
  held.foldl (fun d u => d.settle u.ctx u.seq) d

/-- Arrays are taken out of service to be re-calibrated (R58, R407): what they have not started goes back to its commands. -/
def Dev.takeOut (d : Dev) (arrays : List Nat) : Dev :=
  let d := { d with mxa := { d.mxa with judging := d.mxa.judging ++ arrays } }
  arrays.foldl (fun d a => (d.drainEngine 1 a).1) d

/-- R407: the instance is judged faulty. An array is re-calibrated with the reported result as soon as its quadrant's flume is idle;
a flume stays out of service until the arrays of its quadrant have been re-calibrated one by one, each at its
ARRAY_RECALIBRATION (log 10). -/
def Dev.judgeFaulty (d : Dev) (cls inst : Nat) (testOk : Bool) (cal : CalResult) : Dev :=
  let d := d.eventAll 0x0053 (packFields [(0, cls), (8, inst)])
  if cls = 1 then ((d.stopReplay 1 inst).takeOut [inst]).judgedRecalibration inst cal
  else if cls = 2 then
    (d.stopReplay 2 inst).takeOut (((List.range 16).map (16 * inst + ·)).filter fun a => d.goodArray a && !d.mxa.judging.contains a)
  else
    let d := d.modEngine cls inst fun e => { e with ucode := d.sec.runVersion, gen := (e.gen + 1) % 256 }
    if testOk then Dev.nextSuspect 17 cls inst (d.modReplay cls inst fun r => { r with hungInRow := 0 })
    else
      let d := d.eventAll 0x0053 (packFields [(0, cls), (8, inst), (16, 1)])
      (d.stopReplay cls inst).modEngine cls inst fun e => { e with dead := true }

/-- A unit of the suspect hangs again (R405, R407): the suspect is guilty, unless it is being removed. With no suspect left,
or after two in a row, the instance is judged faulty (DEDUCED, log 20). -/
def Dev.replayHung (d : Dev) (cls inst : Nat) (c : Fin 16) (testOk : Bool) (cal : CalResult) : Dev :=
  let d := d.resetInstance cls inst [c]
  let d := d.modReplay cls inst fun r => { r with current := none, anyHang := true, hungInRow := r.hungInRow + 1 }
  let r := d.replayOf cls inst
  let d := if r.gone.contains c || !(d.ctx c).watched then d else d.faultWith c 6 fun d => if r.told.contains c then d else d.verdict c cls inst 1
  let r := d.replayOf cls inst
  if 2 ≤ r.hungInRow || r.suspects.all r.gone.contains then d.judgeFaulty cls inst testOk cal
  else Dev.nextSuspect 17 cls inst d

/-- ISOLATED_REPLAY (R405, R407): the replay of the present suspect ends, or hangs again under the bound of R402. `testOk` and `cal` are the results of
the tests that follow a faulty judgement. -/
def execIsolatedReplay (cls inst : Nat) (hung testOk : Bool) (cal : CalResult) (s : State) : Host.Outcome State Fault Refusal :=
  let d := s.dev
  match (d.replayOf cls inst).current with
  | none => done s d
  | some c =>
    if cls = 0 || 4 < cls || instances cls ≤ inst then done s d
    else done s (if !hung then d.replayGood cls inst c
      else if d.hung cls inst then d.replayHung cls inst c testOk cal else d)

end Sys2Proof.Machine
end

