-- ==== Sys2Proof/Machine/Service.lean ====
section
/-! DEFINITION. Service of units (R409 to R411): array retirement and re-calibration (R57 to R59), retirement of pseudo-channels
(R144 to R146), the patrol scrubber (R141), and ditch rider cores that miss their heartbeat (R408). -/

namespace Sys2Proof.Machine

open Sys2Proof

/-! ### Slots -/

/-- A slot's work has begun. -/
def Dev.slotRuns (d : Dev) (i : Fin 8) : Dev :=
  { d with mbx := { d.mbx with slots := d.mbx.slots.set i { d.mbx.slots[i] with phase := 2 } } }

/-! ### Arrays (R57 to R59) -/

/-- ARRAY_RETIREMENT: it waits for a re-calibration of the array (R59) and for a replay on it (R407). -/
def Dev.arrayRetirement (d : Dev) (a : Fin 64) : Dev :=
  match d.serviceSlot 0xC010 a.val with
  | none => d
  | some i =>
    if d.serviceFor 0xC011 a.val || d.mxa.draining == some a.val || d.mxa.judging.contains a.val || (d.engine 1 a.val).replay.isSome then d
    else if d.arrayGone a.val then d.serviceEnd i stOk
    else if d.goodArrays ≤ 1 then d.serviceEnd i stNoResource
    else match (d.slotRuns i).drainArray a.val with
      | (d, false) => d
      | (d, true) => (d.retireArray a.val true).serviceEnd i stOk

/-- ARRAY_RETIREMENT (R57). -/
def execArrayRetirement (a : Fin 64) (s : State) : Host.Outcome State Fault Refusal := done s (s.dev.arrayRetirement a)

/-- ARRAY_RECALIBRATION: of an array that a faulty judgement has taken out of service (R407), or by request; at most one in a
quadrant at a time. -/
def Dev.arrayRecalibration (d : Dev) (a : Fin 64) (r : CalResult) : Dev :=
  if d.mxa.judging.contains a.val then d.judgedRecalibration a.val r
  else match d.serviceSlot 0xC011 a.val with
  | none => d
  | some i =>
    if d.arrayGone a.val then d.serviceEnd i stBadArg
    else if d.quadrantBusy a.val || d.mxa.draining == some a.val || (d.engine 1 a.val).replay.isSome then d
    else match (d.slotRuns i).drainArray a.val with
      | (d, false) => d
      | (d, true) => (d.calibrate a.val r true).serviceEnd i stOk

/-- ARRAY_RECALIBRATION (R58). -/
def execArrayRecalibration (a : Fin 64) (r : CalResult) (s : State) : Host.Outcome State Fault Refusal :=
  done s (s.dev.arrayRecalibration a r)

/-- Goes on with the re-calibration that the ditch rider has begun. -/
def Dev.periodicDrain (d : Dev) (a : Nat) (r : CalResult) : Dev :=
  if (d.engine 1 a).replay.isSome then d
  else match d.drainArray a with
    | (d, false) => d
    | (d, true) => ({ d with mxa := { d.mxa with draining := none } }).calibrate a r true

/-- PERIODIC_RECALIBRATION: the next working array in order; one in service keeps its turn (R59). -/
def Dev.periodic (d : Dev) (r : CalResult) : Dev :=
  match d.mxa.draining with
  | some a => d.periodicDrain a r
  | none =>
    if d.mxa.intervalH = 0 || !d.boot.arrays || !d.passed d.mxa.turnAt (d.mxa.intervalH * 3600000000000) then d
    else match ((List.range 64).map fun i => (d.mxa.turn + i) % 64).find? d.goodArray with
      | none => d
      | some a =>
        if (d.engine 1 a).service then { d with mxa := { d.mxa with turn := a, turnAt := d.now } }
        else if d.quadrantBusy a then d
        else ({ d with mxa := { d.mxa with turn := (a + 1) % 64, turnAt := d.now, draining := some a } }).periodicDrain a r

/-- PERIODIC_RECALIBRATION (R59). -/
def execPeriodicRecalibration (r : CalResult) (s : State) : Host.Outcome State Fault Refusal := done s (s.dev.periodic r)

/-! ### Pseudo-channels (R144 to R146) -/

/-- Whether the retirement still waits for a step in flight on a RUNNING context, at most for that context's watchdog time. -/
def Dev.stepsBlock (d : Dev) (since : Nat) : Bool :=
  allCtx.any fun c => (d.ctx c).state == .running && d.stepOpen c && !d.passed since (msNs (d.ctx c).watchdogMs)

/-- Controller `s` stops accepting: entries that have not begun go back. True once none runs and every request that it has accepted
has been answered (R145, R276). -/
def Dev.drainController (d : Dev) (s : Nat) : Dev × Bool :=
  let d := d.modEngine 5 s fun e => { e with service := true, units := e.units.filter (·.began) }
  (d, (d.engine 5 s).units.isEmpty && d.fab.stalled.all fun p => p.unit != s)

/-- R145, step 4: the retired pseudo-channel's data is copied; granules that fail meanwhile become poisoned, and the damage stays
behind. -/
def Dev.movePc (d : Dev) (s pc : Nat) : Dev :=
  d.moveGranules fun g => regionOf (32 * g) == .hbm && stackOf (32 * g) == s && pcOf (32 * g) == pc

/-- R146: the next window of a stack goes with its data; shards with a slot in it are lost (R196). -/
def Dev.removeWindow (d : Dev) (s : Nat) : Dev :=
  let k := d.rsv.windows.toList.getD s 0 + 1
  let lo := hbmBase + s * stackBytes + (36 - 2 * k) * gib
  let gone := fun (g : Nat) => decide (lo ≤ 32 * g) && decide (32 * g < lo + 2 * gib)
  let d := d.modShards (fun x => overlaps x.slot0 x.slotSize lo (2 * gib) || overlaps x.slot1 x.slotSize lo (2 * gib))
    fun x => { x with lost := true }
  { d with
    rsv := { d.rsv with windows := modVec d.rsv.windows s (· + 1) }
    mem := { d.mem with
      cells := d.mem.cells.filter fun c => !(decide (lo ≤ c.1) && decide (c.1 < lo + 2 * gib))
      poison := d.mem.poison.filter fun g => !gone g
      errs := d.mem.errs.filter fun e => !gone e.1
      hard := d.mem.hard.filter fun e => !gone e.1 } }

/-- R145, steps 4 to 6. -/
def Dev.finishRetirement (d : Dev) (s pc : Nat) : Dev :=
  let d := (d.removeWindow s).movePc s pc
  let d := { d with rsv := { d.rsv with
    retiredPc := modVec d.rsv.retiredPc s fun v => v ||| (1#32 <<< pc)
    autoRetire := d.rsv.autoRetire.filter (· != (s, pc))
    retiring := none } }
  let d := (d.backInService 5 s true).deviceEvent 0x0009 (packFields [(0, pc), (8, s)])
  match d.serviceSlot 0xC012 (256 * s + pc) with
  | some i => d.serviceEnd i stOk
  | none => d

/-- PC_RETIREMENT: one at a time (DESIGN CHOICE, log 20). -/
def Dev.pcRetirement (d : Dev) (s pc : Nat) : Dev :=
  let slot := d.serviceSlot 0xC012 (256 * s + pc)
  if slot.isNone && !d.rsv.autoRetire.contains (s, pc) then d
  else
    let d := if d.rsv.retiring.isSome then d else
      let d := match slot with
        | some i => d.slotRuns i
        | none => d
      { d with rsv := { d.rsv with retiring := some (s, pc, d.now) } }
    match d.rsv.retiring with
    | none => d
    | some (s', pc', since) =>
      if s' ≠ s || pc' ≠ pc || d.stepsBlock since then d
      else match d.drainController s with
        | (d, false) => d
        | (d, true) => d.finishRetirement s pc

/-! ### Patrol scrub (R137, R138, R141) -/

/-- The tier of a granule, by number: reservoir, HBM3E, LPDDR5X. -/
def tierOf (g : Nat) : Option Nat :=
  match regionOf (32 * g) with
  | .reservoir => some 0
  | .hbm => some 1
  | .lpddr => some 2
  | _ => none

/-- Errors arise in a stored granule. -/
def Dev.upset (d : Dev) (u : Upset) : Dev :=
  let p := xorPattern [] (u.symbols.filter fun e => e.1 < 36)
  let add := fun (l : List (Nat × List (Nat × Byte))) =>
    let q := xorPattern (lookupD u.granule [] l) p
    if q.isEmpty then eraseKey u.granule l else insertKey u.granule q l
  if (tierOf u.granule).isNone || d.mem.poisoned u.granule then d
  else if u.hard then { d with mem := { d.mem with hard := add d.mem.hard } }
  else { d with mem := { d.mem with errs := add d.mem.errs } }

/-- The scrub interval of a tier in hours. -/
def Rsv.hours (r : Rsv) (tier : Nat) : Nat := if tier = 0 then r.rsvHours else if tier = 1 then r.hbmHours else r.lpHours

/-- Reads every granule of a tier; only those with errors or damage can change anything. -/
def Dev.scrubTier (d : Dev) (tier : Nat) : Dev :=
  let gs := (((d.mem.errs.map (·.1)) ++ d.mem.hard.map (·.1)).filter fun g => tierOf g == some tier && !d.inRemoved (32 * g) 32).eraseDups
  let d := gs.foldl (fun d g => (d.readGranule srcScrub g).1) d
  { d with rsv := { d.rsv with scrubbedAt := modVec d.rsv.scrubbedAt tier fun _ => d.now } }

/-- PATROL_SCRUB: the errors that have arisen, and the scrub of a tier once its interval is over. -/
def Dev.patrol (d : Dev) (tier : Nat) (us : List Upset) : Dev :=
  let d := us.foldl Dev.upset d
  let h := d.rsv.hours tier
  if h = 0 || (d.clk.refLost && tier != 0) || !d.passed (d.rsv.scrubbedAt.toList.getD tier 0) (h * 3600000000000) then d
  else d.scrubTier tier

/-- PATROL_SCRUB (R141). -/
def execPatrolScrub (tier : Fin 3) (upsets : List Upset) (s : State) : Host.Outcome State Fault Refusal :=
  done s (s.dev.patrol tier.val upsets)

/-! ### Cores (R158, R408) -/

/-- The contexts that `p` selects move to FAULTED with cause 5. -/
def Dev.faultEach (d : Dev) (p : Dev → Fin 16 → Bool) : Dev :=
  allCtx.foldl (fun d c =>
    if p d c && (d.ctx c).state ≠ .closed && (d.ctx c).state ≠ .faulted then d.faultContext c 5 else d) d

/-- Core 3 restarts: the command in progress and the service slots end with TIMEOUT, and what they had taken out of service
returns (DEDUCED, log 20). -/
def Dev.losesMailbox (d : Dev) : Dev :=
  let d := (List.finRange 8).foldl (fun d i =>
    if d.mbx.slots[i].phase = 1 || d.mbx.slots[i].phase = 2 then d.serviceEnd i stTimeout else d) d
  let d := d.mapEngines fun e => { e with service := e.dead || e.replay.isSome || e.resetEnds.isSome }
  let d := { d with
    rsv := { d.rsv with retiring := none }, mxa := { d.mxa with draining := none, judging := [] }
    sec := { d.sec with activating := none, reverting := false, reloaded := [] } }
  if d.mbx.doorbell then
    ({ d with mbx := { d.mbx with resetting := none, waiting := false } }).mbxEnd stTimeout 0
  else d

/-- CORE_HEARTBEAT_MISS. -/
def Dev.coreRestart (d : Dev) (core : Nat) : Dev :=
  let d := if core = 2 then d.faultEach fun d c => d.stepOpen c
    else if core = 3 then d.losesMailbox
    else d.faultEach fun _ c => c.val % 2 == core
  d.eventAll 0x0054 core

end Sys2Proof.Machine
end

