-- ==== Sys2Proof/Machine/Firmware.lean ====
section
/-! DEFINITION. Signed images (R434, R435), the firmware commands (R412, R415, R419, R436), the switch of the cores (R413) and the
reload of microcode (R414). -/

namespace Sys2Proof.Machine

open Sys2Proof

/-! ### Images (R434, R435) -/

/-- PAYLOAD_LEN. -/
def imgPayload (img : List Byte) : Nat := fieldAt img 20 4
/-- VERSION. -/
def imgVersion (img : List Byte) : Nat := fieldAt img 8 4
/-- SVN. -/
def imgSvn (img : List Byte) : Nat := fieldAt img 12 1
/-- LMS_SIG_LEN. -/
def imgLmsLen (img : List Byte) : Nat := fieldAt img 276 4
/-- Where ECDSA_SIG begins: the next multiple of 16 after the payload. -/
def imgSigs (img : List Byte) : Nat := alignUp (512 + imgPayload img) 16
/-- Bytes of the whole image. -/
def imgTotal (img : List Byte) : Nat := imgSigs img + 96 + imgLmsLen img
/-- M: SHA-384 of bytes 0 to 511 + PAYLOAD_LEN. -/
def imgMeasure (img : List Byte) : List Byte := sha384 (img.take (512 + imgPayload img))

/-- Offset and length of section `i`. -/
def imgSection (img : List Byte) (i : Nat) : Nat × Nat := (fieldAt img (24 + 8 * i) 4, fieldAt img (28 + 8 * i) 4)

/-- R435, check 1, for an image given as exactly its bytes; the largest SVN is 64, and 16 for the meter (R471). -/
def imgWellFormed (maxSvn : Nat) (img : List Byte) : Bool :=
  decide (512 ≤ img.length) && fieldAt img 0 4 == 0x49574654 && fieldAt img 4 2 == 1
    && zeroAt img 6 2 && zeroAt img 13 3 && zeroAt img 280 232
    && decide (imgSvn img ≤ maxSvn) && decide (imgLmsLen img ≤ 16384)
    && (List.range 6).all (fun i => decide ((imgSection img i).1 + (imgSection img i).2 ≤ imgPayload img))
    && decide (((List.range 4).foldl (fun t i => t + (imgSection img i).2) 0) ≤ 1536 * 1024)
    && decide (imgTotal img ≤ 4 * 1024 * 1024) && imgTotal img == img.length

/-- R435: the status of an image under given root digests and blown fuses. The signatures are of named standards (log 8). -/
def imgVerify (ecdsaRoot lmsRoot : List Byte) (maxSvn fuses : Nat) (img : List Byte) : Nat :=
  let ecdsaPub := (img.drop 120).take 96
  let lmsPub := (img.drop 216).take 60
  let m := imgMeasure img
  let sigs := img.drop (imgSigs img)
  if !imgWellFormed maxSvn img then stBadArg
  else if sha384 ecdsaPub != ecdsaRoot || sha384 lmsPub != lmsRoot then stAuthFail
  else if sha384 ((img.drop 512).take (imgPayload img)) != (img.drop 72).take 48 then stAuthFail
  else if !Config.ecdsaVerifies ecdsaPub m (sigs.take 96) then stAuthFail
  else if !Config.hssVerifies lmsPub m ((sigs.drop 96).take (imgLmsLen img)) then stAuthFail
  else if imgSvn img < fuses then stAuthFail
  else stOk

/-- The same for an image of this device. -/
def Dev.verify (d : Dev) (img : List Byte) : Nat :=
  imgVerify Config.ecdsaRootDigest Config.lmsRootDigest 64 d.sec.svnFuses img

/-- The image in a slot. -/
def Sec.image (x : Sec) (slot : Nat) : List Byte := if slot = 0 then x.slotA else x.slotB

/-- Puts an image into a slot. -/
def Sec.setImage (x : Sec) (slot : Nat) (img : List Byte) : Sec := if slot = 0 then { x with slotA := img } else { x with slotB := img }

/-- The slot that is not running: the one a staged image is in. -/
def Sec.otherSlot (x : Sec) : Nat := 1 - x.runSlot

/-- The image in a slot runs from now on. -/
def Sec.run (x : Sec) (slot : Nat) : Sec :=
  let img := x.image slot
  { x with
    runSlot := slot, runVersion := imgVersion img, runSvn := imgSvn img, runHandoff := fieldAt img 16 2, runDigest := imgMeasure img }

/-! ### Staging, activation and commit (R412, R413, R415, R419, R436) -/

/-- Whether an activation is pending or running. -/
def Dev.activationPending (d : Dev) : Bool := !(d.services 0xC141).isEmpty

/-- FW_STAGE. An image that can not be read, and a device with no slot free of the running image and the boot default, end it
with BAD_ARG (DESIGN CHOICE, log 21). -/
def cmdFwStage : Command := fun d p =>
  let src := fieldAt p 0 8
  let len := fieldAt p 8 8
  let cold := bitOf (fieldAt p 16 1) 0
  if 1 < fieldAt p 16 1 || !zeroAt p 17 7 || !aligned src 4096 || len = 0 || 4 * 1024 * 1024 < len || d.slowStatus src len ≠ stOk then
    ends d stBadArg
  else if d.activationPending then ends d stBusy
  else d.whenFree [(src, len)] fun d =>
    match d.readBytes srcWork src len with
    | (d, none) => ends d stBadArg
    | (d, some img) =>
      let st := d.verify img
      if st ≠ stOk then ends d st
      else if !cold && d.sec.runHandoff < fieldAt img 18 2 then ends d stBadArg
      else if d.sec.runSlot ≠ d.sec.bootDefault then ends d stBadArg
      else
        let sec := d.sec.setImage d.sec.otherSlot img
        ends { d with sec := { sec with staged := true, stagedCold := cold } } stOk

/-- FW_ACTIVATE at acceptance. -/
def cmdFwActivate : Command := fun d p =>
  if !zeroAt p 0 4 then ends d stBadArg
  else d.accept 0xC141 0
    (if d.activationPending then stBusy
    else if !d.sec.staged || d.sec.stagedCold then stBadArg
    else stOk)

/-- FW_COMMIT: fuses are blown up to the image's SVN, then the boot-default marker is written (R436); one instant here
(log 21). -/
def cmdFwCommit : Command := fun d p =>
  if !zeroAt p 0 4 then ends d stBadArg
  else if d.activationPending then ends d stBusy
  else
    let slot := if d.sec.staged && d.sec.stagedCold then d.sec.otherSlot else d.sec.runSlot
    if slot = d.sec.bootDefault then ends d stBadArg
    else
      let f := max d.sec.svnFuses (imgSvn (d.sec.image slot))
      ends { d with sec := { d.sec with svnFuses := f, bootDefault := slot } } stOk

/-- VERSION of the staged image; 0 with none (DESIGN CHOICE, log 21). -/
def Sec.stagedVersion (x : Sec) : Nat := if x.staged then imgVersion (x.image x.otherSlot) else 0

/-- FW_QUERY. The security version is F (log 21). -/
def cmdFwQuery : Command := fun d _ =>
  let x := d.sec
  let resp := toLe 1 x.runSlot ++ toLe 1 x.bootDefault ++ toLe 1 (bit x.staged + 2 * bit (x.staged && x.stagedCold)) ++ toLe 1 0
    ++ toLe 4 x.runVersion ++ toLe 4 x.stagedVersion ++ toLe 4 x.svnFuses
  (d, some { status := stOk, resp := resp })

/-- FW_STAGE (R412). -/
def execFwStage (p : List Byte) (s : State) : Host.Outcome State Fault Refusal := done s (s.dev.submit 0xC140 p cmdFwStage)
/-- FW_ACTIVATE (R413). -/
def execFwActivate (p : List Byte) (s : State) : Host.Outcome State Fault Refusal := done s (s.dev.submit 0xC141 p cmdFwActivate)
/-- FW_COMMIT (R436). -/
def execFwCommit (p : List Byte) (s : State) : Host.Outcome State Fault Refusal := done s (s.dev.submit 0xC142 p cmdFwCommit)
/-- FW_QUERY (R419). -/
def execFwQuery (p : List Byte) (s : State) : Host.Outcome State Fault Refusal := done s (s.dev.submit 0xC143 p cmdFwQuery)

/-! ### Cores (R413, R414) -/

/-- The order in which the cores switch. -/
def switchOrder : List Nat := [3, 0, 1, 2]

/-- A core has restarted: units 17 and 19 show a new generation with cores 2 and 3. -/
def Dev.bumpCore (d : Dev) (core : Nat) : Dev :=
  let up := fun i => { d with fab := { d.fab with gen := modVec d.fab.gen i fun g => (g + 1) % 256 } }
  if core = 2 then up 1 else if core = 3 then up 3 else d

/-- An activation ends: its slot and the event of R420. -/
def Dev.endActivation (d : Dev) (status : Nat) : Dev :=
  let d := { d with sec := { d.sec with activating := none, reverting := false, reloaded := [] } }
  let d := match d.serviceSlot 0xC141 0 with
    | some i => d.serviceEnd i status
    | none => d
  d.eventAll 0x0055 (packFields [(0, bit (status == stOk)), (1, d.sec.runSlot), (32, d.sec.runVersion)])

/-- The vector engines and culverts. -/
def ucodeUnits : List (Nat × Nat) := (List.range 16).map (3, ·) ++ (List.range 16).map (4, ·)

/-- Whether an activation has still to reload an instance; one out of service for good has nothing to load. -/
def Dev.reloadDue (d : Dev) (e : Nat × Nat) : Bool :=
  d.sec.activating == some 4 && !d.sec.reloaded.contains e && !(d.engine e.1 e.2).dead

/-- A core returns to the old image; the last one ends the activation with TIMEOUT. -/
def Dev.switchBack (d : Dev) (core n : Nat) : Dev :=
  if switchOrder.getD (n - 1) 4 ≠ core then d
  else
    let d := d.bumpCore core
    if n = 1 then d.endActivation stTimeout else { d with sec := { d.sec with activating := some (n - 1) } }

/-- The next core in order switches. With the fourth the staged image is the running one. If the self-test fails, the cores that
have switched return, the last one first (DESIGN CHOICE, log 21). -/
def Dev.coreSwitch (d : Dev) (core : Nat) (ok : Bool) : Dev :=
  match d.serviceSlot 0xC141 0 with
  | none => d
  | some i =>
    let n := d.sec.activating.getD 0
    if d.sec.reverting then d.switchBack core n
    else if switchOrder.getD n 4 ≠ core then d
    else
      let d := d.slotRuns i
      if ok then
        let d := d.bumpCore core
        let d := { d with sec := { d.sec with activating := some (n + 1) } }
        if n = 3 then
          let d := { d with sec := { d.sec.run d.sec.otherSlot with staged := false } }
          if ucodeUnits.any d.reloadDue then d else d.endActivation stOk
        else d
      else if n = 0 then d.endActivation stTimeout
      else { d with sec := { d.sec with reverting := true } }

/-- FIRMWARE_CORE_SWITCH (R413, R414). -/
def execFirmwareCoreSwitch (core : Fin 4) (selfTestOk : Bool) (s : State) : Host.Outcome State Fault Refusal :=
  done s (s.dev.coreSwitch core.val selfTestOk)

/-! ### Microcode (R409, R414) -/

/-- Whether another instance of the quadrant is being reloaded (R414). -/
def Dev.reloadingBeside (d : Dev) (cls inst : Nat) : Bool :=
  ucodeUnits.any fun e => e != (cls, inst) && e.2 / 4 == inst / 4 && (d.engine e.1 e.2).service
    && !(d.engine e.1 e.2).dead && (d.engine e.1 e.2).replay.isNone

/-- The instance has drained and is reloaded: a new generation, and the microcode of the running image. -/
def Dev.reloaded (d : Dev) (cls inst : Nat) : Dev :=
  let d := (d.backInService cls inst true).modEngine cls inst fun e => { e with ucode := d.sec.runVersion }
  let d := match d.serviceSlot 0xC148 (256 * cls + inst) with
    | some i => d.serviceEnd i stOk
    | none => d
  if d.reloadDue (cls, inst) then
    let d := { d with sec := { d.sec with reloaded := d.sec.reloaded ++ [(cls, inst)] } }
    if ucodeUnits.any d.reloadDue then d else d.endActivation stOk
  else d

/-- MICROCODE_RELOAD: for an activation, or for a UCODE_LOAD. -/
def Dev.microcode (d : Dev) (cls inst : Nat) : Dev :=
  let slot := d.serviceSlot 0xC148 (256 * cls + inst)
  let e := d.engine cls inst
  if (cls ≠ 3 && cls ≠ 4) || 16 ≤ inst || (slot.isNone && !d.reloadDue (cls, inst)) || e.replay.isSome || e.dead
      || d.reloadingBeside cls inst then d
  else
    let d := match slot with
      | some i => d.slotRuns i
      | none => d
    match d.drainEngine cls inst with
    | (d, false) => d
    | (d, true) => d.reloaded cls inst

/-- MICROCODE_RELOAD (R414). -/
def execMicrocodeReload (cls inst : Nat) (s : State) : Host.Outcome State Fault Refusal := done s (s.dev.microcode cls inst)

/-- UCODE_LOAD at acceptance. TARGET holds the class above the instance. -/
def cmdUcodeLoad : Command := fun d p =>
  let cls := fieldAt p 0 1
  let inst := fieldAt p 1 1
  if !zeroAt p 2 2 || (cls ≠ 3 && cls ≠ 4) || 16 ≤ inst then ends d stBadArg
  else
    let e := d.engine cls inst
    d.accept 0xC148 (256 * cls + inst) (if e.service || e.replay.isSome then stBusy else stOk)

/-- UCODE_LOAD (R419). -/
def execUcodeLoad (p : List Byte) (s : State) : Host.Outcome State Fault Refusal := done s (s.dev.submit 0xC148 p cmdUcodeLoad)

/-! ### Adoption (R419) -/

/-- A table of (entry, exponent) pairs in the order of R225, without exponents of 0xFF. -/
def tableOf (t : List (Nat × Nat)) : List (Nat × Nat) :=
  t.foldl (fun (acc : List (Nat × Nat)) e => if e.1 < 4096 && e.2 < 255 then insertKey e.1 e.2 acc else acc) []

/-- Installs the committed state of a source: loss scale, agreed scales and SLC_EPOCH; SLC_STEP follows. -/
def Dev.adopt (d : Dev) (c : Fin 16) (fid ctx : Nat) (a : AdoptState) : Dev :=
  let d := d.modSlc c fun s =>
    { s with
      epoch := a.epoch, step := a.epoch + 1, scale := tableOf a.table, lastRecord := none
      ls := { s := a.lsS, warm := a.lsWarm, clean := a.lsClean } }
  (d.purgeReady c).event c 0 0x0056 0 (packFields [(0, fid), (20, ctx)])

/-- CTX_ADOPT, with what its source answers (log 10). -/
def cmdCtxAdopt (a : AdoptAnswer) : Command :=
  ctxCommand 0xC150 (fun p => zeroAt p 1 3 && zeroAt p 7 1 && zeroAt p 8 8) [.opened] fun c d p =>
    let fid := fieldAt p 4 4 % 2 ^ 20
    let ctx := fieldAt p 4 4 / 2 ^ 20 % 16
    if fid = d.fab.id then ends d stBadArg
    else
      let d := d.emit (.adoptRequest fid ctx)
      match a with
      | .silent => ends d stTimeout
      | .closed => ends d stBadArg
      | .state st => ends (d.adopt c fid ctx st) stOk

/-- CTX_ADOPT (R419). -/
def execCtxAdopt (p : List Byte) (a : AdoptAnswer) (s : State) : Host.Outcome State Fault Refusal :=
  done s (s.dev.submit 0xC150 p (cmdCtxAdopt a))

/-- What unit 17 answers to a source request: the committed state at one instant, or CLOSED. -/
def Dev.committedState (d : Dev) (c : Fin 16) : AdoptAnswer :=
  let s := d.slc c
  if (d.ctx c).state = .closed then .closed
  else .state { epoch := s.epoch, lsS := s.ls.s, lsWarm := s.ls.warm, lsClean := s.ls.clean, table := s.scale }

/-- COMMITTED_STATE_READ (R419). -/
def execCommittedStateRead (src : Nat) (ctx : Fin 16) (s : State) : Host.Outcome State Fault Refusal :=
  done s (s.dev.emit (.adoptAnswer src ctx.val (s.dev.committedState ctx)))

end Sys2Proof.Machine
end

