-- ==== Sys2Proof/Machine/Security.lean ====
section
/-! DEFINITION. Identity and attestation (R438 to R442), recovery (R437) and the device-reset command (R448). -/

namespace Sys2Proof.Machine

open Sys2Proof

/-! ### Keys (R438) -/

/-- Key material of the DeviceID ECDSA key. -/
def deviceIdKey : List Byte := Config.deriveKey Config.fusedSecret 0
/-- Seed of the DeviceID HSS key. -/
def deviceHssKey : List Byte := Config.deriveKey Config.fusedSecret 1
/-- Key material of the Alias key of an image: from the CDI, which is keyed with the UDS over M. -/
def aliasKey (m : List Byte) : List Byte := Config.deriveKey (Config.hmacSha384 Config.fusedSecret m) 2

/-- The 96 bytes of an ECDSA signature. -/
def ecdsaSig (key digest : List Byte) : List Byte := padTo 96 (Config.ecdsaSign key digest)
/-- The 5,236 bytes of an HSS signature. -/
def hssSig (key : List Byte) (leaf : Nat) (digest : List Byte) : List Byte := padTo 5236 (Config.hssSign key leaf digest)

/-! ### Leaves (R439, R440) -/

/-- The number of leaves. -/
def allLeaves : Nat := 2 ^ 25
/-- Leaves of an epoch. -/
def epochLeaves : Nat := 2 ^ 19

/-- At start-up: the next leaf is the end of the newest reservation record; without one the next epoch begins. -/
def Sec.startLeaves (x : Sec) : Sec :=
  match x.leafRecord with
  | some r => { x with nextLeaf := r, reservedEnd := r, lmsState := if allLeaves ≤ r then 2 else 1 }
  | none =>
    if 64 ≤ x.epochFuses then { x with recordLost := true, reservedEnd := allLeaves, lmsState := 2 }
    else
      let r := x.epochFuses * epochLeaves
      { x with recordLost := true, epochFuses := x.epochFuses + 1, nextLeaf := r, reservedEnd := r, lmsState := 1 }

/-- Takes the next leaf: the epoch's fuse is blown before its first leaf, and a block of 1,024 is reserved before its first. None
is left when all are used. -/
def Sec.takeLeaf (x : Sec) : Option (Nat × Sec) :=
  if x.lmsState ≠ 1 || allLeaves ≤ x.nextLeaf then none
  else
    let n := x.nextLeaf
    let fuses := max x.epochFuses (n / epochLeaves + 1)
    let x := if x.reservedEnd ≤ n then
        let r := (n / 1024 + 1) * 1024
        { x with reservedEnd := r, leafRecord := some r }
      else x
    some (n, { x with epochFuses := fuses, nextLeaf := n + 1, lmsState := if allLeaves ≤ n + 1 then 2 else 1 })

/-- The Alias certificate is issued at the first start under an image, signed by DeviceID with both algorithms, which takes a
leaf (DEDUCED, log 21). -/
def Sec.issueAlias (x : Sec) : Sec :=
  if x.aliasOf = x.runDigest then x
  else match x.takeLeaf with
    | none => x
    | some (n, x) =>
      let digest := sha384 (Config.publicKey (aliasKey x.runDigest))
      { x with aliasOf := x.runDigest, aliasCert := ecdsaSig deviceIdKey digest ++ hssSig deviceHssKey n digest }

/-- J of R444: keys are derived and the bottom tree is ready. -/
def Dev.deriveKeys (d : Dev) : Dev :=
  if !d.boot.firmware || d.boot.keys || d.clk.refLost then d
  else { d with sec := d.sec.startLeaves.issueAlias, boot := { d.boot with keys := true } }

/-- DICE_KEYS_DERIVED (R438, R440, R444). -/
def execDiceKeysDerived (s : State) : Host.Outcome State Fault Refusal := done s s.dev.deriveKeys

/-! ### Attestation (R441, R442, R448) -/

/-- MXA_FUSE_MAP: the arrays disabled at test. -/
def Mxa.fuseMap (m : Mxa) : BitVec 64 := m.testDisabled

/-- The measurements, by index; the staged image's is absent when none is staged. -/
def Dev.measurements (d : Dev) : List (Nat × List Byte) :=
  let staged := if d.sec.staged then [(3, imgMeasure (d.sec.image d.sec.otherSlot))] else []
  [(1, Config.bootRomDigest), (2, d.sec.runDigest)] ++ staged
    ++ [(4, Config.measurement 4 (toLe 1 d.sec.svnFuses ++ toLe 1 d.sec.epochFuses)),
      (5, Config.measurement 5 (toLe 8 d.mxa.fuseMap.toNat ++ toLe 8 d.mxa.retired.toNat ++ toLe 1 d.mxa.marked))]

/-- A report without its signatures. -/
def Dev.reportBody (d : Dev) (nonce : List Byte) : List Byte :=
  let ms := d.measurements
  padTo 32 nonce ++ toLe 8 d.tbNs ++ toLe 8 d.now ++ toLe 4 ms.length ++ ms.flatMap fun e => toLe 4 e.1 ++ padTo 48 e.2

/-- Bytes of a report. -/
def Dev.reportLen (d : Dev) : Nat := 52 + 52 * d.measurements.length + 96 + 5236

/-- ATTEST_REPORT. -/
def cmdAttestReport : Command := fun d p =>
  let dst := fieldAt p 32 8
  let n := d.reportLen
  if !aligned dst 64 || fieldAt p 40 8 < n || d.slowStatus dst n = stBadArg then ends d stBadArg
  else if !d.boot.keys then ends d stBusy
  else if d.slowStatus dst n ≠ stOk then ends d stNoResource
  else d.whenFree [(dst, n)] fun d =>
    match d.sec.takeLeaf with
    | none => ends d stNoResource
    | some (leaf, sec) =>
      let body := d.reportBody (p.take 32)
      let digest := sha384 body
      let report := body ++ ecdsaSig (aliasKey d.sec.runDigest) digest ++ hssSig deviceHssKey leaf digest
      let d := { d with sec := sec }
      ((d.writeBytes dst report).1, some { status := stOk, resp := toLe 8 n })

/-- ATTEST_REPORT (R442). -/
def execAttestReport (p : List Byte) (s : State) : Host.Outcome State Fault Refusal := done s (s.dev.submit 0xC180 p cmdAttestReport)

/-! ### Recovery and reset (R437, R448) -/

/-- A command for recovery only: outside it ends with STATE_REJECT. -/
def recoveryOnly (ok : List Byte → Bool) (f : Command) : Command := fun d p =>
  if !ok p then ends d stBadArg else if d.boot.recovery then f d p else ends d stReject

/-- RECOVERY_LOAD. What the buffer holds is kept apart from the reservoir's own bytes (log 21). -/
def cmdRecoveryLoad : Command :=
  recoveryOnly (fun p => decide (fieldAt p 4 4 ≤ 4088) && decide (fieldAt p 0 4 + fieldAt p 4 4 ≤ 4 * 1024 * 1024)) fun d p =>
    let off := fieldAt p 0 4
    let bs := padTo (fieldAt p 4 4) (p.drop 8)
    let buf := padTo (max d.sec.recovery.length (off + bs.length)) d.sec.recovery
    ends { d with sec := { d.sec with recovery := splice buf off bs } } stOk

/-- RECOVERY_BOOT: the loaded image becomes slot A's and the boot default, and a device reset follows. -/
def cmdRecoveryBoot : Command :=
  recoveryOnly (fun p => decide (fieldAt p 0 4 ≤ 4 * 1024 * 1024)) fun d p =>
    let img := padTo (fieldAt p 0 4) d.sec.recovery
    let st := d.verify img
    if st ≠ stOk then ends d st
    else
      ({ d with sec := { d.sec with slotA := img, bootDefault := 0 } }, some { status := stOk, reset := some 4 })

/-- DEVICE_RESET. One mailbox command runs at a time, so no FW_COMMIT can be running. -/
def cmdDeviceReset : Command := fun d p =>
  if fieldAt p 0 1 ≠ 1 then ends d stBadArg else (d, some { status := stOk, reset := some 3 })

/-- RECOVERY_LOAD (R437, R448). -/
def execRecoveryLoad (p : List Byte) (s : State) : Host.Outcome State Fault Refusal := done s (s.dev.submit 0xC181 p cmdRecoveryLoad)
/-- RECOVERY_BOOT (R437, R448). -/
def execRecoveryBoot (p : List Byte) (s : State) : Host.Outcome State Fault Refusal := done s (s.dev.submit 0xC182 p cmdRecoveryBoot)
/-- DEVICE_RESET (R443, R448). -/
def execDeviceReset (p : List Byte) (s : State) : Host.Outcome State Fault Refusal := done s (s.dev.submit 0xC188 p cmdDeviceReset)

end Sys2Proof.Machine
end

