-- ==== Sys2Proof/Machine/Standard.lean ====
section
/-! DEFINITION. The standard mailbox commands (R429). They end with CXL return codes; what the manual does not state of their
responses is the named standard's (log 9). -/

namespace Sys2Proof.Machine

open Sys2Proof

/-- Ends with Success and a response. -/
def answers (d : Dev) (resp : List Byte) : Dev × Option Answer := (d, some { status := cxlSuccess, resp := resp })

/-- The standard opcodes that the mailbox accepts. -/
def standardOpcodes : List Nat := [0x0001, 0x0100, 0x0101, 0x0300, 0x0301, 0x0400, 0x0401, 0x4000]

/-- Identify, Get Supported Logs and Get Log: responses of the standard, with what the manual does not number left open. -/
def cmdStandard (op : Nat) : Command := fun d p => answers d ((Config.standardResponse op p).take 4096)

/-- Get Event Records: a header with no record. -/
def cmdGetEvents : Command := fun d _ => answers d (List.replicate 32 0)

/-- Clear Event Records: there are none. -/
def cmdClearEvents : Command := fun d _ => answers d []

/-- The mailbox timestamp: it counts on from the value set; never set, it reads 0. -/
def Dev.timestamp (d : Dev) : Nat :=
  if d.mbx.timestamp = 0 then 0 else (d.mbx.timestamp + (d.now - d.mbx.timestampAt)) % 2 ^ 64

/-- Get Timestamp. -/
def cmdGetTimestamp : Command := fun d _ => answers d (toLe 8 d.timestamp)

/-- Set Timestamp: no effect on the time base. -/
def cmdSetTimestamp : Command := fun d p =>
  answers { d with mbx := { d.mbx with timestamp := fieldAt p 0 8, timestampAt := d.now } } []

/-- 1,455.5 GiB in units of 256 MiB. -/
def totalCapacity : Nat := 5822

/-- Identify Memory Device: all capacity is volatile, no label storage area; the field offsets are the standard's (PRESUMED,
log 9). -/
def cmdIdentifyMemory : Command := fun d p =>
  let rest := padTo 69 (Config.standardResponse 0x4000 p)
  let rest := splice rest 16 (toLe 8 totalCapacity ++ toLe 8 totalCapacity ++ toLe 8 0)
  answers d (splice rest 56 (toLe 4 0))

/-- The command of a standard opcode. -/
def standardCommand (op : Nat) : Command :=
  if op = 0x0100 then cmdGetEvents
  else if op = 0x0101 then cmdClearEvents
  else if op = 0x0300 then cmdGetTimestamp
  else if op = 0x0301 then cmdSetTimestamp
  else if op = 0x4000 then cmdIdentifyMemory
  else if standardOpcodes.contains op then cmdStandard op
  else fun d _ => ends d cxlUnsupported

/-- IDENTIFY (R429). -/
def execIdentify (p : List Byte) (s : State) : Host.Outcome State Fault Refusal := done s (s.dev.submit 0x0001 p (cmdStandard 0x0001))
/-- GET_EVENT_RECORDS (R429). -/
def execGetEventRecords (p : List Byte) (s : State) : Host.Outcome State Fault Refusal := done s (s.dev.submit 0x0100 p cmdGetEvents)
/-- CLEAR_EVENT_RECORDS (R429). -/
def execClearEventRecords (p : List Byte) (s : State) : Host.Outcome State Fault Refusal :=
  done s (s.dev.submit 0x0101 p cmdClearEvents)
/-- GET_TIMESTAMP (R429). -/
def execGetTimestamp (p : List Byte) (s : State) : Host.Outcome State Fault Refusal := done s (s.dev.submit 0x0300 p cmdGetTimestamp)
/-- SET_TIMESTAMP (R429). -/
def execSetTimestamp (p : List Byte) (s : State) : Host.Outcome State Fault Refusal := done s (s.dev.submit 0x0301 p cmdSetTimestamp)
/-- GET_SUPPORTED_LOGS (R429). -/
def execGetSupportedLogs (p : List Byte) (s : State) : Host.Outcome State Fault Refusal :=
  done s (s.dev.submit 0x0400 p (cmdStandard 0x0400))
/-- GET_LOG (R429). -/
def execGetLog (p : List Byte) (s : State) : Host.Outcome State Fault Refusal := done s (s.dev.submit 0x0401 p (cmdStandard 0x0401))
/-- IDENTIFY_MEMORY_DEVICE (R429). -/
def execIdentifyMemoryDevice (p : List Byte) (s : State) : Host.Outcome State Fault Refusal :=
  done s (s.dev.submit 0x4000 p cmdIdentifyMemory)

/-- UNSUPPORTED_STANDARD_OPCODE (R429): any standard opcode but the listed ones; for a listed or a vendor opcode the row does not
apply. -/
def execUnsupportedStandardOpcode (op : W16) (p : List Byte) (s : State) : Host.Outcome State Fault Refusal :=
  if 0xC000 ≤ op.toNat || standardOpcodes.contains op.toNat then done s s.dev
  else done s (s.dev.submit op.toNat p fun d _ => ends d cxlUnsupported)

end Sys2Proof.Machine
end

