-- ==== Sys2Proof/Machine/Vendor.lean ====
section
/-! DEFINITION. The command of every mailbox opcode (R188, R429), and what goes on once the memory it waits for can be used
(R389, R390, R427): host accesses, stalled requests, the ledger's copy, and the mailbox command that runs. -/

namespace Sys2Proof.Machine

open Sys2Proof

/-! ### Opcodes (R188, R429) -/

/-- Context and service commands. -/
def contextCommand (op : Nat) : Option Command :=
  if op = 0xC000 then some cmdCtxCreate
  else if op = 0xC001 then some cmdCtxStart
  else if op = 0xC002 then some cmdCtxHold
  else if op = 0xC003 then some cmdCtxResume
  else if op = 0xC004 then some cmdCtxDrain
  else if op = 0xC005 then some cmdCtxReset
  else if op = 0xC006 then some cmdCtxRearm
  else if op = 0xC007 then some cmdCtxClose
  else if op = 0xC010 then some cmdArrayRetire
  else if op = 0xC011 then some cmdArrayRecal
  else if op = 0xC012 then some cmdPcRetire
  else none

/-- Shard, sluice, fabric, turnout and headgate commands. -/
def jobCommand (op : Nat) : Option Command :=
  if op = 0xC040 then some cmdShardRegister
  else if op = 0xC041 then some cmdShardRelease
  else if op = 0xC042 then some cmdShardQuery
  else if op = 0xC080 then some cmdOutcomeQuery
  else if op = 0xC081 then some cmdRingSet
  else if op = 0xC082 then some cmdRollback
  else if op = 0xC0C0 then some cmdPortRetrain
  else if op = 0xC0C1 then some cmdRouteLoad
  else if op = 0xC0C8 then some cmdTrnEnrol
  else if op = 0xC0C9 then some cmdTrnWithdraw
  else if op = 0xC100 then some cmdAllotSet
  else if op = 0xC101 then some cmdAllotGet
  else none

/-- Firmware, security and cistern commands. A CTX_ADOPT that is not a row of its own has no answer of its source (log 10). -/
def systemCommand (op : Nat) : Option Command :=
  if op = 0xC140 then some cmdFwStage
  else if op = 0xC141 then some cmdFwActivate
  else if op = 0xC142 then some cmdFwCommit
  else if op = 0xC143 then some cmdFwQuery
  else if op = 0xC148 then some cmdUcodeLoad
  else if op = 0xC150 then some (cmdCtxAdopt .silent)
  else if op = 0xC180 then some cmdAttestReport
  else if op = 0xC181 then some cmdRecoveryLoad
  else if op = 0xC182 then some cmdRecoveryBoot
  else if op = 0xC188 then some cmdDeviceReset
  else if op = 0xC200 then some cmdCisInfo
  else if op = 0xC201 then some cmdCisFormat
  else if op = 0xC202 then some cmdCisCheckpoint
  else if op = 0xC203 then some cmdCisList
  else if op = 0xC204 then some cmdCisDiscard
  else if op = 0xC205 then some cmdCisFetch
  else if op = 0xC206 then some cmdCisJournalRead
  else none

/-- The command of an assigned vendor opcode. -/
def vendorCommand (op : Nat) : Option Command :=
  ((contextCommand op).or (jobCommand op)).or (systemCommand op)

/-- An opcode that the table of R188 does not assign ends with BAD_ARG. -/
def cmdUnassigned : Command := fun d _ => ends d stBadArg

/-- The command of an opcode. -/
def mailboxCommand (op : Nat) : Command :=
  if 0xC000 ≤ op then (vendorCommand op).getD cmdUnassigned else standardCommand op

/-- UNASSIGNED_VENDOR_OPCODE (R188); for an assigned or a standard opcode the row does not apply. -/
def execUnassignedVendorOpcode (op : W16) (p : List Byte) (s : State) : Host.Outcome State Fault Refusal :=
  if op.toNat < 0xC000 || (vendorCommand op.toNat).isSome then done s s.dev
  else done s (s.dev.submit op.toNat p cmdUnassigned)

/-! ### Going on (R389, R390, R427) -/

/-- Takes the command that stands in the mailbox. -/
def Dev.takeCommand (d : Dev) : Dev := if d.mbx.doorbell then d.runCommand d.mbx.opcode (mailboxCommand d.mbx.opcode) else d

/-- Runs again what waits for memory. -/
def Dev.resumeWork (d : Dev) : Dev :=
  let d := d.resumeHost.resumeStalled.ledgerCopy
  if d.mbx.waiting then d.takeCommand else d

/-- PC_RETIREMENT (R145): its end lets waiting requests go on. -/
def execPcRetirement (stack : Fin 12) (pc : Fin 32) (s : State) : Host.Outcome State Fault Refusal :=
  let d := s.dev.pcRetirement stack.val pc.val
  done s (if s.dev.rsv.retiring.isSome && d.rsv.retiring.isNone then d.resumeWork else d)

/-- CORE_HEARTBEAT_MISS (R408): units that core 3 had taken out of service are back. -/
def execCoreHeartbeatMiss (core : Fin 4) (s : State) : Host.Outcome State Fault Refusal :=
  let d := s.dev.coreRestart core.val
  done s (if core = 3 then d.resumeWork else d)

end Sys2Proof.Machine
end

