-- ==== Sys2Proof/Machine/Clock.lean ====
section
/-! DEFINITION. REFCLK and the PLLs (R385, R386), and the loss and return of the reference (R388 to R390). -/

namespace Sys2Proof.Machine

open Sys2Proof

/-- Every PLL is judged locked. -/
def Dev.allLocked (d : Dev) : Bool := d.clk.pllLock == BitVec.allOnes 43

/-- The CXL link may train: every PLL has been judged locked, and its own, PLL 1, still is (R386, R444). -/
def Dev.linkClock (d : Dev) : Bool := d.allLocked || (d.boot.stage != 0 && !d.clk.refLost && d.clk.pllLock.getLsbD 1)

/-- REFCLK_LOST (R389). A loss while REFCLK is judged again counts as one more and starts the judging anew (R390). -/
def Dev.clockLost (d : Dev) : Dev :=
  if !d.boot.por then d
  else
    let old := d.clk
    let d := { d with clk := { old with
      refLost := true, refLostSeen := true, refStable := false, pllLock := 0, degraded := true
      lossCount := satTo 0xFFFF (old.lossCount + 1), lostAt := if old.refLost then old.lostAt else d.now, refAt := d.now
      state := if old.state = tbUnset then tbUnset else tbHoldover, followed := 0x7F, stratum := 15, rate := old.heldRate } }
    let d := (d.eventAllNoStep 0x0048 d.clk.lossCount).tbEvent old
    ((List.finRange 96).foldl Dev.lanesGone d).linkDown

/-- REFCLK_LOST. -/
def execRefclkLost (s : State) : Host.Outcome State Fault Refusal := done s s.dev.clockLost

/-- REFCLK_STABLE (R385): once 65,536 edges have been counted, 655.36 µs with no loss flagged, the PLLs start. -/
def Dev.clockStable (d : Dev) : Dev :=
  if !d.boot.por || d.clk.refStable || !d.passed d.clk.refAt 655360 then d
  else { d with clk := { d.clk with refStable := true, pllAt := Vector.replicate 43 d.now } }

/-- REFCLK_STABLE. -/
def execRefclkStable (s : State) : Host.Outcome State Fault Refusal := done s s.dev.clockStable

/-- R390, step 4: what was held while memory was stalled is written, ledger records and then events, each with its own TIME. -/
def Dev.writeHeld (d : Dev) : Dev :=
  let records := d.clk.heldRecords
  let events := d.clk.heldEvents
  let d := { d with clk := { d.clk with heldRecords := [], heldEvents := [] } }
  events.foldl (fun d e => if (d.ctx e.1).state = .closed then d else d.writeEvent e.1 e.2) (records.foldl Dev.writeRecord d)

/-- R390, steps 3 to 5: stalled accesses go on, held records and events are written, the time base is back on its PLL, and the
event tells the low 32 bits of the loss in µs (R398). -/
def Dev.clockBack (d : Dev) : Dev :=
  let us := (d.now - d.clk.lostAt) / 1000 % 2 ^ 32
  let d := ({ d with clk := { d.clk with refLost := false, degraded := false } }).resumeWork
  (d.writeHeld.eventAllNoStep 0x0049 us).applyMode

/-- Every PLL is judged locked: units leave reset, start-up goes on to the image, and the CXL link may train (R386, R444). -/
def Dev.locked (d : Dev) : Dev :=
  let d := { d with
    link := { d.link with training := !d.boot.perst }
    boot := { d.boot with stage := if d.boot.stage = 0 then 1 else d.boot.stage } }
  if d.clk.refLost then d.clockBack else d

/-- PLL_LOCKED (R386): 163.84 µs after the start of this PLL. One that a retrain has started alone ends no loss and no start-up. -/
def Dev.pllLocked (d : Dev) (k : Nat) : Dev :=
  if !d.clk.refStable || d.clk.pllLock.getLsbD k || !d.passed (d.clk.pllAt.toList.getD k 0) 163840 then d
  else
    let d := { d with clk := { d.clk with pllLock := d.clk.pllLock ||| (1#43 <<< k) } }
    if d.allLocked && (d.boot.stage = 0 || d.clk.refLost) then d.locked else d

/-- PLL_LOCKED. -/
def execPllLocked (k : Fin 43) (s : State) : Host.Outcome State Fault Refusal := done s (s.dev.pllLocked k.val)

end Sys2Proof.Machine
end

