-- ==== Sys2Proof/Machine/Flits.lean ====
section
/-! DEFINITION. Flits arriving: short links (R259 to R261), and the bulk and privileged streams of laterals (R312 to R314). A
flit's ACK and CREDITS are taken whenever its codeword decoded and its CRC matches (DEDUCED, log 11). -/

namespace Sys2Proof.Machine

open Sys2Proof

/-! ### The flit's fields (R259, R312) -/

/-- The flit is whole: its codeword decoded and its CRC matches. -/
def flitGood (ok : Bool) (f : List Byte) : Bool := ok && f.length == 320 && fieldAt f 312 8 == (crc64 (f.take 312)).toNat

/-- The two credit returns: class and hop as a key, and buffers. -/
def creditsOf (f : List Byte) : List (Nat × Nat) :=
  [fieldAt f 4 3, fieldAt f 7 3].map fun v => (8 * bitsOf v 0 3 + bitsOf v 3 3, bitsOf v 6 10)

/-- The used slots with their marks: packet starts, packet ends. -/
def slotsOf (f : List Byte) : List (Bool × Bool × List Byte) :=
  (List.range 8).filterMap fun i =>
    let m := fieldAt f (304 + i) 1
    if bitOf m 0 then some (bitOf m 1, bitOf m 2, (f.drop (16 + 36 * i)).take 36) else none

/-- A packet from its slots (R262): none for a reserved TYPE. -/
def packetOf (bs : List Byte) : Option Packet :=
  let type := match fieldAt bs 0 1 with
    | 1 => some PacketType.read
    | 2 => some .write
    | 3 => some .accum
    | 4 => some .readResp
    | 5 => some .reply
    | 6 => some .msg
    | 7 => some .genQuery
    | _ => none
  type.map fun t =>
    let c := fieldAt bs 1 1
    { type := t, tc := bitsOf c 0 3, hop := bitsOf c 3 3, genValid := bitOf c 6, viaValid := bitOf c 7
      unit := fieldAt bs 2 1, gen := fieldAt bs 3 1, dest := bitsOf (fieldAt bs 4 4) 0 20
      destCtx := bitsOf (fieldAt bs 4 4) 20 4, src := bitsOf (fieldAt bs 8 4) 0 20, tag := fieldAt bs 12 2
      useCount := fieldAt bs 14 1, addr := fieldAt bs 16 6 % 2 ^ 44, len := fieldAt bs 22 1, status := fieldAt bs 23 1
      inc := fieldAt bs 24 2, via := bitsOf (fieldAt bs 26 2) 0 12, spec := fieldAt bs 28 8, data := bs.drop 36 }

/-- Takes slots in order: the packet being received, whether slots are dropped until one starts, and the packets completed. -/
def takeSlots (part : List Byte) (drop : Bool) : List (Bool × Bool × List Byte) → List Byte × Bool × List (List Byte)
  | [] => (part, drop, [])
  | (first, last, bs) :: r =>
    if drop && !first then takeSlots [] true r
    else
      let now := if first then bs else part ++ bs
      let (p, x, done) := takeSlots (if last then [] else now) false r
      (p, x, if last then now :: done else done)

/-- A packet has arrived on a port: one for this device leaves its buffers at once, one for another fills them until it has been
sent on. On a lateral these buffers are the ingress pool's: it passes straight on when its next hop has credit (R266, R316). -/
def Dev.arriveOn (n : Fin 96) (d : Dev) (p : Packet) : Dev :=
  let k := flitCount p
  if p.dest = d.fab.id then (d.modPort n fun x => x.unlend (bufferKey p) k).arrive p
  else
    let e := (plainPacket { p with hop := p.hop + 1 }, n.val, bufferKey p, k)
    ({ d with fab := { d.fab with transit := d.fab.transit ++ [e] } }).arrive p

/-- Packets that have arrived whole go on or are served, in order. -/
def Dev.arriveAll (d : Dev) (n : Fin 96) (ps : List (List Byte)) : Dev := (ps.filterMap packetOf).foldl (Dev.arriveOn n) d

/-! ### What every link does -/

/-- Whether a port takes flits. -/
def Dev.receives (d : Dev) (n : Fin 96) (lateral : Bool) : Bool :=
  let x := d.fab.ports[n]
  x.lateral == lateral && (x.state.live || x.state == .draining)

/-- A flit of an uncorrectable codeword. A codeword holds two flits (R259): a flit that follows a bad one is the second of that
codeword (DEDUCED, log 11). 16 codewords within 1 ms are a lane fault (R280). -/
def Dev.badCodeword (d : Dev) (n : Fin 96) : Dev :=
  if d.fab.ports[n].badHalf then d.modPort n fun x => { x with badHalf := false }
  else
    let recent := d.now :: (d.fab.ports[n].badCodewords.filter fun t => d.now < t + 1000000)
    let d := d.modPort n fun x => { x with badCodewords := recent.take 16, badHalf := true }
    if 16 ≤ recent.length then d.laneFault n else d

/-- A flit that is not whole: its codeword did not decode, or only its CRC fails. -/
def Dev.badFlit (d : Dev) (n : Fin 96) (ok : Bool) : Dev :=
  if ok then d.modPort n fun x => { x with badHalf := false } else d.badCodeword n

/-- Credits returned by the neighbour in a whole flit (R266). -/
def Dev.takeCredits (d : Dev) (n : Fin 96) (f : List Byte) : Dev :=
  d.modPort n fun x =>
    { x with badHalf := false, credits := (creditsOf f).foldl (fun t e => if e.2 = 0 then t else insertKey e.1 (lookupD e.1 0 t + e.2) t) x.credits }

/-! ### Short links (R259 to R261) -/

/-- R260: the flits that ACK covers are done with; a NAK brings every flit after it again. One replayed eight times already is
a lane fault instead (R261). -/
def Dev.takeAck (d : Dev) (n : Fin 96) (ack : Nat) (nak : Bool) : Dev :=
  let d := d.modPort n fun x =>
    { x with unacked := x.unacked.filter fun f => !decide ((ack + 4096 - f.seq) % 4096 < 2048) }
  if !nak then d
  else if d.fab.ports[n].unacked.any fun f => decide (9 ≤ f.sends) then d.laneFault n
  else d.replay n

/-- NAK for the first flit discarded after the last one accepted. -/
def Dev.sendNak (d : Dev) (n : Fin 96) : Dev :=
  let x := d.fab.ports[n]
  if x.nakOut then d
  else (d.modPort n fun x => { x with nakOut := true }).sendIdle n

/-- A data flit that is whole: an accepted one is acknowledged by the next flit sent, which is an idle one. -/
def Dev.dataFlit (d : Dev) (n : Fin 96) (seq : Nat) (f : List Byte) : Dev :=
  let x := d.fab.ports[n]
  if seq = x.rxNext then
    let (part, _, ps) := takeSlots x.partSlots false (slotsOf f)
    let d := d.modPort n fun x => { x with rxNext := (seq + 1) % 4096, nakOut := false, partSlots := part }
    (d.arriveAll n ps).sendIdle n
  else if 2048 ≤ (seq + 4096 - x.rxNext) % 4096 then d
  else d.sendNak n

/-- FLIT_RECEIVE (R260): a flit on a short link. -/
def Dev.flitReceive (d : Dev) (n : Fin 96) (ok : Bool) (f : List Byte) : Dev :=
  if !d.receives n false then d
  else if !flitGood ok f then (d.badFlit n ok).sendNak n
  else
    let d := (d.takeCredits n f).takeAck n (fieldAt f 2 2 % 4096) (bitOf (fieldAt f 2 2) 12)
    let d := d.pump n
    if fieldAt f 0 2 / 4096 = 1 then d.dataFlit n (fieldAt f 0 2 % 4096) f else d

/-- FLIT_RECEIVE. -/
def execFlitReceive (port : Fin 96) (codewordOk : Bool) (flit : List Byte) (s : State) : Host.Outcome State Fault Refusal :=
  done s (s.dev.flitReceive port codewordOk flit)

/-! ### The bulk stream of a lateral (R312, R313) -/

/-- Every packet with a slot in a lost flit goes, with its slots in later flits. -/
def Port.loseBulk (x : Port) : Port := { x with partSlots := [], dropRest := true }

/-- BULK_FLIT_RECEIVE. -/
def Dev.bulkFlit (d : Dev) (n : Fin 96) (ok : Bool) (f : List Byte) : Dev :=
  if !d.receives n true then d
  else if !flitGood ok f then (d.badFlit n ok).modPort n Port.loseBulk
  else
    let d := (d.takeCredits n f).pump n
    if fieldAt f 3 1 % 16 ≠ 1 then d
    else
      let seq := fieldAt f 0 3
      let x := d.fab.ports[n]
      let x := if seq = x.bulkRx then x else x.loseBulk
      let (part, drop, ps) := takeSlots x.partSlots x.dropRest (slotsOf f)
      let x := { x with bulkRx := (seq + 1) % 2 ^ 24, partSlots := part, dropRest := drop }
      (d.modPort n fun _ => x).arriveAll n ps

/-- BULK_FLIT_RECEIVE (R313). -/
def execBulkFlitReceive (port : Fin 96) (codewordOk : Bool) (flit : List Byte) (s : State) : Host.Outcome State Fault Refusal :=
  done s (s.dev.bulkFlit port codewordOk flit)

/-! ### The privileged stream of a lateral (R314) -/

/-- Distance of a privileged number from the next one expected. -/
def Port.ahead (x : Port) (seq : Nat) : Nat := (seq + 2 ^ 24 - x.rxNext) % 2 ^ 24

/-- Sends a control flit: CUM, and in its map what is held of the 2,048 numbers after CUM. It returns credit as every flit does. -/
def Dev.sendControl (d : Dev) (n : Fin 96) : Dev :=
  let x := d.fab.ports[n]
  let held := (sortBy x.ahead (x.heldFlits.map (·.1))).filter fun s => decide (x.ahead s < 2048)
  let cr := (d.creditsDue n).take 2
  ((d.modLat n fun l => { l with ackAt := d.now, ackCum := x.rxNext }).modPort n fun x => x.lend cr).emit
    (.control n.val ((x.rxNext + 2 ^ 24 - 1) % 2 ^ 24) held cr)

/-- Delivers flits strictly in SEQ order while the next one is held; one for each unit of fuel. -/
def Dev.deliverHeld : Nat → Fin 96 → Dev → Dev
  | 0, _, d => d
  | k + 1, n, d =>
    let x := d.fab.ports[n]
    match x.heldFlits.find? fun h => h.1 == x.rxNext with
    | none => d
    | some h =>
      let (part, _, ps) := takeSlots x.partPriv false (slotsOf h.2)
      let d := d.modPort n fun x =>
        { x with
          rxNext := (x.rxNext + 1) % 2 ^ 24, partPriv := part, heldFlits := x.heldFlits.filter fun q => q.1 != h.1 }
      Dev.deliverHeld k n (d.arriveAll n ps)

/-- PRIVILEGED_FLIT_RECEIVE: a flit after a gap is held until its turn; a new gap is reported at once. One already taken is due to
be acknowledged again. -/
def Dev.privilegedFlit (d : Dev) (n : Fin 96) (ok : Bool) (f : List Byte) : Dev :=
  if !d.receives n true then d
  else if !flitGood ok f then d.badFlit n ok
  else
    let d := (d.takeCredits n f).pump n
    if fieldAt f 3 1 % 16 ≠ 2 then d
    else
      let seq := fieldAt f 0 3
      let x := d.fab.ports[n]
      let a := x.ahead seq
      if 2 ^ 23 ≤ a then d.modLat n fun l => { l with ackCum := seq }
      else if x.heldFlits.any (fun h => h.1 == seq) then d
      else
        let last := x.heldFlits.foldl (fun m h => max m (x.ahead h.1 + 1)) 0
        let d := d.modPort n fun x => { x with heldFlits := x.heldFlits ++ [(seq, f)] }
        let d := Dev.deliverHeld (x.heldFlits.length + 1) n d
        if last < a then d.sendControl n else d

/-- PRIVILEGED_FLIT_RECEIVE (R314). -/
def execPrivilegedFlitReceive (port : Fin 96) (codewordOk : Bool) (flit : List Byte) (s : State) :
    Host.Outcome State Fault Refusal :=
  done s (s.dev.privilegedFlit port codewordOk flit)

/-- RTT of a lateral in ns, rounded up, as its resend timers run on it (R322). -/
def Dev.rttNs (d : Dev) (n : Fin 96) : Nat := ceilDiv (d.lat.lats[n].timerRtt.getD d.lat.lats[n].rtt) 65536

/-- Sends the privileged flits that `p` selects again, shown missing by a map or not; one sent 16 times already is a lane fault
instead. -/
def Dev.resend (d : Dev) (n : Fin 96) (byMap : Bool) (p : SentFlit → Bool) : Dev :=
  let due := d.fab.ports[n].unacked.filter p
  if due.any fun f => decide (16 ≤ f.sends) then d.laneFault n
  else
    let d := d.modPort n fun x =>
      { x with unacked := mapWhere p (fun f =>
          { f with sends := f.sends + 1, sentAt := d.now, resentAt := if byMap then some d.now else f.resentAt }) x.unacked }
    d.sendAgain n 2 due

/-- LATERAL_CONTROL_FLIT: CUM frees what it passes; a flit shown missing while a later one is held goes again, at most once
per RTT. The first one of a new epoch sets the resend timers to the new RTT (R322). -/
def Dev.controlFlit (d : Dev) (n : Fin 96) (cum : Nat) (held : List Nat) : Dev :=
  if !d.receives n true then d
  else
    let d := (d.modLat n fun l => { l with timerRtt := none }).modPort n fun x =>
      { x with unacked := x.unacked.filter fun f => !decide ((cum + 2 ^ 24 - f.seq) % 2 ^ 24 < 2 ^ 23) }
    let past := fun (s : Nat) => (s + 2 ^ 24 - cum) % 2 ^ 24
    let wanted := fun (f : SentFlit) =>
      !held.contains f.seq && held.any (fun h => decide (past f.seq < past h) && decide (past h ≤ 2048))
        && f.resentAt.all fun t => d.passed t (d.rttNs n)
    (d.resend n true wanted).pump n

/-- LATERAL_CONTROL_FLIT (R314). -/
def execLateralControlFlit (port : Fin 96) (cum : Nat) (held : List Nat) (s : State) : Host.Outcome State Fault Refusal :=
  done s (s.dev.controlFlit port cum held)

/-- LATERAL_ACK_TICK: every 10 µs while a gap is held or flits are not acknowledged. -/
def Dev.ackTick (d : Dev) (n : Fin 96) : Dev :=
  let x := d.fab.ports[n]
  let l := d.lat.lats[n]
  if d.receives n true && d.passed l.ackAt (usNs 10) && (!x.heldFlits.isEmpty || l.ackCum != x.rxNext) then d.sendControl n else d

/-- LATERAL_ACK_TICK (R314). -/
def execLateralAckTick (port : Fin 96) (s : State) : Host.Outcome State Fault Refusal := done s (s.dev.ackTick port)

/-- PRIVILEGED_RESEND_TIMER: RTT + 100 µs after a flit was last sent. -/
def Dev.resendTimer (d : Dev) (n : Fin 96) : Dev :=
  if d.receives n true then d.resend n false fun f => d.passed f.sentAt (d.rttNs n + usNs 100) else d

/-- PRIVILEGED_RESEND_TIMER (R314). -/
def execPrivilegedResendTimer (port : Fin 96) (s : State) : Host.Outcome State Fault Refusal := done s (s.dev.resendTimer port)

end Sys2Proof.Machine
end

