-- ==== Sys2Proof/Machine/StartUp.lean ====
section
/-! DEFINITION. Resets by pin and by supply (R443, R484, R490) and start-up (R437, R444 to R447). When STAGE changes is DEDUCED,
log 21. -/

namespace Sys2Proof.Machine

open Sys2Proof

/-! ### Resets -/

/-- POWER_ON_RESET (R443, R484): VIN12 below the falling threshold; a thermal trip's latch ends (R490). -/
def execPowerOnReset (s : State) : Host.Outcome State Fault Refusal :=
  let d := s.dev.powerReset
  done s { d with boot := { d.boot with thermLatch := false } }

/-- POR_RELEASE (R444, A): VIN12 above the rising threshold; held off by a thermal trip. The count of R385 begins. -/
def execPorRelease (s : State) : Host.Outcome State Fault Refusal :=
  let d := s.dev
  done s (if d.boot.thermLatch || d.boot.por then d
    else { d with boot := { d.boot with por := true }, clk := { d.clk with refAt := d.now } })

/-- PERST (R443, R446). -/
def execPerst (s : State) : Host.Outcome State Fault Refusal :=
  let d := s.dev.resetFor 1
  done s { d with boot := { d.boot with perst := true } }

/-- PERST_DEASSERT (R444, E): link training begins once every PLL is judged locked. -/
def execPerstDeassert (s : State) : Host.Outcome State Fault Refusal :=
  let d := s.dev
  let training := d.link.training || (d.boot.perst && d.linkClock)
  done s { d with boot := { d.boot with perst := false }, link := { d.link with training := training } }

/-- CXL_HOT_RESET (R443). -/
def execCxlHotReset (s : State) : Host.Outcome State Fault Refusal := done s (s.dev.resetFor 2)

/-- A context that is not CLOSED is reset and closed. -/
def Dev.resetAndClose (d : Dev) (c : Fin 16) : Dev :=
  let st := (d.ctx c).state
  if st = .closed then d
  else
    let d := (if st = .faulted then d else d.faultContext c 0).closeContext c
    if d.mbx.resetting = some c then ({ d with mbx := { d.mbx with resetting := none } }).mbxEnd stOk 0 else d

/-- FLR (R443). -/
def execFlr (s : State) : Host.Outcome State Fault Refusal := done s (allCtx.foldl Dev.resetAndClose s.dev)

/-- THERMAL_TRIP (R490): as a loss of VIN12, latched, with THERMTRIP#. The meter goes on. -/
def execThermalTrip (s : State) : Host.Outcome State Fault Refusal :=
  let d := s.dev.powerReset
  done s (({ d with boot := { d.boot with thermLatch := true } }).emit .thermtrip)

/-! ### Images (R437, F and G) -/

/-- Notes what the verification of a slot gave in SEC_BOOT. -/
def Boot.tried (b : Boot) (slot status : Nat) : Boot := if slot = 0 then { b with aResult := status } else { b with bResult := status }

/-- An image has verified: it will run. -/
def Dev.imageFound (d : Dev) (slot : Nat) (fallback : Bool) : Dev :=
  { d with sec := d.sec.run slot, boot := { d.boot with imageOk := true, slot := slot, fallback := fallback, stage := 2 } }

/-- Both slots have failed: recovery, in which the mailbox is served. -/
def Dev.enterRecovery (d : Dev) : Dev :=
  ({ d with boot := { d.boot with recovery := true, stage := 15 } }).takeCommand

/-- BOOT_IMAGE_VERIFY: the cistern is read for the first time. -/
def Dev.bootVerify (d : Dev) : Dev :=
  if !d.boot.por || !d.allLocked || d.clk.refLost || d.boot.imageOk || d.boot.recovery then d
  else
    let d := { d with cis := { d.cis with state := d.cis.flash, targets := d.cis.fitted, sparePct := d.cis.spare } }
    let a := d.sec.bootDefault
    let st := d.verify (d.sec.image a)
    let d := { d with boot := d.boot.tried a st }
    if st = stOk then d.imageFound a false
    else
      let st := d.verify (d.sec.image (1 - a))
      let d := { d with boot := d.boot.tried (1 - a) st }
      if st = stOk then d.imageFound (1 - a) true else d.enterRecovery

/-- BOOT_IMAGE_VERIFY (R437). -/
def execBootImageVerify (s : State) : Host.Outcome State Fault Refusal := done s s.dev.bootVerify

/-! ### Firmware, memories and engines (H to N) -/

/-- H: firmware runs on all four cores, and the mailbox is ready. -/
def Dev.firmwareUp (d : Dev) : Dev :=
  if !d.boot.imageOk || d.boot.firmware || d.clk.refLost then d
  else ({ d with boot := { d.boot with firmware := true, stage := 3 } }).takeCommand

/-- FIRMWARE_RUNNING (R444). -/
def execFirmwareRunning (s : State) : Host.Outcome State Fault Refusal := done s s.dev.firmwareUp

/-- A row of start-up that follows H may happen: it has not yet, and REFCLK is there. -/
def Dev.mayStart (d : Dev) (already : Bool) : Bool := d.boot.firmware && !already && !d.clk.refLost

/-- The lowest stack that has trained. -/
def firstStack (trained : BitVec 12) : Option Nat := (List.range 12).find? fun s => trained.getLsbD s

/-- K: stacks have trained, soft repairs are made permanent, and memory is initialised. A failed stack is gone for this start; when
stack 0 has failed the reserved range moves (R446, R447). With no stack start-up stops before N. -/
def Dev.hbmTrained (d : Dev) (trained : BitVec 12) : Dev :=
  if !d.mayStart (d.boot.hbm || d.boot.noStack) then d
  else
    let d := { d with rsv := { d.rsv with failedStacks := ~~~trained, softRepairs := [] } }
    match firstStack trained with
    | none => { d with boot := { d.boot with noStack := true } }
    | some s => { d with boot := { d.boot with hbm := true, rsvStack := s } }

/-- HBM_TRAINING_COMPLETE (R444). -/
def execHbmTrainingComplete (trained : BitVec 12) (s : State) : Host.Outcome State Fault Refusal := done s (s.dev.hbmTrained trained)

/-- LPDDR_TRAINING_COMPLETE (R444, M). -/
def execLpddrTrainingComplete (s : State) : Host.Outcome State Fault Refusal :=
  let d := s.dev
  done s (if d.mayStart d.boot.lpddr then { d with boot := { d.boot with lpddr := true } } else d)

/-- L: every working array is calibrated, with no change of generation, and the microcode of the running image is loaded (R59,
R446). -/
def Dev.startArrays (d : Dev) (r : Vector CalResult 64) : Dev :=
  if !d.mayStart d.boot.arrays then d
  else
    let d := (List.finRange 64).foldl (fun d a => if d.goodArray a.val then d.calibrate a.val r[a] false else d) d
    let load := fun (e : Engine) => { e with ucode := d.sec.runVersion }
    { d with
      boot := { d.boot with arrays := true }
      mxa := { d.mxa with turnAt := d.now }
      vxe := { d.vxe with engines := d.vxe.engines.map load }
      clv := { d.clv with engines := d.clv.engines.map load } }

/-- STARTUP_CALIBRATION (R59, R444). -/
def execStartupCalibration (r : Vector CalResult 64) (s : State) : Host.Outcome State Fault Refusal := done s (s.dev.startArrays r)

/-- N: contexts may be created. -/
def Dev.activate (d : Dev) : Dev :=
  let b := d.boot
  if b.active || d.clk.refLost || !b.keys || !b.hbm || !b.arrays || !b.lpddr then d
  else { d with boot := { b with active := true, stage := 4 } }

/-- MEMORY_ACTIVE (R444). -/
def execMemoryActive (s : State) : Host.Outcome State Fault Refusal := done s s.dev.activate

end Sys2Proof.Machine
end

