-- ==== Sys2Proof/Machine/HostLink.lean ====
section
/-! DEFINITION. The host link beyond memory access: training and configuration (R422, R445), back-invalidation's answers (R427),
snoops (R423), DOE (R430, R441) and IDE (R431 to R433). -/

namespace Sys2Proof.Machine

open Sys2Proof

/-! ### The link (R422, R423, R427, R445) -/

/-- CXL_LINK_TRAINING_COMPLETE: as CXL in 256-byte flit mode, otherwise as PCIe only. -/
def execCxlLinkTrainingComplete (flit256 : Bool) (s : State) : Host.Outcome State Fault Refusal :=
  let d := s.dev
  done s (if d.link.training then { d with link := { d.link with training := false, up := true, cxl := flit256 } } else d)

/-- CXL_LINK_DOWN (R433): the link may train again at the host's initiative. -/
def execCxlLinkDown (s : State) : Host.Outcome State Fault Refusal :=
  let d := s.dev.linkDown
  done s { d with link := { d.link with training := d.linkClock && !d.boot.perst } }

/-- CONFIGURATION_REQUEST: retried until firmware runs; in recovery it is served (R437). Reading a DOE response frees the DOE
mailbox. -/
def Dev.configure (d : Dev) (r : ConfigReq) : Dev :=
  if !d.boot.firmware && !d.boot.recovery then d.emit .configRetry
  else match r, d.link.doePending with
    | .doeRead, some bs => ({ d with link := { d.link with doePending := none } }).emit (.doe bs)
    | _, _ => d.emit .configDone

/-- CONFIGURATION_REQUEST (R445). -/
def execConfigurationRequest (r : ConfigReq) (s : State) : Host.Outcome State Fault Refusal := done s (s.dev.configure r)

/-- BIRSP: the line is no longer tracked, and what waited for it goes on. -/
def Dev.birsp (d : Dev) (line : Nat) : Dev :=
  if !d.link.snooped.contains line then d
  else
    let d := { d with link := { d.link with
      lines := d.link.lines.filter (· != line), snooped := d.link.snooped.filter (· != line) } }
    d.resumeWork

/-- BIRSP (R427). -/
def execBirsp (line : Nat) (s : State) : Host.Outcome State Fault Refusal := done s (s.dev.birsp line)

/-- H2D_SNOOP (R423): the cache has no lines. -/
def execH2dSnoop (addr : Nat) (s : State) : Host.Outcome State Fault Refusal := done s (s.dev.emit (.snoopMiss addr))

/-! ### DOE (R430, R441) -/

/-- Object types as the row numbers them: 0 DOE Discovery, 1 CMA/SPDM, 2 Secured CMA/SPDM, 3 CDAT table access. SPDM answers
once the keys are derived (R444). -/
def Dev.doeServes (d : Dev) (type : Nat) : Bool := (type == 0 || type == 3) || ((type == 1 || type == 2) && d.boot.keys)

/-- DOE_REQUEST: one object at a time, of at most 16 KiB; another is discarded. What it answers is the named standards'
(log 8, log 9). -/
def Dev.doeRequest (d : Dev) (type : Nat) (object : List Byte) : Dev :=
  if (!d.boot.firmware && !d.boot.recovery) || d.link.doePending.isSome || 16384 < object.length || !d.doeServes type then d
  else { d with link := { d.link with doePending := some (Config.doeAnswer type object) } }

/-- DOE_REQUEST (R430). -/
def execDoeRequest (type : Nat) (object : List Byte) (s : State) : Host.Outcome State Fault Refusal := done s (s.dev.doeRequest type object)

/-! ### IDE (R431 to R433) -/

/-- One direction of a stream. -/
def Link.dir (l : Link) (s : Stream) (x : Dir) : IdeDir :=
  match s, x with
  | .io, .tx => l.ioTx
  | .io, .rx => l.ioRx
  | .cm, .tx => l.cmTx
  | .cm, .rx => l.cmRx

/-- Changes one direction of a stream. -/
def Link.setDir (l : Link) (s : Stream) (x : Dir) (v : IdeDir) : Link :=
  match s, x with
  | .io, .tx => { l with ioTx := v }
  | .io, .rx => { l with ioRx := v }
  | .cm, .tx => { l with cmTx := v }
  | .cm, .rx => { l with cmRx := v }

/-- Whether a stream is Secure. -/
def Link.secure (l : Link) (s : Stream) : Bool :=
  match s with
  | .io => l.ioSecure
  | .cm => l.cmSecure

/-- Sets whether a stream is Secure. -/
def Link.setSecure (l : Link) (s : Stream) (v : Bool) : Link :=
  match s with
  | .io => { l with ioSecure := v }
  | .cm => { l with cmSecure := v }

/-- Whether a key set of a direction holds a key. -/
def IdeDir.key (x : IdeDir) (set : Bool) : Bool := if set then x.k1 else x.k0

/-- Programs or releases a key set of a direction. -/
def IdeDir.setKey (x : IdeDir) (set v : Bool) : IdeDir := if set then { x with k1 := v } else { x with k0 := v }

/-- The old set of a direction is released: its key is gone. -/
def IdeDir.freed (x : IdeDir) : IdeDir := { x.setKey (!x.useSet) false with oldHeld := false }

/-- A stream that is Insecure becomes Secure once both directions hold a key in one set (DESIGN CHOICE, log 22). -/
def Link.goSecure (l : Link) (s : Stream) : Link :=
  let both := fun k => (l.dir s .tx).key k && (l.dir s .rx).key k
  let go := fun k => ((l.setDir s .tx { l.dir s .tx with useSet := k }).setDir s .rx { l.dir s .rx with useSet := k }).setSecure s true
  if l.secure s then l else if both false then go false else if both true then go true else l

/-- KEY_PROG to a set that is free; IDE_KM status 0. -/
def Dev.programKey (d : Dev) (s : Stream) (x : Dir) (set : Bool) : Dev :=
  let link := d.link.setDir s x ((d.link.dir s x).setKey set true)
  ({ d with link := link.goSecure s }).emit (.ideKm 0)

/-- IDE_KM_KEY_PROG (R432): a set that is still held is refused with status 4. The set in use is held while the stream is Secure.
Whether the retry buffer has let go of the old set by now is not given: a free value (log 22). -/
def Dev.keyProg (d : Dev) (s : Stream) (x : Dir) (set : Bool) : Dev :=
  let v := d.link.dir s x
  if !d.link.up then d
  else if d.link.secure s && set == v.useSet then d.emit (.ideKm 4)
  else if v.oldHeld then
    let (n, d) := d.draw
    if Config.freeBool n then d.emit (.ideKm 4)
    else ({ d with link := d.link.setDir s x v.freed }).programKey s x set
  else d.programKey s x set

/-- IDE_KM_KEY_PROG. -/
def execIdeKmKeyProg (s : Stream) (d : Dir) (set : Bool) (st : State) : Host.Outcome State Fault Refusal := done st (st.dev.keyProg s d set)

/-- KEY_SWITCH_MARKER (R432): the first flit under the other set, sent or received; the old set stays held. A marker for a set
without a key is nothing that a peer may send. -/
def Dev.keySwitch (d : Dev) (s : Stream) (x : Dir) : Dev :=
  let v := d.link.dir s x
  if !d.link.secure s || v.oldHeld || !v.key (!v.useSet) then d
  else { d with link := d.link.setDir s x { v with useSet := !v.useSet, oldHeld := true } }

/-- KEY_SWITCH_MARKER. -/
def execKeySwitchMarker (s : Stream) (d : Dir) (st : State) : Host.Outcome State Fault Refusal := done st (st.dev.keySwitch s d)

/-- IDE_INTEGRITY_FAILURE (R433): the stream is Insecure until the host re-keys it (its keys are dropped; DEDUCED, log 22). -/
def Dev.ideFailure (d : Dev) (s : Stream) : Dev :=
  if !d.link.secure s then d
  else
    let link := ((d.link.setDir s .tx {}).setDir s .rx {}).setSecure s false
    let link := { link with ideFails := satTo 0xFFFF (link.ideFails + 1), failNew := true }
    ({ d with link := link }).emit (.aer (match s with
      | .io => 0
      | .cm => 1))

/-- IDE_INTEGRITY_FAILURE. -/
def execIdeIntegrityFailure (s : Stream) (st : State) : Host.Outcome State Fault Refusal := done st (st.dev.ideFailure s)

end Sys2Proof.Machine
end

