-- ==== Sys2Proof/Machine/Watermaster.lean ====
section
/-! DEFINITION. The watermaster (R463 to R478, R484, R485): job markers, I3C commands, signed records, stores and power. How a
commit and a restart fall into steps is DESIGN CHOICE, log 23. -/

namespace Sys2Proof.Machine

open Sys2Proof

/-- Changes the meter. -/
def Dev.modMeter (d : Dev) (f : Meter → Meter) : Dev := { d with meter := f d.meter }

/-- The meter has power and its firmware runs. -/
def Meter.awake (m : Meter) : Bool := m.powered && m.answering

/-! ### Job markers (R476, R477) -/

/-- Entries of the marker ring. -/
def markerRing : Nat := 4096

/-- A marker is stamped and kept. -/
def Meter.keepMarker (m : Meter) (c : Fin 16) (id : Nat) (isEnd : Bool) (tb : Nat) : Meter :=
  let k : MeterMark := {
    id := id, kind := bit isEnd + 2 * c.val, energyMj := m.energyMwh * 3600 + m.residue / 10000, tbNs := tb, meterUs := m.opNs / 1000 }
  let all := m.markers ++ [k]
  { m with markers := all.drop (all.length - markerRing), markerCount := m.markerCount + 1, tbNs := some tb }

/-- The MARKER command is complete; a FAULTED context's state stays frozen (R182). -/
def Dev.markerDone (d : Dev) (c : Fin 16) (seq : W32) : Dev :=
  if (d.ctx c).state = .faulted then d else (d.modCmd c seq fun k => k.unitDone 0).finishCmd c seq

/-- MARKER_RECEIPT: the oldest marker on its way arrives and is acknowledged. -/
def Dev.markerReceipt (d : Dev) : Dev :=
  match d.meter.flying with
  | [] => d
  | (c, seq, id, isEnd, tb, _) :: rest =>
    if !d.meter.awake then d
    else
      let d := d.modMeter fun m =>
        { m.keepMarker c id isEnd tb with flying := rest, sent := satTo 0xFFFFFFFF (m.sent + 1) }
      d.markerDone c seq

/-- MARKER_RECEIPT (R477). -/
def execMarkerReceipt (s : State) : Host.Outcome State Fault Refusal := done s s.dev.markerReceipt

/-- MARKER_ACK_TIMEOUT (R476): after 1 ms the command completes with OK all the same. -/
def Dev.markerTimeout (d : Dev) (c : Fin 16) (seq : W32) : Dev :=
  let mine := fun (f : Fin 16 × W32 × Nat × Bool × Nat × Nat) => f.1 == c && f.2.1 == seq
  match d.meter.flying.find? mine with
  | none => d
  | some f =>
    if !d.passed f.2.2.2.2.2 (msNs 1) then d
    else
      let d := d.modMeter fun m =>
        { m with flying := m.flying.filter fun g => !mine g, dropped := satTo 0xFFFFFFFF (m.dropped + 1) }
      d.markerDone c seq

/-- MARKER_ACK_TIMEOUT. -/
def execMarkerAckTimeout (c : Fin 16) (seq : W32) (s : State) : Host.Outcome State Fault Refusal := done s (s.dev.markerTimeout c seq)

/-! ### I3C (R466, R468, R478) -/

/-- An I3C command that the meter can take: it answers with a status and a response, or does not acknowledge. -/
def Dev.onI3c (d : Dev) (f : Meter → Meter × Nat × List Byte) : Dev :=
  if !d.meter.awake then d.emit .i3cNack
  else
    let (m, st, resp) := f d.meter
    ({ d with meter := m }).emit (.i3c st resp)

/-- A command that only reads. -/
def readsOnly (f : Meter → Nat × List Byte) : Meter → Meter × Nat × List Byte := fun m => (m, f m)

/-- READ_ENERGY. -/
def Meter.energyReading (m : Meter) : List Byte :=
  toLe 8 m.energyMwh ++ toLe 4 m.mec ++ toLe 8 m.opSeconds ++ toLe 1 (bit m.strap)

/-- READ_ENERGY (R478). -/
def execReadEnergy (s : State) : Host.Outcome State Fault Refusal :=
  done s (s.dev.onI3c (readsOnly fun m => (stOk, m.energyReading)))

/-- A marker entry of 40 bytes (R477). -/
def MeterMark.entry (k : MeterMark) : List Byte :=
  toLe 8 k.id ++ toLe 1 k.kind ++ toLe 7 0 ++ toLe 8 k.energyMj ++ toLe 8 k.tbNs ++ toLe 8 k.meterUs

/-- The entries of `n` markers from index `first`; none where one of them is not in the ring. -/
def Meter.markersFrom (m : Meter) (first n : Nat) : Option (List Byte) :=
  let lo := m.markerCount - m.markers.length
  if n = 0 then some []
  else if lo ≤ first && first + n ≤ m.markerCount then
    some (((m.markers.drop (first - lo)).take n).flatMap MeterMark.entry)
  else none

/-- READ_MARKERS. -/
def Meter.readMarkers (p : List Byte) (m : Meter) : Nat × List Byte :=
  let n := fieldAt p 4 2
  if n = 0 || 200 < n then (stBadArg, [])
  else match m.markersFrom (fieldAt p 0 4) n with
    | some bs => (stOk, bs)
    | none => (stBadArg, [])

/-- READ_MARKERS (R478). -/
def execReadMarkers (p : List Byte) (s : State) : Host.Outcome State Fault Refusal := done s (s.dev.onI3c (readsOnly (Meter.readMarkers p)))

/-- READ_LOG. -/
def Meter.readLog (p : List Byte) (m : Meter) : Nat × List Byte :=
  let first := fieldAt p 0 2
  let n := fieldAt p 2 2
  if n = 0 || 100 < n || m.log.length < first + n then (stBadArg, [])
  else (stOk, ((m.log.drop first).take n).flatMap id)

/-- READ_LOG (R478). -/
def execReadLog (p : List Byte) (s : State) : Host.Outcome State Fault Refusal := done s (s.dev.onI3c (readsOnly (Meter.readLog p)))

/-- READ_CERTS: an offset beyond the chain is BAD_ARG (DEDUCED, log 23). -/
def Meter.readCerts (p : List Byte) (_ : Meter) : Nat × List Byte :=
  let off := fieldAt p 0 4
  if Config.meterCertificates.length < off then (stBadArg, []) else (stOk, (Config.meterCertificates.drop off).take 8191)

/-- READ_CERTS (R478). -/
def execReadCerts (p : List Byte) (s : State) : Host.Outcome State Fault Refusal := done s (s.dev.onI3c (readsOnly (Meter.readCerts p)))

/-! ### Signed records (R472, R473) -/

/-- The MeterID ECDSA key and HSS seed. -/
def meterKey : List Byte := Config.deriveKey Config.meterSecret 0
/-- Seed of the MeterID HSS key. -/
def meterHssKey : List Byte := Config.deriveKey Config.meterSecret 1

/-- A record without its signatures. RSEQ counts this record (DEDUCED, log 23). -/
def Meter.recordBody (m : Meter) (nonce : List Byte) (n : Nat) (marks : List Byte) : List Byte :=
  let flags := bit m.gapFlag + 2 * bit m.rangeFlag + 4 * bit m.tbNs.isSome
  toLe 4 0x574D5243 ++ toLe 4 1 ++ padTo 16 Config.meterSerial ++ toLe 8 (m.rseq + 1) ++ toLe 8 m.energyMwh ++ toLe 4 m.mec
    ++ toLe 4 m.fwVersion ++ toLe 8 m.opSeconds ++ toLe 4 m.powerCycles ++ toLe 4 flags ++ toLe 8 (m.tbNs.getD 0)
    ++ padTo 32 nonce ++ toLe 4 n ++ toLe 4 0 ++ marks

/-- SIGN_RECORD: a leaf is used, and its block reserved before the first of it. -/
def Meter.signRecord (p : List Byte) (m : Meter) : Meter × Nat × List Byte :=
  let n := fieldAt p 36 1
  let soon := match m.signedAt with
    | some t => decide (m.opNs < t + 10000000000)
    | none => false
  if 64 < n then (m, stBadArg, [])
  else match m.markersFrom (fieldAt p 32 4) n with
    | none => (m, stBadArg, [])
    | some marks =>
      if soon || m.committing.isSome then (m, stBusy, [])
      else if allLeaves ≤ m.nextLeaf then (m, stNoResource, [])
      else
        let body := m.recordBody (p.take 32) n marks
        let digest := sha384 body
        let record := body ++ ecdsaSig meterKey digest ++ hssSig meterHssKey m.nextLeaf digest
        let stop := if m.leafEnd ≤ m.nextLeaf then (m.nextLeaf / 1024 + 1) * 1024 else m.leafEnd
        ({ m with
          nextLeaf := m.nextLeaf + 1, leafEnd := stop, rseq := m.rseq + 1, signedAt := some m.opNs, gapFlag := false
          rangeFlag := false }, stOk, record)

/-- SIGN_RECORD (R473). -/
def execSignRecord (p : List Byte) (s : State) : Host.Outcome State Fault Refusal := done s (s.dev.onI3c (Meter.signRecord p))

/-! ### Firmware and calibration (R468 to R471) -/

/-- Entries of the metrological log. -/
def meterLogSize : Nat := 1024

/-- A command that changes firmware or calibration: SEALED while the strap is low (R468). -/
def unsealed (f : Meter → Meter × Nat × List Byte) : Meter → Meter × Nat × List Byte :=
  fun m => if m.strap then f m else (m, stSealed, [])

/-- Bytes of the meter's staging buffer. -/
def meterStaging : Nat := 512 * 1024

/-- FW_WRITE. -/
def Meter.fwWrite (p : List Byte) (m : Meter) : Meter × Nat × List Byte :=
  let off := fieldAt p 0 4
  let bs := p.drop 4
  if 4088 < bs.length || meterStaging < off + bs.length then (m, stBadArg, [])
  else
    let buf := padTo (max m.staging.length (off + bs.length)) m.staging
    ({ m with staging := splice buf off bs }, stOk, [])

/-- FW_WRITE (R478). -/
def execFwWrite (p : List Byte) (s : State) : Host.Outcome State Fault Refusal := done s (s.dev.onI3c (unsealed (Meter.fwWrite p)))

/-- The checks that a commit makes before the inactive slot is written (R470, R471). -/
def Meter.commitStatus (m : Meter) (img : List Byte) (len : Nat) : Nat :=
  if meterStaging < len then stBadArg
  else
    let st := imgVerify Config.meterEcdsaRootDigest Config.meterLmsRootDigest 16 m.svnFuses img
    if st ≠ stOk then st else if meterLogSize ≤ m.log.length then stNoResource else stOk

/-- FW_COMMIT of the meter: a good image stands in the inactive slot; its OK is posted with the boot marker. -/
def Dev.meterCommit (d : Dev) (p : List Byte) : Dev :=
  let len := fieldAt p 0 4
  let img := padTo len d.meter.staging
  if !d.meter.awake then d.emit .i3cNack
  else if !d.meter.strap then d.emit (.i3c stSealed [])
  else
    let st := d.meter.commitStatus img len
    if st = stOk then d.modMeter fun m => { m with committing := some img, otherImage := img } else d.emit (.i3c st [])

/-- WM_FW_COMMIT (R470). -/
def execWmFwCommit (p : List Byte) (s : State) : Host.Outcome State Fault Refusal := done s (s.dev.meterCommit p)

/-- CAL_WRITE. -/
def Meter.calWrite (p : List Byte) (m : Meter) : Meter × Nat × List Byte :=
  let version := fieldAt p 0 4
  let set := padTo 128 (p.drop 4)
  if meterLogSize ≤ m.log.length then (m, stNoResource, [])
  else ({ m.logged 2 m.calVersion version (sha384 set) with calVersion := version, calibration := set }, stOk, [])

/-- CAL_WRITE (R469). -/
def execCalWrite (p : List Byte) (s : State) : Host.Outcome State Fault Refusal := done s (s.dev.onI3c (unsealed (Meter.calWrite p)))

/-- SEAL_STRAP is low: an image whose boot marker is not written is discarded, and its commit ends with SEALED (R470). -/
def Dev.sealMeter (d : Dev) : Dev :=
  let busy := d.meter.committing.isSome
  let d := d.modMeter fun m => { m with strap := false, committing := none, otherImage := if busy then [] else m.otherImage }
  if busy then d.emit (.i3c stSealed []) else d

/-- SEAL_STRAP_FALL (R470). -/
def execSealStrapFall (s : State) : Host.Outcome State Fault Refusal := done s s.dev.sealMeter

/-! ### Start, stores and power (R471, R474, R475, R484, R485) -/

/-- METER_START: fuses are blown up to the running image's SVN before the meter answers. The front end has counted through the
restart: how much is a free value (log 23). -/
def Dev.meterStart (d : Dev) : Dev :=
  if !d.meter.powered || d.meter.answering then d
  else
    let (n, d) := d.draw
    d.modMeter fun m =>
      { m.add (Config.freeWord n).toNat with answering := true, svnFuses := max m.svnFuses m.runSvn }

/-- METER_START (R471). -/
def execMeterStart (s : State) : Host.Outcome State Fault Refusal := done s s.dev.meterStart

/-- METER_PERIODIC_STORE (R474): once a second. -/
def execMeterPeriodicStore (s : State) : Host.Outcome State Fault Refusal :=
  let d := s.dev
  done s (if d.meter.powered && decide (d.meter.storedAt + 1000000000 ≤ d.meter.opNs) then d.modMeter Meter.store else d)

/-- VIN12 is below 9.6 V: registering stops after the final store. A torn one leaves the store before it, and a gap. What is in RAM
is lost, and the unused leaves of the last block are skipped. -/
def Meter.powerFail (m : Meter) (torn : Bool) : Meter :=
  let m := if torn then
      { m with
        energyMwh := m.storedEnergy, residue := m.storedResidue, gapFlag := true, gaps := satTo 0xFFF (m.gaps + 1) }
    else m.store
  { m with
    powered := false, answering := false, staging := [], committing := none, markers := [], markerCount := 0, tbNs := none
    nextLeaf := m.leafEnd, copySum := 0, copyCount := 0 }

/-- METER_POWER_FAIL (R474, R475). -/
def execMeterPowerFail (torn : Bool) (s : State) : Host.Outcome State Fault Refusal :=
  let d := s.dev
  done s (if d.meter.powered then d.modMeter fun m => m.powerFail torn else d)

/-- METER_POWER_RETURN (R485): one more power cycle. -/
def execMeterPowerReturn (s : State) : Host.Outcome State Fault Refusal :=
  let d := s.dev
  done s (if d.meter.powered then d
    else d.modMeter fun m => { m with powered := true, powerCycles := (m.powerCycles + 1) % 2 ^ 32 })

/-! ### The copy (R467) -/

/-- WM_STATUS without LINK_OK. -/
def Meter.status (m : Meter) : Nat :=
  packFields [(1, bit m.strap), (2, bit (decide (allLeaves ≤ m.nextLeaf))), (3, bit (decide (meterLogSize ≤ m.log.length))), (4, m.gaps),
    (16, m.fwVersion % 2 ^ 16), (32, m.mec)]

/-- The copy is refreshed: register, mean power since the last refresh, status. -/
def Meter.refresh (m : Meter) (now : Nat) : Meter :=
  { m with
    copyMwh := m.energyMwh, copyMeanW := satTo 0xFFF (m.copySum / max 1 m.copyCount / 1000), copyStatus := m.status, copyAt := some now
    copySum := 0, copyCount := 0 }

/-- METER_COPY_REFRESH (R467): every 100 ms. The strap's level is sampled with it (log 23). -/
def Dev.meterCopy (d : Dev) (strap : Bool) : Dev :=
  let due := match d.meter.copyAt with
    | some t => d.passed t (msNs 100)
    | none => true
  if !d.meter.awake || !due then d
  else
    let d := if strap then d.modMeter fun m => { m with strap := true } else d.sealMeter
    d.modMeter fun m => m.refresh d.now

/-- METER_COPY_REFRESH. -/
def execMeterCopyRefresh (strap : Bool) (s : State) : Host.Outcome State Fault Refusal := done s (s.dev.meterCopy strap)

end Sys2Proof.Machine
end

