-- ==== Sys2Proof/Machine/Registers.lean ====
section
/-! DEFINITION. Register writes by access code (R6 to R9, R424): one function for each block, which gets the offset within the
block and the value. A field that is RO or reserved ignores the write; an access of another width, or to an offset without a
writable register, changes nothing (R7). -/

namespace Sys2Proof.Machine

open Sys2Proof

/-- The number of a register in an array of `n` from `base` on, `stride` apart. -/
def regIndex (o base stride n : Nat) : Option Nat :=
  if base ≤ o && (o - base) % stride == 0 && decide ((o - base) / stride < n) then some ((o - base) / stride) else none

/-- W1C: the bits of `v` where a 1 is written are cleared. -/
def clearBits (old : BitVec 16) (v : Nat) : BitVec 16 := old &&& ~~~(BitVec.ofNat 16 v)

/-! ### Contexts and the mailbox -/

/-- CTX_EQ_PTRS: HEAD moves forward up to TAIL. -/
def Ctx.moveEqHead (x : Ctx) (h : W32) : Ctx := if dist32 x.eqHead h ≤ dist32 x.eqHead x.eqTail then { x with eqHead := h } else x

/-- CTX_ registers of context `c`, by offset within its 64 KiB. -/
def Dev.writeCtx (d : Dev) (c : Fin 16) (o width v : Nat) : Dev :=
  if o = 0x38 && width = 64 then d.modCtx c fun x => x.moveEqHead (BitVec.ofNat 32 (v / 2 ^ 32))
  else if o = 0x40 && width = 32 then
    (if bitOf v 0 then d.modCtx c fun x => { x with overflow := false, lost := 0 } else d)
  else if o = 0x44 && width = 32 then d.modCtx c fun x => { x with irq := bitOf v 0 }
  else d

/-- MBX_CTRL: DOORBELL starts a command; a 1 while it is set starts nothing (R189). -/
def Dev.writeMbxCtrl (d : Dev) (v : Nat) : Dev :=
  let d := { d with mbx := { d.mbx with irqEn := bitOf v 1 } }
  if bitOf v 0 && !d.mbx.doorbell then d.runCommand d.mbx.opcode (mailboxCommand d.mbx.opcode) else d

/-- MBX_ registers. MBX_CMD and the payload ignore writes while DOORBELL is set. -/
def Dev.writeMbx (d : Dev) (o width v : Nat) : Dev :=
  if o = 0x4 && width = 32 then d.writeMbxCtrl v
  else if o = 0x8 && width = 64 then
    (if d.mbx.doorbell then d else { d with mbx := { d.mbx with opcode := bitsOf v 0 16, len := bitsOf v 16 21 } })
  else match regIndex o 0x20 8 512, regIndex o 0x2000 8 8 with
    | some i, _ =>
      if width ≠ 64 || d.mbx.doorbell then d else { d with mbx := { d.mbx with payload := splice d.mbx.payload (8 * i) (toLe 8 v) } }
    | none, some i => if width = 64 && bitOf v 34 then d.svcFree (Fin.ofNat 8 i) else d
    | none, none => d

/-! ### Engines and memory -/

/-- MXA_ registers. -/
def Dev.writeMxa (d : Dev) (o width v : Nat) : Dev :=
  if width ≠ 32 then d
  else if o = 0x60 then { d with mxa := { d.mxa with intervalH := bitsOf v 0 8 } }
  else if o = 0x90 then { d with mxa := { d.mxa with sat := clearBits d.mxa.sat v } }
  else d

/-- VXE_ registers. -/
def Dev.writeVxe (d : Dev) (o width v : Nat) : Dev :=
  if o = 0x20 && width = 32 then { d with vxe := { d.vxe with sat := clearBits d.vxe.sat v } } else d

/-- FLM_BW_LIMIT: 0 and values above 16 are stored as 16. -/
def flumeLimit (v : Nat) : Nat := if v = 0 || 16 < v then 16 else v

/-- FLM_ registers. -/
def Dev.writeFlm (d : Dev) (o width v : Nat) : Dev :=
  if o = 0x10 && width = 32 then
    { d with flm := { d.flm with bwLimit := Vector.ofFn fun f : Fin 4 => flumeLimit (bitsOf v (8 * f.val) 8) } }
  else d

/-- RSV_ registers. -/
def Dev.writeRsv (d : Dev) (o width v : Nat) : Dev :=
  if o = 0x8 && width = 32 then
    { d with rsv := { d.rsv with
      arbArray := atLeastOne (bitsOf v 0 4), arbVector := atLeastOne (bitsOf v 4 4), arbCulvert := atLeastOne (bitsOf v 8 4)
      arbCross := atLeastOne (bitsOf v 12 4) } }
  else if o = 0x10 && width = 32 then
    { d with rsv := { d.rsv with rsvHours := bitsOf v 0 8, hbmHours := bitsOf v 8 8, lpHours := bitsOf v 16 8 } }
  else if o = 0x30 && width = 64 && bitOf v 48 then { d with rsv := { d.rsv with ueNew := false } }
  else d

/-- UPD_ registers. -/
def Dev.writeUpd (d : Dev) (o width v : Nat) : Dev :=
  if o = 0x10 && width = 32 then { d with upd := { d.upd with limitMs := bitsOf v 0 16 } }
  else if o = 0x18 && width = 64 && bitOf v 8 then { d with upd := { d.upd with stallNew := false } }
  else if o = 0x20 && width = 32 then { d with upd := { d.upd with nonfinite := clearBits d.upd.nonfinite v } }
  else d

/-! ### The sluice, reduction and the fabric -/

/-- SLC_ registers of a context. -/
def Dev.writeSlc (d : Dev) (o width v : Nat) : Dev :=
  match regIndex (o / 0x100 * 0x100) 0x1000 0x100 16 with
  | none => d
  | some c =>
    let c := Fin.ofNat 16 c
    if o % 0x100 = 0x30 && width = 32 then
      d.modSlc c fun s => { s with voteMs := atLeastOne (bitsOf v 0 16), queryMs := atLeastOne (bitsOf v 16 16) }
    else if o % 0x100 = 0x40 && width = 64 && bitOf v 17 then d.modSlc c fun s => { s with abortNew := false }
    else d

/-- RED_ registers. -/
def Dev.writeRed (d : Dev) (o width v : Nat) : Dev :=
  if o = 0x8 && width = 32 then { d with red := { d.red with defaultUs := atLeastOne (bitsOf v 0 24) } }
  else if o = 0x18 && width = 32 then { d with red := { d.red with sat := clearBits d.red.sat v } }
  else if o = 0x500 && width = 64 && bitOf v 55 then { d with red := { d.red with failNew := false } }
  else d

/-- FAB_CTRL. -/
def Dev.writeFabCtrl (d : Dev) (v : Nat) : Dev :=
  let d := { d with fab := { d.fab with canon := bitOf v 1, adaptive := bitOf v 2, irq := bitOf v 3, basins := bitsOf v 4 12 } }
  (d.setEnable none (bitOf v 0)).afterRoutes

/-- FAB_PORT_CTRLn. -/
def Dev.writePortCtrl (d : Dev) (n : Fin 96) (v : Nat) : Dev :=
  let st := d.fab.ports[n].state
  let free := st == .disabled || st == .down
  let mode := bitOf v 1 && 31 ≤ n.val && n.val != 95
  let d := if free && (mode || !bitOf v 1) then d.modPort n fun x => { x with lateral := mode } else d
  let d := if n.val = 95 then { d with fab := { d.fab with spareFor := bitsOf v 2 7 } } else d
  d.setEnable (some n) (bitOf v 0)

/-- A route entry is written by itself: it replaces a rewritten one with its saved original (DESIGN CHOICE, log 24). -/
def Dev.writeRoute (d : Dev) (n v : Nat) : Dev :=
  let raw := v % 2 ^ 63
  let raw := if raw % 4 = 3 then raw - 3 else raw
  let d := { d with fab := { d.fab with routes := insertKey n raw d.fab.routes, saved := eraseKey n d.fab.saved } }
  d.markRouted.afterRoutes

/-- FAB_PORT_CHANGEn: port `64 n + j` for each bit written. -/
def Dev.clearChanges (d : Dev) (n v : Nat) : Dev :=
  let ports := Vector.ofFn fun p : Fin 96 =>
    let x := d.fab.ports[p]
    if p.val / 64 = n && bitOf v (p.val % 64) then { x with changed := false } else x
  { d with fab := { d.fab with ports := ports } }

/-- PRIV_SHARE: 1 to 16; other values are stored as 16. -/
def privShareOf (v : Nat) : Nat := if v = 0 || 16 < v then 16 else v

/-- FAB_TC_WEIGHT; grants depend on PRIV_SHARE (R315). -/
def Dev.writeWeights (d : Dev) (v : Nat) : Dev :=
  let ws := Vector.ofFn fun i : Fin 4 => atLeastOne (bitsOf v (4 * i.val) 4)
  ({ d with fab := { d.fab with weights := ws, privShare := privShareOf (bitsOf v 16 5) } }).resizeGrants

/-- FAB_ registers. -/
def Dev.writeFab (d : Dev) (o width v : Nat) : Dev :=
  if o = 0x8 && width = 32 then
    (if d.fab.enable then d else { d with fab := { d.fab with id := bitsOf v 0 20 } })
  else if o = 0x10 && width = 32 then d.writeFabCtrl v
  else if o = 0x20 && width = 32 then { d with fab := { d.fab with reqUs := atLeastOne (bitsOf v 0 16) } }
  else if o = 0x28 && width = 32 then d.writeWeights v
  else match regIndex o 0x40 8 2, regIndex o 0x1008 16 96, regIndex o 0x10000 8 2049 with
    | some n, _, _ => if width = 64 then d.clearChanges n v else d
    | none, some n, _ => if width = 32 then d.writePortCtrl (Fin.ofNat 96 n) v else d
    | none, none, some n => if width = 64 then d.writeRoute n v else d
    | none, none, none => d

/-! ### Laterals, turnout and ledger -/

/-- LAT_ registers; lateral `n` is global port `n`, fabric port 31 + n. -/
def Dev.writeLat (d : Dev) (o width v : Nat) : Dev :=
  if width ≠ 64 then d
  else if o = 0x8 then
    { d with lat := { d.lat with
      stepNs := atLeastOne (bitsOf v 0 16), holdMs := bitsOf v 16 12, remeasure := max 16 (bitsOf v 32 16) } }
  else match regIndex o 0x1018 0x40 64, regIndex o 0x1020 0x40 64, regIndex o 0x2000 8 8 with
    | some n, _, _ => d.modLat (Fin.ofNat 96 (31 + n)) fun x => { x with fibrePs := signed 32 v }
    | none, some n, _ => d.modLat (Fin.ofNat 96 (31 + n)) fun x => { x with asymLock := bitOf v 0 }
    | none, none, some s =>
      let v := setBits (v % 2 ^ 51) 48 3 (min 4 (bitsOf v 48 3))
      { d with lat := { d.lat with fallback := modVec d.lat.fallback s fun _ => v } }
    | none, none, none => d

/-- TRN_ registers of a context. STALE keeps its value while a shard of the context is enrolled. -/
def Dev.writeTrn (d : Dev) (o width v : Nat) : Dev :=
  match regIndex (o / 0x100 * 0x100) 0x1000 0x100 16 with
  | none => d
  | some c =>
    let c := Fin.ofNat 16 c
    if width ≠ 64 then d
    else if o % 0x100 = 0 then
      let held := d.trn.enrols.any fun e => e.ctx == c
      d.modTrn c fun t =>
        { t with
          deadlineMs := atLeastOne (bitsOf v 0 16), stale := if held then t.stale else bitsOf v 16 2
          lateScale := BitVec.ofNat 32 (v / 2 ^ 32) }
    else if o % 0x100 = 0x10 && bitOf v 24 then d.modTrn c fun t => { t with isNew := false, dropped := 0 }
    else match regIndex (o % 0x100) 0x40 8 8 with
      | some s => d.modTrn c fun t =>
        { t with
          enabled := modVec t.enabled s fun _ => bitOf v 0, firstRound := modVec t.firstRound s fun _ => BitVec.ofNat 32 (v / 2 ^ 32) }
      | none => d

/-- SIP_ registers. -/
def Dev.writeSip (d : Dev) (o width v : Nat) : Dev :=
  if o = 0x8 && width = 64 && bitOf v 12 then { d with sip := { d.sip with isNew := false } } else d

/-- LDG_ registers. -/
def Dev.writeLdg (d : Dev) (o width v : Nat) : Dev :=
  if o = 0x10 && width = 64 then { d with ldg := { d.ldg with dst := bitsOf v 0 44 } }
  else if o = 0x18 && width = 64 then { d with ldg := { d.ldg with first := v } }
  else if o = 0x20 && width = 32 then d.ledgerStart (BitVec.ofNat 32 v)
  else if o = 0x200 && width = 32 then { d with ldg := { d.ldg with selLayer := bitsOf v 0 12, selCtx := bitsOf v 12 4 } }
  else match regIndex o 0x100 8 16 with
    | some c => if width = 32 then { d with ldg := { d.ldg with threshold := modVec d.ldg.threshold c fun _ => bitsOf v 0 16 } } else d
    | none => d

/-! ### Headgate, clocks, security and the cistern -/

/-- VMAX_CAP_MV: within 550 and 900, rounded down to a multiple of 5. -/
def vmaxOf (v : Nat) : Nat := min 900 (max 550 v) / 5 * 5

/-- HG_ registers. Without parking no quadrant is parked (DEDUCED, log 17). -/
def Dev.writeHg (d : Dev) (o width v : Nat) : Dev :=
  if width ≠ 32 then d
  else if o = 0x10 then
    let park := bitOf v 26
    { d with hg := { d.hg with
      vmaxCap := vmaxOf (bitsOf v 0 10), maxDeferUs := bitsOf v 10 16, parkEn := park
      quads := d.hg.quads.map fun q => { q with parked := q.parked && park } } }
  else if o = 0x18 then { d with hg := { d.hg with tjLimit := min 95 (max 50 (bitsOf v 0 8)) } }
  else if o = 0x20 then { d with hg := { d.hg with droopMv := bitsOf v 0 16 } }
  else d

/-- CLK_ registers. -/
def Dev.writeClk (d : Dev) (o width v : Nat) : Dev :=
  if o = 0x8 && width = 64 then
    (if bitOf v 1 then { d with clk := { d.clk with refLostSeen := false } } else d)
  else if o = 0x30 && width = 32 then
    { d with clk := { d.clk with master := bitOf v 0, stepEn := bitOf v 1, stepNs := atLeastOne (bitsOf v 2 22) } }
  else if o = 0x38 && width = 64 then
    ({ d with clk := { d.clk with src := Vector.ofFn fun i : Fin 4 => bitsOf v (7 * i.val) 7 } }).chooseSource
  else if o = 0x48 && width = 64 then d.setTime (BitVec.ofNat 64 v)
  else d

/-- SEC_ registers. -/
def Dev.writeSec (d : Dev) (o width v : Nat) : Dev :=
  if o = 0x100 && width = 64 && bitOf v 32 then { d with link := { d.link with failNew := false } }
  else if o = 0x108 && width = 32 && !d.link.decoders[1].committed then { d with link := { d.link with hbmWindow := bitOf v 0 } }
  else d

/-- CIS_ registers. -/
def Dev.writeCis (d : Dev) (o width v : Nat) : Dev :=
  if o = 0x10 && width = 32 then { d with cis := { d.cis with days := bitsOf v 0 8 } }
  else if o = 0x18 && width = 64 && bitOf v 7 then { d with cis := { d.cis with ueNew := false } }
  else match regIndex o 0x100 8 16 with
    | some c => if width = 64 then { d with cis := { d.cis with keep := modVec d.cis.keep c fun _ => atLeastOne (bitsOf v 2 4) } } else d
    | none => d

/-! ### The BARs (R424) -/

/-- A write to BAR0 at a register offset, by block of 2 MiB. -/
def Dev.writeBar0 (d : Dev) (off width v : Nat) : Dev :=
  let o := off % 0x200000
  match off / 0x200000 with
  | 0 => if o < 0x100000 then d.writeCtx (Fin.ofNat 16 (o / 0x10000)) (o % 0x10000) width v else d
  | 1 => d.writeMbx o width v
  | 2 => d.writeMxa o width v
  | 3 => d.writeVxe o width v
  | 4 => d.writeFlm o width v
  | 5 => d.writeRsv o width v
  | 7 => d.writeUpd o width v
  | 8 => d.writeSlc o width v
  | 9 => d.writeRed o width v
  | 10 => d.writeFab o width v
  | 11 => d.writeLat o width v
  | 12 => d.writeTrn o width v
  | 13 => d.writeSip o width v
  | 14 => d.writeLdg o width v
  | 15 => d.writeHg o width v
  | 16 => d.writeClk o width v
  | 17 => d.writeSec o width v
  | 18 => d.writeCis o width v
  | _ => d

/-- A register write: BAR0; the doorbells of BAR2; BAR4's alias of the mailbox. The standard's own registers in BAR4 are not
modelled (log 22). -/
def Dev.writeReg (d : Dev) (bar off width : Nat) (value : W64) : Dev :=
  let v := value.toNat % 2 ^ width
  if off % (width / 8) ≠ 0 then d
  else if bar = 0 then d.writeBar0 off width v
  else if bar = 2 then
    match regIndex off 0 0x1000 16 with
    | some c => if width = 32 then d.doorbell (Fin.ofNat 16 c) (BitVec.ofNat 32 v) else d
    | none => d
  else if bar = 4 then
    (if 0x11000 ≤ off && off < 0x12020 then d.writeMbx (off - 0x11000) width v else d)
  else d

/-- REGISTER_WRITE (R7, R8). -/
def execRegisterWrite (bar off width : Nat) (value : W64) (s : State) : Host.Outcome State Fault Refusal :=
  done s (s.dev.writeReg bar off width value)

end Sys2Proof.Machine
end

