-- ==== Sys2Proof/Machine/Dispatch.lean ====
section
/-! DEFINITION. One arm for each command: a direct call of its meaning. -/

namespace Sys2Proof.Machine

open Sys2Proof

/-- The effect of a command on everything but the queue. -/
def exec (i : Instr) (s : State) : Host.Outcome State Fault Refusal :=
  match i with
  | .nop c seq => Sys2Proof.Machine.execNop c seq s
  | .marker c seq => Sys2Proof.Machine.execMarker c seq s
  | .arrayOp c seq => Sys2Proof.Machine.execArrayOp c seq s
  | .flumeOp c seq => Sys2Proof.Machine.execFlumeOp c seq s
  | .vectorOp c seq => Sys2Proof.Machine.execVectorOp c seq s
  | .move c seq => Sys2Proof.Machine.execMove c seq s
  | .stepBegin c seq => Sys2Proof.Machine.execStepBegin c seq s
  | .stepEnd c seq => Sys2Proof.Machine.execStepEnd c seq s
  | .reduce c seq => Sys2Proof.Machine.execReduce c seq s
  | .update c seq => Sys2Proof.Machine.execUpdate c seq s
  | .shardExport c seq => Sys2Proof.Machine.execShardExport c seq s
  | .shardImport c seq => Sys2Proof.Machine.execShardImport c seq s
  | .siphonSave c seq => Sys2Proof.Machine.execSiphonSave c seq s
  | .siphonLoad c seq => Sys2Proof.Machine.execSiphonLoad c seq s
  | .stageSend c seq => Sys2Proof.Machine.execStageSend c seq s
  | .outerRound c seq => Sys2Proof.Machine.execOuterRound c seq s
  | .ringEntryRead c => Sys2Proof.Machine.execRingEntryRead c s
  | .ctxDoorbell c v => Sys2Proof.Machine.execCtxDoorbell c v s
  | .ctxCreate p => Sys2Proof.Machine.execCtxCreate p s
  | .ctxStart p => Sys2Proof.Machine.execCtxStart p s
  | .ctxHold p => Sys2Proof.Machine.execCtxHold p s
  | .ctxResume p => Sys2Proof.Machine.execCtxResume p s
  | .ctxDrain p => Sys2Proof.Machine.execCtxDrain p s
  | .ctxReset p => Sys2Proof.Machine.execCtxReset p s
  | .ctxRearm p => Sys2Proof.Machine.execCtxRearm p s
  | .ctxClose p => Sys2Proof.Machine.execCtxClose p s
  | .arrayRetire p => Sys2Proof.Machine.execArrayRetire p s
  | .arrayRecal p => Sys2Proof.Machine.execArrayRecal p s
  | .pcRetire p => Sys2Proof.Machine.execPcRetire p s
  | .shardRegister p => Sys2Proof.Machine.execShardRegister p s
  | .shardRelease p => Sys2Proof.Machine.execShardRelease p s
  | .shardQuery p => Sys2Proof.Machine.execShardQuery p s
  | .outcomeQuery p => Sys2Proof.Machine.execOutcomeQuery p s
  | .ringSet p => Sys2Proof.Machine.execRingSet p s
  | .rollback p => Sys2Proof.Machine.execRollback p s
  | .portRetrain p => Sys2Proof.Machine.execPortRetrain p s
  | .routeLoad p => Sys2Proof.Machine.execRouteLoad p s
  | .trnEnrol p => Sys2Proof.Machine.execTrnEnrol p s
  | .trnWithdraw p => Sys2Proof.Machine.execTrnWithdraw p s
  | .allotSet p => Sys2Proof.Machine.execAllotSet p s
  | .allotGet p => Sys2Proof.Machine.execAllotGet p s
  | .fwStage p => Sys2Proof.Machine.execFwStage p s
  | .fwActivate p => Sys2Proof.Machine.execFwActivate p s
  | .fwCommit p => Sys2Proof.Machine.execFwCommit p s
  | .fwQuery p => Sys2Proof.Machine.execFwQuery p s
  | .ucodeLoad p => Sys2Proof.Machine.execUcodeLoad p s
  | .ctxAdopt p a => Sys2Proof.Machine.execCtxAdopt p a s
  | .attestReport p => Sys2Proof.Machine.execAttestReport p s
  | .recoveryLoad p => Sys2Proof.Machine.execRecoveryLoad p s
  | .recoveryBoot p => Sys2Proof.Machine.execRecoveryBoot p s
  | .deviceReset p => Sys2Proof.Machine.execDeviceReset p s
  | .cisInfo p => Sys2Proof.Machine.execCisInfo p s
  | .cisFormat p => Sys2Proof.Machine.execCisFormat p s
  | .cisCheckpoint p => Sys2Proof.Machine.execCisCheckpoint p s
  | .cisList p => Sys2Proof.Machine.execCisList p s
  | .cisDiscard p => Sys2Proof.Machine.execCisDiscard p s
  | .cisFetch p => Sys2Proof.Machine.execCisFetch p s
  | .cisJournalRead p => Sys2Proof.Machine.execCisJournalRead p s
  | .unassignedVendorOpcode op p => Sys2Proof.Machine.execUnassignedVendorOpcode op p s
  | .identify p => Sys2Proof.Machine.execIdentify p s
  | .getEventRecords p => Sys2Proof.Machine.execGetEventRecords p s
  | .clearEventRecords p => Sys2Proof.Machine.execClearEventRecords p s
  | .getTimestamp p => Sys2Proof.Machine.execGetTimestamp p s
  | .setTimestamp p => Sys2Proof.Machine.execSetTimestamp p s
  | .getSupportedLogs p => Sys2Proof.Machine.execGetSupportedLogs p s
  | .getLog p => Sys2Proof.Machine.execGetLog p s
  | .identifyMemoryDevice p => Sys2Proof.Machine.execIdentifyMemoryDevice p s
  | .unsupportedStandardOpcode op p => Sys2Proof.Machine.execUnsupportedStandardOpcode op p s
  | .mbxSvcFree slot => Sys2Proof.Machine.execMbxSvcFree slot s
  | .ldgCopyStart v => Sys2Proof.Machine.execLdgCopyStart v s
  | .clkTbSet ns => Sys2Proof.Machine.execClkTbSet ns s
  | .portEnable port on => Sys2Proof.Machine.execPortEnable port on s
  | .registerWrite bar off width value => Sys2Proof.Machine.execRegisterWrite bar off width value s
  | .arrayPassComplete a => Sys2Proof.Machine.execArrayPassComplete a s
  | .flumePassComplete f => Sys2Proof.Machine.execFlumePassComplete f s
  | .vectorChunkComplete e => Sys2Proof.Machine.execVectorChunkComplete e s
  | .culvertPieceComplete e => Sys2Proof.Machine.execCulvertPieceComplete e s
  | .unitDispatch c seq inst => Sys2Proof.Machine.execUnitDispatch c seq inst s
  | .commandIssue => Sys2Proof.Machine.execCommandIssue s
  | .patrolScrub tier upsets => Sys2Proof.Machine.execPatrolScrub tier upsets s
  | .updateEntryRun k => Sys2Proof.Machine.execUpdateEntryRun k s
  | .updateEntryComplete k => Sys2Proof.Machine.execUpdateEntryComplete k s
  | .slowTierStall c => Sys2Proof.Machine.execSlowTierStall c s
  | .exportComplete c seq => Sys2Proof.Machine.execExportComplete c seq s
  | .readyMark c => Sys2Proof.Machine.execReadyMark c s
  | .token c m => Sys2Proof.Machine.execToken c m s
  | .abortVote c m => Sys2Proof.Machine.execAbortVote c m s
  | .decide c m => Sys2Proof.Machine.execDecide c m s
  | .decided c m => Sys2Proof.Machine.execDecided c m s
  | .outcome c m => Sys2Proof.Machine.execOutcome c m s
  | .query c m => Sys2Proof.Machine.execQuery c m s
  | .undecided c m => Sys2Proof.Machine.execUndecided c m s
  | .voteTimeout c => Sys2Proof.Machine.execVoteTimeout c s
  | .queryRepeat c => Sys2Proof.Machine.execQueryRepeat c s
  | .decideRepeat c => Sys2Proof.Machine.execDecideRepeat c s
  | .deputySelfAbort c => Sys2Proof.Machine.execDeputySelfAbort c s
  | .drainComplete c => Sys2Proof.Machine.execDrainComplete c s
  | .contextWorkRemoved c => Sys2Proof.Machine.execContextWorkRemoved c s
  | .watchdogExpiry c => Sys2Proof.Machine.execWatchdogExpiry c s
  | .engineHang cls inst => Sys2Proof.Machine.execEngineHang cls inst s
  | .isolatedReplay cls inst hung testOk cal => Sys2Proof.Machine.execIsolatedReplay cls inst hung testOk cal s
  | .coreHeartbeatMiss core => Sys2Proof.Machine.execCoreHeartbeatMiss core s
  | .arrayRetirement a => Sys2Proof.Machine.execArrayRetirement a s
  | .arrayRecalibration a r => Sys2Proof.Machine.execArrayRecalibration a r s
  | .periodicRecalibration r => Sys2Proof.Machine.execPeriodicRecalibration r s
  | .pcRetirement stack pc => Sys2Proof.Machine.execPcRetirement stack pc s
  | .firmwareCoreSwitch core selfTestOk => Sys2Proof.Machine.execFirmwareCoreSwitch core selfTestOk s
  | .microcodeReload cls inst => Sys2Proof.Machine.execMicrocodeReload cls inst s
  | .jobOpen c seq => Sys2Proof.Machine.execJobOpen c seq s
  | .accum p => Sys2Proof.Machine.execAccum p s
  | .ringPieceForward c job chunk piece => Sys2Proof.Machine.execRingPieceForward c job chunk piece s
  | .reduceComplete c seq => Sys2Proof.Machine.execReduceComplete c seq s
  | .contributionDeadline c seq => Sys2Proof.Machine.execContributionDeadline c seq s
  | .busyBackoffReissue entry => Sys2Proof.Machine.execBusyBackoffReissue entry s
  | .read p => Sys2Proof.Machine.execRead p s
  | .write p => Sys2Proof.Machine.execWrite p s
  | .readResp p => Sys2Proof.Machine.execReadResp p s
  | .reply p => Sys2Proof.Machine.execReply p s
  | .genQuery p => Sys2Proof.Machine.execGenQuery p s
  | .requestTimerExpiry entry => Sys2Proof.Machine.execRequestTimerExpiry entry s
  | .inServiceBackoffReissue entry => Sys2Proof.Machine.execInServiceBackoffReissue entry s
  | .flitReceive port codewordOk flit => Sys2Proof.Machine.execFlitReceive port codewordOk flit s
  | .linkStateMessage slot states => Sys2Proof.Machine.execLinkStateMessage slot states s
  | .linkStateBroadcast => Sys2Proof.Machine.execLinkStateBroadcast s
  | .signalDetected port => Sys2Proof.Machine.execSignalDetected port s
  | .trainingExchange port t => Sys2Proof.Machine.execTrainingExchange port t s
  | .trainingTimeout port => Sys2Proof.Machine.execTrainingTimeout port s
  | .portDrainComplete port => Sys2Proof.Machine.execPortDrainComplete port s
  | .lanesLost port => Sys2Proof.Machine.execLanesLost port s
  | .bulkFlitReceive port codewordOk flit => Sys2Proof.Machine.execBulkFlitReceive port codewordOk flit s
  | .privilegedFlitReceive port codewordOk flit => Sys2Proof.Machine.execPrivilegedFlitReceive port codewordOk flit s
  | .lateralControlFlit port cum held => Sys2Proof.Machine.execLateralControlFlit port cum held s
  | .lateralAckTick port => Sys2Proof.Machine.execLateralAckTick port s
  | .privilegedResendTimer port => Sys2Proof.Machine.execPrivilegedResendTimer port s
  | .timeExchangeStart port => Sys2Proof.Machine.execTimeExchangeStart port s
  | .timeExchangeRequest port t1 => Sys2Proof.Machine.execTimeExchangeRequest port t1 s
  | .timeExchangeAnswer port t2 t3 stratum tbState => Sys2Proof.Machine.execTimeExchangeAnswer port t2 t3 stratum tbState s
  | .remeasurementComplete port => Sys2Proof.Machine.execRemeasurementComplete port s
  | .routeRewrite basin => Sys2Proof.Machine.execRouteRewrite basin s
  | .routeRestore basin => Sys2Proof.Machine.execRouteRestore basin s
  | .transmitDelta handle => Sys2Proof.Machine.execTransmitDelta handle s
  | .deltaWriteReissue entry => Sys2Proof.Machine.execDeltaWriteReissue entry s
  | .done p => Sys2Proof.Machine.execDone p s
  | .release p => Sys2Proof.Machine.execRelease p s
  | .applyFreeze handle => Sys2Proof.Machine.execApplyFreeze handle s
  | .ready c m => Sys2Proof.Machine.execReady c m s
  | .journalEntryWrite => Sys2Proof.Machine.execJournalEntryWrite s
  | .checkpointShardWritten c => Sys2Proof.Machine.execCheckpointShardWritten c s
  | .checkpointManifestWrite c => Sys2Proof.Machine.execCheckpointManifestWrite c s
  | .retentionScrub bad retry => Sys2Proof.Machine.execRetentionScrub bad retry s
  | .controlPeriod r => Sys2Proof.Machine.execControlPeriod r s
  | .quadrantPark q => Sys2Proof.Machine.execQuadrantPark q s
  | .deferLimit => Sys2Proof.Machine.execDeferLimit s
  | .meterReading mw => Sys2Proof.Machine.execMeterReading mw s
  | .meterLost => Sys2Proof.Machine.execMeterLost s
  | .vin12Droop mv => Sys2Proof.Machine.execVin12Droop mv s
  | .droopEnd => Sys2Proof.Machine.execDroopEnd s
  | .powerOnReset => Sys2Proof.Machine.execPowerOnReset s
  | .porRelease => Sys2Proof.Machine.execPorRelease s
  | .perst => Sys2Proof.Machine.execPerst s
  | .cxlHotReset => Sys2Proof.Machine.execCxlHotReset s
  | .flr => Sys2Proof.Machine.execFlr s
  | .thermalTrip => Sys2Proof.Machine.execThermalTrip s
  | .refclkLost => Sys2Proof.Machine.execRefclkLost s
  | .refclkStable => Sys2Proof.Machine.execRefclkStable s
  | .pllLocked k => Sys2Proof.Machine.execPllLocked k s
  | .bootImageVerify => Sys2Proof.Machine.execBootImageVerify s
  | .hbmTrainingComplete trained => Sys2Proof.Machine.execHbmTrainingComplete trained s
  | .lpddrTrainingComplete => Sys2Proof.Machine.execLpddrTrainingComplete s
  | .startupCalibration r => Sys2Proof.Machine.execStartupCalibration r s
  | .memoryActive => Sys2Proof.Machine.execMemoryActive s
  | .hdmAccess a => Sys2Proof.Machine.execHdmAccess a s
  | .hdmDecoderCommit dec base size skip ways => Sys2Proof.Machine.execHdmDecoderCommit dec base size skip ways s
  | .birsp line => Sys2Proof.Machine.execBirsp line s
  | .h2dSnoop addr => Sys2Proof.Machine.execH2dSnoop addr s
  | .doeRequest type object => Sys2Proof.Machine.execDoeRequest type object s
  | .ideKmKeyProg stream dir set => Sys2Proof.Machine.execIdeKmKeyProg stream dir set s
  | .keySwitchMarker stream dir => Sys2Proof.Machine.execKeySwitchMarker stream dir s
  | .ideIntegrityFailure stream => Sys2Proof.Machine.execIdeIntegrityFailure stream s
  | .cxlLinkDown => Sys2Proof.Machine.execCxlLinkDown s
  | .markerReceipt => Sys2Proof.Machine.execMarkerReceipt s
  | .readEnergy => Sys2Proof.Machine.execReadEnergy s
  | .signRecord p => Sys2Proof.Machine.execSignRecord p s
  | .readMarkers p => Sys2Proof.Machine.execReadMarkers p s
  | .readLog p => Sys2Proof.Machine.execReadLog p s
  | .readCerts p => Sys2Proof.Machine.execReadCerts p s
  | .fwWrite p => Sys2Proof.Machine.execFwWrite p s
  | .wmFwCommit p => Sys2Proof.Machine.execWmFwCommit p s
  | .calWrite p => Sys2Proof.Machine.execCalWrite p s
  | .meterStart => Sys2Proof.Machine.execMeterStart s
  | .meterPeriodicStore => Sys2Proof.Machine.execMeterPeriodicStore s
  | .meterPowerFail torn => Sys2Proof.Machine.execMeterPowerFail torn s
  | .meterPowerReturn => Sys2Proof.Machine.execMeterPowerReturn s
  | .sealStrapFall => Sys2Proof.Machine.execSealStrapFall s
  | .meterCopyRefresh strap => Sys2Proof.Machine.execMeterCopyRefresh strap s
  | .laneLossOfLock port => Sys2Proof.Machine.execLaneLossOfLock port s
  | .perstDeassert => Sys2Proof.Machine.execPerstDeassert s
  | .cxlLinkTrainingComplete flit256 => Sys2Proof.Machine.execCxlLinkTrainingComplete flit256 s
  | .firmwareRunning => Sys2Proof.Machine.execFirmwareRunning s
  | .diceKeysDerived => Sys2Proof.Machine.execDiceKeysDerived s
  | .markerAckTimeout c seq => Sys2Proof.Machine.execMarkerAckTimeout c seq s
  | .configurationRequest r => Sys2Proof.Machine.execConfigurationRequest r s
  | .committedStateRead src ctx => Sys2Proof.Machine.execCommittedStateRead src ctx s

end Sys2Proof.Machine
end

