-- ==== Sys2Proof/Machine/Tick.lean ====
section
/-! DEFINITION. The passage of time: one tick of PLL 0 (R391, R392), the only clock the model has (log 4). -/

namespace Sys2Proof.Machine

open Sys2Proof

/-- 0.5 % of 1 ns in 2^-32 ns, the bound of the fallback oscillator's error (R392). -/
def maxFallback : Int := 21474836

/-- How far the fallback oscillator's `n`-th tick is from 1 ns, in 2^-32 ns: within 0.5 % (R392, log 6). -/
def fallbackDrift (n : Nat) : Int := max (-maxFallback) (min maxFallback (Config.fallbackError n))

/-- The clocks, the watchdogs and the bounds of R402 one tick on. The local count advances by 1 ns and the time base by 1 ns plus the
rate adjustment. During a REFCLK loss both come from the fallback oscillator (R392, log 6), the watchdogs pause (R399), and the
frequency term alone steers. -/
def Dev.count (d : Dev) : Dev :=
  let drift : Int := if d.clk.degraded then fallbackDrift d.clk.fallback else 0
  let tb : Int := d.clk.tb + 2 ^ 32 + d.clk.rate + drift
  let count : Int := (d.clk.localFrac : Int) + 2 ^ 32 + drift
  let clk := { d.clk with
    localNs := (d.clk.localNs + (count / 2 ^ 32).toNat) % 2 ^ 64
    localFrac := (count % 2 ^ 32).toNat
    tb := (tb % (2 ^ 96 : Nat)).toNat
    fallback := if d.clk.degraded then d.clk.fallback + 1 else d.clk.fallback }
  let ctxs := Vector.ofFn fun c : Fin 16 =>
    let x := d.ctxs[c]
    if !d.clk.refLost && x.watched && d.hasUnit c then { x with watchdogNs := x.watchdogNs + 1 } else x
  ({ d with clk := clk, ctxs := ctxs }).meterTick.countStill

/-- The headgate one tick on: a quadrant with a unit released is not idle yet (R367, R368), and what HG_POWER shows follows the
readings as they age (R370). -/
def Dev.headgateTick (d : Dev) : Dev :=
  let quads := d.hg.quads.mapFinIdx fun q x _ => if d.busy q then { x with releasedAt := d.now } else x
  { d with hg := { d.hg with quads := quads }.judge d.now }

/-- One tick. Commands that have become ready are noted with the time that ends (R371). The reset of a memory controller ends
with the tick when its time is over, and what waited for the controller goes on (R403, log 20). -/
def tick (d : Dev) : Dev :=
  let d := d.noteReady.count.headgateTick
  if d.resetOver then d.endResets.resumeWork else d

end Sys2Proof.Machine
end

