-- ==== Sys2Proof/Machine/RegisterView.lean ====
section
/-! DEFINITION. What a register read returns (R6 to R8, R424), block by block; an offset without a register, a WO and a reserved
field read 0. The table has no row for a read, so no command calls this; it says where the state shows in the registers. -/

namespace Sys2Proof.Machine

open Sys2Proof

/-- `n` fields of `w` bits side by side, the first lowest. -/
def packRow (n w : Nat) (f : Nat → Nat) : Nat := packFields ((List.range n).map fun i => (w * i, f i % 2 ^ w))

/-- One bit for each of `n` places. -/
def packBits (n : Nat) (f : Nat → Bool) : Nat := packRow n 1 fun i => bit (f i)

/-- Bytes 8 n to 8 n + 7 of a digest as a register. -/
def digestWord (bs : List Byte) (n : Nat) : Nat := fieldAt bs (8 * n) 8

/-! ### Contexts and the mailbox -/

/-- The command in a progress slot. -/
def Ctx.inSlot (x : Ctx) (i : Nat) : Option Cmd := x.cmds.find? fun k => k.slot == i

/-- CTX_PROGi_A to _C. -/
def Ctx.readSlot (x : Ctx) (i part : Nat) : Nat :=
  match x.inSlot i with
  | none => 0
  | some k =>
    if part = 0 then packFields [(0, k.entry.seq.toNat), (32, k.entry.opcode), (48, engineOf k.entry.opcode), (51, bit k.spec)]
    else if part = 1 then k.unitsDone
    else if part = 2 then k.total
    else 0

/-- CTX_ registers of context `c` below the progress slots, with their widths. SPECULATING is 1 from the issue of the next step's
STEP_BEGIN on (DEDUCED, log 16). -/
def Dev.readCtxWord (d : Dev) (c : Fin 16) (o : Nat) : Nat × Nat :=
  let x := d.ctx c
  let st := (d.slc c).stepState
  if o = 0x0 then (32, packFields [(0, x.state.code), (3, bit x.holdPending), (4, bit (st == .voted || st == .inDoubt)),
    (5, bit ((x.steps[1]?).any (·.begun))), (6, x.cause)])
  else if o = 0x8 then (32, x.flags)
  else if o = 0xC then (32, x.watchdogMs)
  else if o = 0x10 then (64, packFields [(0, x.ringBase), (44, x.ringLog2)])
  else if o = 0x18 then (64, packFields [(0, x.head.toNat), (32, x.readIdx.toNat)])
  else if o = 0x20 then (32, x.tail.toNat)
  else if o = 0x28 then (64, packFields [(0, x.lastSeq.toNat), (32, x.commitSeq.toNat)])
  else if o = 0x30 then (64, packFields [(0, x.eqBase), (44, x.eqLog2)])
  else if o = 0x38 then (64, packFields [(0, x.eqTail.toNat), (32, x.eqHead.toNat)])
  else if o = 0x40 then (32, packFields [(0, bit x.overflow), (16, x.lost)])
  else if o = 0x44 then (32, bit x.irq)
  else (0, 0)

/-- CTX_ registers of context `c`. -/
def Dev.readCtx (d : Dev) (c : Fin 16) (o : Nat) : Nat × Nat :=
  match regIndex o 0x100 8 128 with
  | some i => if i % 4 = 3 then (0, 0) else (64, (d.ctx c).readSlot (i / 4) (i % 4))
  | none => d.readCtxWord c o

/-- CTX_SUMMARY. -/
def Dev.summary (d : Dev) : Nat :=
  let st := fun i => (d.ctx (Fin.ofNat 16 i)).state
  packBits 16 (fun i => st i == .running) + 2 ^ 16 * packBits 16 fun i => st i == .holding || st i == .faulted

/-- MBX_ registers. -/
def Dev.readMbx (d : Dev) (o : Nat) : Nat × Nat :=
  let m := d.mbx
  if o = 0x0 then (32, packFields [(0, 12), (5, 1)])
  else if o = 0x4 then (32, packFields [(0, bit m.doorbell), (1, bit m.irqEn)])
  else if o = 0x8 then (64, packFields [(0, m.opcode), (16, m.len)])
  else if o = 0x10 then (64, packFields [(32, m.returnCode), (48, m.vendorStatus)])
  else match regIndex o 0x20 8 512, regIndex o 0x2000 8 8 with
    | some i, _ => (64, fieldAt m.payload (8 * i) 8)
    | none, some i =>
      let s := m.slots.toList.getD i {}
      (64, packFields [(0, s.opcode), (16, s.target), (32, s.phase), (40, s.status)])
    | none, none => (0, 0)

/-! ### Engines and memory -/

/-- Generation tags of engines 8 n to 8 n + 7 of a class. -/
def Dev.gens (d : Dev) (cls n : Nat) : Nat := packRow 8 8 fun j => (d.engine cls (8 * n + j)).gen

/-- Service bits of a class. -/
def Dev.serviceMap (d : Dev) (cls : Nat) : Nat := packBits (instances cls) fun i => (d.engine cls i).service

/-- Instances of a class that run a unit. -/
def Dev.busyMap (d : Dev) (cls : Nat) : Nat := packBits (instances cls) fun i => !(d.engine cls i).units.isEmpty

/-- Good arrays of a quadrant. -/
def Dev.goodIn (d : Dev) (q : Nat) : Nat := ((List.range 16).filter fun i => d.goodArray (16 * q + i)).length

/-- MXA_ registers. -/
def Dev.readMxa (d : Dev) (o : Nat) : Nat × Nat :=
  let m := d.mxa
  if o = 0x0 then (32, d.grade)
  else if o = 0x8 then (64, m.testDisabled.toNat)
  else if o = 0x10 then (64, m.retired.toNat)
  else if o = 0x18 then (64, d.serviceMap 1)
  else if o = 0x60 then (32, m.intervalH)
  else if o = 0x68 then
    (64, packFields [(0, m.lastArray), (6, m.lastResult), (8, m.lastCode), (12, bit m.kept), (16, m.lastTime)])
  else if o = 0x90 then (32, m.sat.toNat)
  else match regIndex o 0x20 8 8, regIndex o 0x70 8 4 with
    | some n, _ => (64, d.gens 1 n)
    | none, some n => (64, packRow 16 4 fun j => m.code.toList.getD (16 * n + j) 15)
    | none, none => (0, 0)

/-- VXE_ and CLV_ registers, which have one layout but for their capabilities and the saturation status. -/
def Dev.readSixteen (d : Dev) (cls caps : Nat) (o : Nat) : Nat × Nat :=
  if o = 0x0 then (32, d.busyMap cls)
  else if o = 0x8 then (32, d.serviceMap cls)
  else if o = 0x10 then (64, d.gens cls 0)
  else if o = 0x18 then (64, d.gens cls 1)
  else if o = 0x20 then (32, if cls = 3 then d.vxe.sat.toNat else caps)
  else if o = 0x28 && cls = 3 then (32, caps)
  else (0, 0)

/-- VXE_CAPS and CLV_CAPS. -/
def vxeCaps : Nat := packFields [(0, 512), (10, 16), (15, 8), (19, 20)]
/-- CLV_CAPS. -/
def clvCaps : Nat := packFields [(0, 1024), (11, 16), (16, 16)]

/-- FLM_ registers. -/
def Dev.readFlm (d : Dev) (o : Nat) : Nat × Nat :=
  if o = 0x0 then (32, d.busyMap 2)
  else if o = 0x8 then (32, packRow 4 8 fun f => (d.engine 2 f).gen)
  else if o = 0x10 then (32, packRow 4 8 fun f => d.flm.bwLimit.toList.getD f 16)
  else if o = 0x18 then (32, packFields [(0, 104), (8, d.goodIn 0), (13, d.goodIn 1), (18, d.goodIn 2), (23, d.goodIn 3)])
  else if o = 0x20 then (32, d.serviceMap 2)
  else (0, 0)

/-- RETIRED_PC of a stack: every pseudo-channel of one that failed training, for this start (R446). -/
def Dev.retiredOf (d : Dev) (s : Nat) : Nat :=
  if d.rsv.failedStacks.getLsbD s then 2 ^ 32 - 1 else (d.rsv.retiredPc.toList.getD s 0).toNat

/-- RSV_ registers. -/
def Dev.readRsv (d : Dev) (o : Nat) : Nat × Nat :=
  let r := d.rsv
  if o = 0x0 then (64, packFields [(0, 4096), (13, 16), (18, 12), (22, 32), (28, 4), (31, 32)])
  else if o = 0x8 then (32, packFields [(0, r.arbArray), (4, r.arbVector), (8, r.arbCulvert), (12, r.arbCross)])
  else if o = 0x10 then (32, packFields [(0, r.rsvHours), (8, r.hbmHours), (16, r.lpHours)])
  else if o = 0x18 then (32, d.serviceMap 5)
  else if o = 0x20 then (64, d.gens 5 0)
  else if o = 0x28 then (64, d.gens 5 1)
  else if o = 0x30 then (64, packFields [(0, r.ueAddr), (44, r.ueSource), (48, bit r.ueNew)])
  else if o = 0x38 then (64, packRow 4 16 fun q => (r.spared.filter fun e => e.1 / 1024 == q).length)
  else match regIndex o 0x100 8 12 with
    | some s => (64, packFields [(0, d.retiredOf s), (32, r.windows.toList.getD s 0)])
    | none => (0, 0)

/-- Whether a registered shard of a handle satisfies `p`. -/
def Dev.shardBit (d : Dev) (p : Shard → Bool) (h : Nat) : Bool := (d.shard? h).any p

/-- UPD_ registers. -/
def Dev.readUpd (d : Dev) (o : Nat) : Nat × Nat :=
  let u := d.upd
  if o = 0x0 then (32, packFields [(0, 16), (5, 128), (13, 65536)])
  else if o = 0x8 then (32, packBits 16 fun k => (d.engine 5 k).units.any (·.began))
  else if o = 0x10 then (32, u.limitMs)
  else if o = 0x18 then (64, packFields [(0, u.stallMask), (4, u.stallCtx), (8, bit u.stallNew), (32, u.stallWaitMs)])
  else if o = 0x20 then (32, u.nonfinite.toNat)
  else if o = 0x28 then (32, u.shards.length)
  else match regIndex o 0x1000 8 1024, regIndex o 0x3000 8 1024 with
    | some n, _ => (64, packBits 64 fun j => d.shardBit (fun x => x.live == 1) (64 * n + j))
    | none, some n => (64, packBits 64 fun j => d.shardBit (fun x => x.state == .staged) (64 * n + j))
    | none, none => (0, 0)

/-! ### The sluice, reduction and the fabric -/

/-- SLC_ registers of one context. -/
def Slc.readWord (s : Slc) (o : Nat) : Nat × Nat :=
  if o = 0x0 then
    (64, packFields [(0, s.stepState.code), (3, bit s.outer), (4, bit s.frozen), (5, bit s.deciding), (16, s.attempt.toNat)])
  else if o = 0x8 then (64, s.step.toNat)
  else if o = 0x10 then (64, s.epoch.toNat)
  else if o = 0x18 then (64, packFields [(0, s.count), (17, s.index), (34, bit s.isSet)])
  else if o = 0x20 then (64, s.tag.toNat)
  else if o = 0x28 then (64, s.check.toNat)
  else if o = 0x30 then (32, packFields [(0, s.voteMs), (16, s.queryMs)])
  else if o = 0x38 then (32, packFields [(0, s.ls.s), (6, bit s.ls.warm), (8, s.ls.clean)])
  else if o = 0x40 then (64, packFields [(0, s.abortCause), (8, s.abortStatus), (16, bit s.abortOverflow), (17, bit s.abortNew),
    (32, s.abortBy.toNat)])
  else if o = 0x48 then (64, s.abortStep.toNat)
  else (0, 0)

/-- SLC_ registers. -/
def Dev.readSlc (d : Dev) (o : Nat) : Nat × Nat :=
  if o = 0x0 then (32, packFields [(0, 65568), (17, 16)])
  else match regIndex (o / 0x100 * 0x100) 0x1000 0x100 16, regIndex o 0x10000 8 8192 with
    | some c, _ => (d.slc (Fin.ofNat 16 c)).readWord (o % 0x100)
    | none, some i => (64, packRow 8 8 fun j => lookupD (8 * (i % 512) + j) 0xFF (d.slc (Fin.ofNat 16 (i / 512))).scale)
    | none, none => (0, 0)

/-- RED_SLOTn. -/
def Dev.readJobSlot (d : Dev) (n : Nat) : Nat :=
  match d.red.jobs.find? fun j => j.slot == some n with
  | none => 0
  | some j => packFields [(0, 1), (1, j.ctx.val), (5, j.job), (17, stackOf j.region), (21, bit j.ring), (22, bit j.probe),
      (23, j.exp), (32, j.attempt.toNat)]

/-- RED_ registers. -/
def Dev.readRed (d : Dev) (o : Nat) : Nat × Nat :=
  let r := d.red
  if o = 0x0 then (64, packFields [(0, 12), (4, 64), (11, 4096), (24, 4096), (37, 116)])
  else if o = 0x8 then (32, r.defaultUs)
  else if o = 0x10 then (32, (r.jobs.filter fun j => j.slot.isSome).length)
  else if o = 0x18 then (32, r.sat.toNat)
  else if o = 0x500 then (64, packFields [(0, r.failJob), (12, r.failCtx), (16, r.failPeer), (36, r.failPiece), (52, r.failKind),
    (55, bit r.failNew)])
  else match regIndex o 0x100 8 64, regIndex o 0x400 8 16 with
    | some n, _ => (64, d.readJobSlot n)
    | none, some c => (64, packFields [(0, r.weir.toList.getD c 0), (32, r.weirJob.toList.getD c 0)])
    | none, none => (0, 0)

/-- FAB_PORTn. -/
def Port.readWord (x : Port) : Nat :=
  packFields [(0, x.state.code), (3, bit x.lateral), (4, x.lanesTx), (6, x.lanesRx), (8, x.gen), (16, x.nbrId), (36, x.nbrPort),
    (43, x.nbrInc)]

/-- FAB_PORTn and FAB_PORT_CTRLn. -/
def Dev.readPort (d : Dev) (n : Nat) (ctrl : Bool) : Nat × Nat :=
  let x := d.fab.ports.toList.getD n {}
  if ctrl then (32, packFields [(0, bit x.enable), (1, bit x.lateral), (2, if n = 95 then d.fab.spareFor else 0x7F)])
  else (64, x.readWord)

/-- FAB_ registers. -/
def Dev.readFab (d : Dev) (o : Nat) : Nat × Nat :=
  let f := d.fab
  if o = 0x0 then (32, packFields [(0, 96), (7, 2), (10, 65536)])
  else if o = 0x8 then (32, f.id)
  else if o = 0x10 then (32, packFields [(0, bit f.enable), (1, bit f.canon), (2, bit f.adaptive), (3, bit f.irq), (4, f.basins)])
  else if o = 0x18 then (32, f.inc.toNat)
  else if o = 0x20 then (32, f.reqUs)
  else if o = 0x28 then (32, packRow 4 4 (fun i => f.weights.toList.getD i 1) + f.privShare * 2 ^ 16)
  else if o = 0x30 then (32, packFields [(0, f.entries.length), (17, 1024)])
  else if o = 0x38 then (32, packRow 4 8 fun i => f.gen.toList.getD i 0)
  else match regIndex o 0x40 8 2, regIndex o 0x1000 8 192, regIndex o 0x10000 8 2049 with
    | some n, _, _ => (64, packBits 64 fun j => (f.ports.toList.getD (64 * n + j) {}).changed)
    | none, some i, _ => d.readPort (i / 2) (i % 2 == 1)
    | none, none, some n => (64, lookupD n 0 f.routes)
    | none, none, none => (0, 0)

/-! ### Laterals, turnout, stages and ledger -/

/-- The registers of one lateral. -/
def Lat.readWord (x : Lat) (followed : Bool) (o : Nat) : Nat × Nat :=
  if o = 0x0 then (64, packFields [(0, x.epoch), (8, bit x.remeasuring), (9, bit followed), (10, bit x.routedAround), (32, x.retryGrant)])
  else if o = 0x8 then (64, x.rtt % 2 ^ 48)
  else if o = 0x10 then (64, unsigned 64 x.theta)
  else if o = 0x18 then (64, packFields [(0, unsigned 32 x.fibrePs), (32, unsigned 32 x.measPs)])
  else if o = 0x20 then (64, packFields [(0, bit x.asymLock), (32, unsigned 32 x.fixedPs)])
  else (0, 0)

/-- LAT_ registers. -/
def Dev.readLat (d : Dev) (o : Nat) : Nat × Nat :=
  let l := d.lat
  let sum := fun (f : Lat → Nat) => (l.lats.toList.map f).foldl (· + ·) 0
  if o = 0x0 then (32, packFields [(0, 40), (6, 64), (13, 192)])
  else if o = 0x8 then (64, packFields [(0, l.stepNs), (16, l.holdMs), (32, l.remeasure)])
  else if o = 0x10 then (64, packFields [(0, sum (·.retryGrant)), (18, bit l.retryScaled), (32, sum (·.ingressGrant)),
    (52, bit l.ingressScaled)])
  else match regIndex (o / 0x40 * 0x40) 0x1000 0x40 64, regIndex o 0x2000 8 8 with
    | some n, _ => (l.lats.toList.getD (31 + n) {}).readWord (d.clk.followed == 31 + n) (o % 0x40)
    | none, some s => (64, l.fallback.toList.getD s 0)
    | none, none => (0, 0)

/-- TRN_ registers of one context. -/
def Trn.readWord (t : Trn) (o : Nat) : Nat × Nat :=
  if o = 0x0 then (64, packFields [(0, t.deadlineMs), (16, t.stale), (32, t.lateScale.toNat)])
  else if o = 0x8 then (64, packFields [(0, t.sent.toNat), (32, t.applied.toNat)])
  else if o = 0x10 then (64, packFields [(0, t.missing), (8, t.late), (16, t.dropped), (24, bit t.isNew), (32, t.round)])
  else match regIndex o 0x40 8 8 with
    | some s => (64, packFields [(0, bit (t.enabled.toList.getD s false)), (32, (t.firstRound.toList.getD s 0).toNat)])
    | none => (0, 0)

/-- TRN_ registers. -/
def Dev.readTrn (d : Dev) (o : Nat) : Nat × Nat :=
  if o = 0x0 then (32, packFields [(0, 7), (3, 3), (5, 65536)])
  else match regIndex (o / 0x100 * 0x100) 0x1000 0x100 16 with
    | some c => (d.trn.trns.toList.getD c {}).readWord (o % 0x100)
    | none => (0, 0)

/-- SIP_ registers. -/
def Dev.readSip (d : Dev) (o : Nat) : Nat × Nat :=
  let s := d.sip
  if o = 0x0 then (32, packFields [(0, 0xF), (4, 64)])
  else if o = 0x8 then (64, packFields [(0, s.ctx), (4, s.field), (12, bit s.isNew), (32, s.seq.toNat)])
  else (0, 0)

/-- LDG_ registers. -/
def Dev.readLdg (d : Dev) (o : Nat) : Nat × Nat :=
  let l := d.ldg
  if o = 0x0 then (32, packFields [(0, 65536), (17, 256)])
  else if o = 0x8 then (64, l.next)
  else if o = 0x10 then (64, l.dst)
  else if o = 0x18 then (64, l.first)
  else if o = 0x20 then (32, packFields [(0, l.count), (18, bit l.running.isSome)])
  else if o = 0x28 then (64, packFields [(0, l.copied), (24, l.result)])
  else if o = 0x200 then (32, packFields [(0, l.selLayer), (12, l.selCtx)])
  else if o = 0x208 then (32, lookupD (4096 * l.selCtx + l.selLayer) 0 l.dry)
  else match regIndex o 0x100 8 16 with
    | some c => (32, l.threshold.toList.getD c 256)
    | none => (0, 0)

/-! ### Headgate, clocks, security, the cistern and the meter's copy -/

/-- HG_Qn. -/
def Quad.readWord (q : Quad) : Nat :=
  packFields [(0, q.target), (10, q.actual % 2 ^ 10), (20, q.tj % 2 ^ 8), (28, bit q.parked), (29, bit q.thermal), (30, bit q.held),
    (32, q.current % 2 ^ 16)]

/-- HG_ registers. -/
def Dev.readHg (d : Dev) (o : Nat) : Nat × Nat :=
  let h := d.hg
  if o = 0x0 then (32, packFields [(0, 550), (10, 900), (20, 1800)])
  else if o = 0x8 then (64, packFields [(0, h.watts), (16, h.intervalMs)])
  else if o = 0x10 then (32, packFields [(0, h.vmaxCap), (10, h.maxDeferUs), (26, bit h.parkEn)])
  else if o = 0x18 then (32, h.tjLimit)
  else if o = 0x20 then (32, packFields [(0, h.droopMv), (16, h.droopCount)])
  else if o = 0x60 then (64, packFields [(0, satTo 0xFFF (h.meanInterval d.now / 1000)), (12, satTo 0xFFF (h.meanMs d.now / 1000)),
    (24, bit h.meterLost), (25, bit h.tight), (26, bit h.ceiling), (27, bit (h.quads.any (·.held))),
    (32, satTo 0xFFFFFFFF (h.remainNj d.now / 1000000))])
  else if o = 0x68 then (64, packFields [(0, h.deferrals), (32, h.forced)])
  else match regIndex o 0x40 8 4 with
    | some q => (64, (h.quads.toList.getD q {}).readWord)
    | none => (0, 0)

/-- CLK_ registers. -/
def Dev.readClk (d : Dev) (o : Nat) : Nat × Nat :=
  let k := d.clk
  if o = 0x0 then (32, packFields [(0, 43), (7, 65536), (24, 16)])
  else if o = 0x8 then (64, packFields [(0, bit k.refLost), (1, bit k.refLostSeen), (2, bit k.refStable), (3, bit d.allLocked),
    (4, k.state), (7, bit k.degraded), (8, k.stratum), (12, k.followed), (32, k.lossCount), (48, k.stepCount)])
  else if o = 0x10 then (64, k.pllLock.toNat)
  else if o = 0x18 then (64, d.tbNs)
  else if o = 0x20 then (32, k.frac)
  else if o = 0x28 then (64, d.now)
  else if o = 0x30 then (32, packFields [(0, bit k.master), (1, bit k.stepEn), (2, k.stepNs)])
  else if o = 0x38 then (64, packRow 4 7 fun i => k.src.toList.getD i 0x7F)
  else if o = 0x40 then (64, unsigned 64 k.rate)
  else (0, 0)

/-- SEC_SVN.STAGED: 0x7F when none is staged. -/
def Sec.stagedSvn (x : Sec) : Nat := if x.staged then imgSvn (x.image x.otherSlot) else 0x7F

/-- SEC_IDE. -/
def Link.readIde (l : Link) : Nat :=
  packFields [(0, bit l.ioSecure), (1, bit l.cmSecure), (2, bit l.cmSkid), (3, bit l.ioTx.useSet), (4, bit l.ioRx.useSet),
    (5, bit l.cmTx.useSet), (6, bit l.cmRx.useSet), (7, bit l.ioTx.oldHeld), (8, bit l.ioRx.oldHeld), (9, bit l.cmTx.oldHeld),
    (10, bit l.cmRx.oldHeld), (16, l.ideFails), (32, bit l.failNew)]

/-- SEC_ registers. -/
def Dev.readSec (d : Dev) (o : Nat) : Nat × Nat :=
  let x := d.sec
  let b := d.boot
  if o = 0x0 then (32, packFields [(0, 64), (7, 64), (14, 25), (19, 10)])
  else if o = 0x8 then (64, packFields [(0, b.stage), (4, b.slot), (5, bit b.fallback), (6, x.bootDefault), (8, b.aResult),
    (16, b.bResult), (24, b.rsvStack)])
  else if o = 0x10 then (32, packFields [(0, b.resetCause), (16, b.resetCount)])
  else if o = 0x18 then (32, packFields [(0, x.svnFuses), (8, x.runSvn), (16, x.stagedSvn)])
  else if o = 0x20 then (64, packFields [(0, x.nextLeaf % 2 ^ 25), (32, x.reservedEnd)])
  else if o = 0x28 then (32, packFields [(0, x.epochFuses), (7, bit x.recordLost), (8, x.lmsState)])
  else if o = 0x100 then (64, d.link.readIde)
  else if o = 0x108 then (32, packFields [(0, bit d.link.hbmWindow), (16, d.link.lines.length / 1024)])
  else match regIndex o 0x40 8 6, regIndex o 0x70 8 6, regIndex o 0xA0 8 6 with
    | some n, _, _ => (64, digestWord (sha384 Config.deviceIdPublic) n)
    | none, some n, _ => (64, if x.lmsState = 0 then 0 else digestWord (sha384 Config.deviceHssPublic) n)
    | none, none, some n => (64, if b.keys then digestWord (sha384 (Config.publicKey (aliasKey x.runDigest))) n else 0)
    | none, none, none => (0, 0)

/-- CIS_ registers. -/
def Dev.readCis (d : Dev) (o : Nat) : Nat × Nat :=
  let x := d.cis
  if o = 0x0 then (32, packFields [(0, x.state), (2, x.targets), (8, x.sparePct)])
  else if o = 0x8 then (64, packFields [(0, x.queue.length), (32, x.dropped)])
  else if o = 0x10 then (32, x.days)
  else if o = 0x18 then (64, packFields [(0, x.ueChannel), (2, x.ueTarget), (5, x.ueLun), (7, bit x.ueNew), (8, x.uePage)])
  else match regIndex o 0x100 8 16 with
    | some c => (64, packFields [(0, match x.runs.toList.getD c none with
        | some r => r.phase
        | none => 0), (2, x.keep.toList.getD c 2), (32, x.doneGib.toList.getD c 0)])
    | none => (0, 0)

/-- LINK_OK: a copy has come within the last 300 ms. -/
def Dev.copyFresh (d : Dev) : Bool :=
  match d.meter.copyAt with
  | some t => decide (d.now ≤ t + msNs 300)
  | none => false

/-- WM_ registers. -/
def Dev.readWm (d : Dev) (o : Nat) : Nat × Nat :=
  let m := d.meter
  if o = 0x0 then (32, packFields [(0, 2000), (12, 20), (18, 5)])
  else if o = 0x8 then (64, m.copyMwh)
  else if o = 0x10 then (32, m.copyMeanW)
  else if o = 0x18 then (64, m.copyStatus + bit d.copyFresh)
  else if o = 0x20 then (64, packFields [(0, m.sent), (32, m.dropped)])
  else (0, 0)

/-! ### The BARs -/

/-- The width of the register at a BAR0 offset, and its value; (0, 0) where there is none. -/
def Dev.readBar0 (d : Dev) (off : Nat) : Nat × Nat :=
  let o := off % 0x200000
  match off / 0x200000 with
  | 0 =>
    if o = 0x100000 then (32, d.summary)
    else if o < 0x100000 then d.readCtx (Fin.ofNat 16 (o / 0x10000)) (o % 0x10000)
    else (0, 0)
  | 1 => d.readMbx o
  | 2 => d.readMxa o
  | 3 => d.readSixteen 3 vxeCaps o
  | 4 => d.readFlm o
  | 5 => d.readRsv o
  | 6 => d.readSixteen 4 clvCaps o
  | 7 => d.readUpd o
  | 8 => d.readSlc o
  | 9 => d.readRed o
  | 10 => d.readFab o
  | 11 => d.readLat o
  | 12 => d.readTrn o
  | 13 => d.readSip o
  | 14 => d.readLdg o
  | 15 => d.readHg o
  | 16 => d.readClk o
  | 17 => d.readSec o
  | 18 => d.readCis o
  | 19 => d.readWm o
  | _ => (0, 0)

/-- What a read of `width` bits at a BAR0 offset returns: 0 at another width than the register's (R7). A read of CLK_TB_NS latches
the fraction (R391). -/
def Dev.readReg (d : Dev) (off width : Nat) : Dev × Nat :=
  let (w, v) := d.readBar0 off
  let d := if off = 0x2000018 && width = 64 then { d with clk := { d.clk with frac := d.clk.tb / 2 ^ 16 % 2 ^ 16 } } else d
  (d, if w = width then v % 2 ^ width else 0)

end Sys2Proof.Machine
end

