-- ==== Sys2Proof/Safety.lean ====
section
/-! DEFINITION. What a safe run of the block is (no command ends in a fault or a refusal), and the words that the statements use. -/

namespace Sys2Proof.Machine

open Sys2Proof

/-- A step goes on: it answers a next state. -/
def goesOn (s : State) : Prop := ∃ t, step s = .next t

/-- The mailbox takes a command row: no command runs, the payload fits, and the device's state lets this opcode run (R189, R437,
R445). -/
def takes (d : Dev) (op : Nat) (p : List Byte) : Prop := d.mbx.doorbell = false ∧ p.length ≤ 4096 ∧ d.gate op = .run

/-- The mailbox command has ended with a status and a VENDOR_STATUS (R189). -/
def ended (d : Dev) (status vendor : Nat) : Prop :=
  d.mbx.doorbell = false ∧ d.mbx.returnCode = status ∧ d.mbx.vendorStatus = vendor

/-- Between `d` and `e` a device reset has taken place (R443, R446). -/
def resetFrom (d e : Dev) : Prop :=
  (∀ a, byteAt e.mem.cells a = 0) ∧ e.mem.poison = [] ∧ e.mem.errs = []
    ∧ (∀ c, (e.ctx c).state = .closed ∧ (e.slc c).ls = {} ∧ (e.slc c).scale = [])
    ∧ e.upd.shards = [] ∧ e.ldg.next = 0 ∧ e.ldg.records = []
    ∧ e.clk.state = tbUnset ∧ e.fab.inc ≠ d.fab.inc
    ∧ e.link.decoders = Vector.replicate 2 {} ∧ e.link.up = false ∧ e.link.ioSecure = false ∧ e.link.cmSecure = false
    ∧ e.mxa.retired = d.mxa.retired ∧ e.mxa.testDisabled = d.mxa.testDisabled ∧ e.mxa.marked = d.mxa.marked
    ∧ e.rsv.spared = d.rsv.spared ∧ e.rsv.retiredPc = d.rsv.retiredPc ∧ e.rsv.windows = d.rsv.windows
    ∧ e.sec.svnFuses = d.sec.svnFuses ∧ e.sec.epochFuses = d.sec.epochFuses
    ∧ e.sec.slotA = d.sec.slotA ∧ e.sec.slotB = d.sec.slotB
    ∧ e.cis.ckpts = d.cis.ckpts ∧ e.cis.journal = d.cis.journal ∧ e.cis.jseq = d.cis.jseq
    ∧ e.meter.energyMwh = d.meter.energyMwh ∧ e.meter.residue = d.meter.residue ∧ e.meter.mec = d.meter.mec
    ∧ e.meter.log = d.meter.log ∧ e.meter.markers = d.meter.markers ∧ e.meter.nextLeaf = d.meter.nextLeaf

/-! ### Ring commands -/

/-- Command `k` of context `c` is the one ready command of the block, and no other outstanding command of `c` has its SEQ. -/
def onlyReady (d : Dev) (c : Fin 16) (k : Cmd) : Prop :=
  d.noteReady.readyCmds = [(c, k)] ∧ (d.noteReady.ctx c).cmds.filter (fun q => q.entry.seq == k.entry.seq) = [k]

/-- The block as it judges its one ready command: the headgate has made its choice (R371). -/
def offer (d : Dev) (c : Fin 16) (k : Cmd) : Dev := d.noteReady.deferOthers [(c, k)] (c, k)

/-- The rows of the ring opcodes (R168). -/
def ringRows (c : Fin 16) (seq : W32) : List (Nat × Instr) :=
  [(opNop, .nop c seq), (opMarker, .marker c seq), (opArray, .arrayOp c seq), (opFlume, .flumeOp c seq),
    (opVector, .vectorOp c seq), (opMove, .move c seq), (opStepBegin, .stepBegin c seq), (opStepEnd, .stepEnd c seq),
    (opReduce, .reduce c seq), (opUpdate, .update c seq), (opExport, .shardExport c seq), (opImport, .shardImport c seq),
    (opSave, .siphonSave c seq), (opLoad, .siphonLoad c seq), (opStage, .stageSend c seq), (opOuter, .outerRound c seq)]

/-- Local bytes that work may read at once: no REFCLK loss stalls them, no unit of them is in service, the host holds no line of
them, they lie in no removed window, and none has errors or poison. -/
def quiet (d : Dev) (a n : Nat) : Prop :=
  d.clk.refLost = false ∧ d.removedIn [(a, n)] = false ∧ (unitsOfRanges [(a, n)]).any d.unitInService = false
    ∧ d.linesIn a n = [] ∧ d.mem.marked a n = false

/-- A command's argument block stands where R172 wants it, can be read, and has the length of its opcode (R168). -/
def hasBlock (d : Dev) (k : Cmd) (bs : List Byte) : Prop :=
  let a := fieldAt k.entry.args 0 8
  k.entry.indirect = true ∧ fidOf a = 0 ∧ aligned a 64 = true ∧ 32 ≤ k.entry.argLen ∧ k.entry.argLen ≤ 4128
    ∧ d.slowStatus a k.entry.argLen = stOk ∧ quiet d a k.entry.argLen
    ∧ bs = readCells d.mem.cells a k.entry.argLen ∧ k.entry.argLen = blockLen k.entry.opcode bs

/-- An outstanding command of context `c` has issued with these arguments and units (R167, R183). -/
def issuedAs (d : Dev) (c : Fin 16) (seq : W32) (args : List Byte) (total : Nat) : Prop :=
  ∃ k, (d.ctx c).cmd? seq = some k ∧ k.issued = true ∧ k.args = args ∧ k.total = total ∧ k.did = [] ∧ k.failing = none

/-! ### Units of work -/

/-- No granule of memory has errors, damage or poison. -/
def cleanMemory (d : Dev) : Prop := d.mem.errs = [] ∧ d.mem.hard = [] ∧ d.mem.poison = []

/-- Local ranges that work may use at once: memory is not stalled, they lie in no removed window, no unit of them is in service, the
host holds no line of them. -/
def freeRanges (d : Dev) (rs : List (Nat × Nat)) : Prop :=
  d.clk.refLost = false ∧ d.removedIn rs = false ∧ (unitsOfRanges rs).any d.unitInService = false ∧ ∀ r ∈ rs, d.linesIn r.1 r.2 = []

/-- What the bytes of some ranges of memory are. -/
def viewed (m : Mem) (rs : List (Nat × Nat)) : View := rs.foldl (fun v r => writeCells v r.1 (readCells m.cells r.1 r.2)) []

/-- Memory after byte runs are written in order. -/
def stores (m : Mem) (ws : List (Nat × List Byte)) : Mem := ws.foldl (fun m w => m.store w.1 w.2) m

/-- The running unit `u` of an engine has ended with these writes: `q` is its command afterwards. With units left, memory is as
before but for the writes; with none, the command is complete and LAST_SEQ moves over it (R173, R183), and memory holds the writes
too, with the entries of the events that its end places, if any. -/
def unitEnded (d e : Dev) (cls inst : Nat) (u : UnitRef) (q : Cmd) (ws : List (Nat × List Byte)) : Prop :=
  (e.engine cls inst).units.map (·.idx) = ((d.engine cls inst).units.drop 1).map (·.idx)
    ∧ (q.allDone = false → e.mem = stores d.mem ws ∧ (e.ctx u.ctx).cmd? u.seq = some q
        ∧ (e.ctx u.ctx).lastSeq = (d.ctx u.ctx).lastSeq)
    ∧ (q.allDone = true → (e.ctx u.ctx).cmd? u.seq = none
        ∧ (e.ctx u.ctx).lastSeq = ((d.ctx u.ctx).complete [u.seq]).lastSeq
        ∧ (q.entry.notify = false → (d.ctx u.ctx).holdPending = false → e.mem = stores d.mem ws))

/-- A command goes on as usual: it has issued, and has neither failed nor ended. -/
def goingOn (k : Cmd) : Prop := k.issued = true ∧ k.failing = none ∧ k.ended = none ∧ k.withheld = none

/-! ### Outcomes of an attempt (R247, R248) -/

/-- Between `d` and `e` context `c` has committed its attempt by record `r` (R247): the step is SLC_EPOCH and the next one begins at
attempt 0 with the record's loss scale and table; its STAGED shards are SEEDED with the other slot live. -/
def committedBy (d e : Dev) (c : Fin 16) (r : Record) : Prop :=
  (e.slc c).epoch = r.step ∧ (e.slc c).step = r.step + 1 ∧ (e.slc c).attempt = 0 ∧ (e.slc c).ls = r.ls ∧ (e.slc c).scale = r.table
    ∧ (∀ h x, d.shard? h = some x → x.ctx = c → e.shard? h = some (x.commit r.step))
    ∧ (∀ h x, d.shard? h = some x → x.ctx ≠ c → e.shard? h = some x)
    ∧ ∀ q, q ≠ c → e.slc q = d.slc q

/-- Between `d` and `e` context `c` has aborted its attempt by record `r` (R248): the same step begins another attempt with the
record's loss scale and table; SLC_EPOCH stays, and what was staged is discarded with the live slots as they were. -/
def abortedBy (d e : Dev) (c : Fin 16) (r : Record) : Prop :=
  (e.slc c).epoch = (d.slc c).epoch ∧ (e.slc c).step = (d.slc c).step ∧ (e.slc c).attempt = (d.slc c).attempt + 1
    ∧ (e.slc c).ls = r.ls ∧ (e.slc c).scale = r.table ∧ (e.slc c).abortCause = r.cause
    ∧ (∀ h x, d.shard? h = some x → x.ctx = c → e.shard? h = some x.discard)
    ∧ (∀ h x, d.shard? h = some x → x.ctx ≠ c → e.shard? h = some x)
    ∧ ∀ q, q ≠ c → e.slc q = d.slc q

/-- No work of the next step has run ahead into a failure or a refusal that waits for the commit point (R177). -/
def nothingWithheld (d : Dev) (c : Fin 16) : Prop :=
  (d.slc c).specOverflow = false ∧ (∀ k ∈ (d.ctx c).cmds, k.withheld = none) ∧ (d.ctx c).heldRefusal = none
    ∧ ∀ sp ∈ (d.ctx c).steps, sp.refused = none

/-- A member that may apply a commit has voted ready (R246). -/
def votedReady (d : Dev) (c : Fin 16) : Prop := (d.slc c).stepState = .voted ∨ (d.slc c).stepState = .inDoubt

end Sys2Proof.Machine
end

