-- ==== Sys2Proof/Certificates/Slice0/Obligations.lean ====
section
/-! DEFINITION. The statements for the provers. A statement that some command completes has `exec i s = .next { s with dev := d }`
as its conclusion: the queue is as before, and `d` is the block after the command. Where `d` is written as a record update of
`s.dev`, everything the update does not name is unchanged, memory included. -/

open Sys2Proof Sys2Proof.Machine

/-! ### The machine as a whole -/

/-- A step takes the command at the front of the queue and is that command's effect with the rest of the queue. -/
def Obligations.StepRunsTheFrontCommand : Prop :=
  ∀ (c : Instr) (q : List Instr) (s : State), s.pending = c :: q → step s = exec c { s with pending := q }

/-- On an empty queue a step is one tick of 1 ns (the model's choice, log 4), with a free error of at most 0.5 % while the counts
run on the fallback oscillator (R392): the local count and the time base advance alike, but for the rate adjustment (R391);
watchdogs count unless REFCLK is lost (R389, R399); ready commands are noted (R371), and neither memory nor any register of
another unit changes. That holds where no reset of a memory controller is about to end (R403). -/
def Obligations.AnEmptyQueueIsOneTick : Prop :=
  ∀ s : State, s.pending = [] → (∀ k : Fin 16, (s.dev.ctl.engines[k]).resetEnds = none) →
    ∃ d : Dev, step s = .next { s with dev := d }
    ∧ d = { s.dev with
        clk := d.clk, ctxs := d.ctxs, meter := d.meter, out := d.out, hg := d.hg
        mxa := d.mxa, flm := d.flm, vxe := d.vxe, clv := d.clv, ctl := d.ctl }
    ∧ d.clk = { s.dev.clk with
        tb := d.clk.tb, localNs := d.clk.localNs, localFrac := d.clk.localFrac, fallback := d.clk.fallback }
    ∧ (∃ e : Int, -21474836 ≤ e ∧ e ≤ 21474836 ∧ (s.dev.clk.degraded = false → e = 0)
        ∧ (d.clk.tb : Int) = ((s.dev.clk.tb : Int) + 2 ^ 32 + s.dev.clk.rate + e) % 2 ^ 96
        ∧ ((d.clk.localNs * 2 ^ 32 + d.clk.localFrac : Nat) : Int)
            = (((s.dev.clk.localNs * 2 ^ 32 + s.dev.clk.localFrac : Nat) : Int) + 2 ^ 32 + e) % 2 ^ 96)
    ∧ (∀ c, d.ctx c = { s.dev.ctx c with watchdogNs := (d.ctx c).watchdogNs, cmds := (d.ctx c).cmds }
        ∧ (d.ctx c).cmds.map (fun k => { k with readyAt := none }) = (s.dev.ctx c).cmds.map fun k => { k with readyAt := none })
    ∧ (∀ c, (d.ctx c).watchdogNs =
        if s.dev.clk.refLost = false ∧ (s.dev.ctx c).watched = true ∧ s.dev.hasUnit c = true
        then (s.dev.ctx c).watchdogNs + 1 else (s.dev.ctx c).watchdogNs)
    ∧ (∀ cls inst, (d.engine cls inst).units.map (fun u => { u with still := 0 })
        = (s.dev.engine cls inst).units.map fun u => { u with still := 0 })
    ∧ (∀ q : Fin 4, d.hg.quads[q] = { s.dev.hg.quads[q] with releasedAt := (d.hg.quads[q]).releasedAt })

/-- Every command of the table completes in every state: the block neither faults nor refuses, and a command touches the queue of
waiting commands nowhere. -/
def Obligations.EveryCommandCompletes : Prop :=
  ∀ (i : Instr) (s : State), ∃ d : Dev, exec i s = .next { s with dev := d }

/-- Every step, from every state whose memory is in its canonical form, leaves it in that form: addresses strictly rising and no
byte listed that an unlisted address already reads as. -/
def Obligations.EveryStepKeepsTheMemoryCanonical : Prop :=
  ∀ s t : State, memWf s.dev.mem.cells = true → step s = .next t → memWf t.dev.mem.cells = true

/-- The memory after reset is in its canonical form, and every byte reads 0 (R443). -/
def Obligations.ResetMemoryIsCanonical : Prop :=
  memWf State.reset.dev.mem.cells = true ∧ ∀ a, byteAt State.reset.dev.mem.cells a = 0

/-- Fuses stay blown (R3, R57, R145, R146, R435, R443): whatever command runs, an array or a pseudo-channel that is retired stays
retired, a removed window stays removed, and the counts of security-version and leaf-epoch fuses do not fall. -/
def Obligations.FusesStayBlown : Prop :=
  ∀ (s t : State), step s = .next t →
    (∀ a : Fin 64, s.dev.mxa.retired.getLsbD a.val = true → t.dev.mxa.retired.getLsbD a.val = true)
    ∧ t.dev.mxa.testDisabled = s.dev.mxa.testDisabled ∧ t.dev.mxa.marked = s.dev.mxa.marked
    ∧ (∀ (st : Fin 12) (pc : Fin 32), s.dev.rsv.retiredPc[st].getLsbD pc.val = true → t.dev.rsv.retiredPc[st].getLsbD pc.val = true)
    ∧ (∀ st : Fin 12, s.dev.rsv.windows[st] ≤ t.dev.rsv.windows[st])
    ∧ s.dev.sec.svnFuses ≤ t.dev.sec.svnFuses ∧ s.dev.sec.epochFuses ≤ t.dev.sec.epochFuses

/-! ### Resets and start-up (chapters 14 and 16) -/

/-- PERST# asserted and CXL hot reset are device resets (R443): memory is zero, contexts are CLOSED, no shard is registered, the
ledger is empty, scales are as new, the time base is UNSET, the incarnation is another, HDM decoders, IDE keys and the link
are gone; fuses, flash and the meter's record stay. SEC_RESET_CAUSE tells which it was (R448). Completes: perst, cxlHotReset.
VIN12 below the falling threshold (R443, R484) and a thermal trip (R490) take every domain down but the watermaster's; a trip
asserts THERMTRIP# and is latched, so that a rise of VIN12 does not release the reset until VIN12 has fallen. A release starts
the count of REFCLK's edges (R385). Completes: powerOnReset, thermalTrip, porRelease. A Function Level Reset closes every
context (R443) and leaves HDM decoders, IDE, the fabric's identity and routes, fuses and the flash as they are. Completes:
flr. -/
def Obligations.ResetsClearWhatTheyMust : Prop :=
  (
    ∀ s : State, s.dev.boot.por = true →
      (∃ d : Dev, exec .perst s = .next { s with dev := d } ∧ resetFrom s.dev d ∧ d.boot.resetCause = 1 ∧ d.boot.perst = true)
      ∧ (∃ d : Dev, exec .cxlHotReset s = .next { s with dev := d } ∧ resetFrom s.dev d ∧ d.boot.resetCause = 2
          ∧ d.boot.perst = s.dev.boot.perst))
  ∧ (
    ∀ s : State,
      (∃ d : Dev, exec .powerOnReset s = .next { s with dev := d }
        ∧ d.boot.por = false ∧ d.boot.thermLatch = false ∧ d.boot.resetCount = 0 ∧ d.boot.resetCause = 0
        ∧ (∀ a, byteAt d.mem.cells a = 0) ∧ (∀ c, (d.ctx c).state = .closed) ∧ d.clk.pllLock = 0
        ∧ d.meter.energyMwh = s.dev.meter.energyMwh ∧ d.mxa.retired = s.dev.mxa.retired)
      ∧ (∃ d : Dev, exec .thermalTrip s = .next { s with dev := d }
        ∧ d.boot.por = false ∧ d.boot.thermLatch = true ∧ d.out = s.dev.out ++ [.thermtrip]
        ∧ (∀ a, byteAt d.mem.cells a = 0) ∧ (∀ c, (d.ctx c).state = .closed)
        ∧ d.meter.energyMwh = s.dev.meter.energyMwh ∧ d.mxa.retired = s.dev.mxa.retired)
      ∧ (s.dev.boot.thermLatch = true → exec .porRelease s = .next s)
      ∧ (s.dev.boot.por = true → exec .porRelease s = .next s)
      ∧ (s.dev.boot.thermLatch = false → s.dev.boot.por = false → exec .porRelease s = .next { s with dev := { s.dev with
          boot := { s.dev.boot with por := true }, clk := { s.dev.clk with refAt := s.dev.now } } }))
  ∧ (
    ∀ s : State, ∃ d : Dev, exec .flr s = .next { s with dev := d }
      ∧ (∀ c, (d.ctx c).state = .closed)
      ∧ d.link = s.dev.link ∧ d.fab.id = s.dev.fab.id ∧ d.fab.routes = s.dev.fab.routes
      ∧ d.mxa.retired = s.dev.mxa.retired ∧ d.sec = s.dev.sec ∧ d.boot = s.dev.boot)

/-- The rows of start-up after the image (R444): each sets its own event, once, and only after the events it depends on, and waits
while REFCLK is lost (R446). Completes: firmwareRunning, lpddrTrainingComplete, memoryActive, diceKeysDerived. HBM3E training
(R444 K, R446, R447): with a stack trained the reserved range is in the lowest one, and stacks that failed are out for this
start; with none start-up ends before Memory Active. Completes: hbmTrainingComplete. STARTUP_CALIBRATION (R444 L, R59): the
arrays' row of start-up is done, the next periodic re-calibration is counted from here, no generation tag changes, and vector
engines and culverts run the microcode of the running image. Completes: startupCalibration. BOOT_IMAGE_VERIFY (R437): the
boot-default slot is verified; if it fails the other one, which sets FALLBACK; if both fail the device enters recovery. The
results stand in SEC_BOOT. Completes: bootImageVerify. -/
def Obligations.StartUpRowsWaitForTheirDependencies : Prop :=
  (
    ∀ s : State,
      (s.dev.boot.imageOk = true → s.dev.boot.firmware = false → s.dev.clk.refLost = false →
        exec .firmwareRunning s = .next { s with
          dev := ({ s.dev with boot := { s.dev.boot with firmware := true, stage := 3 } }).takeCommand })
      ∧ (s.dev.boot.imageOk = false → exec .firmwareRunning s = .next s)
      ∧ (s.dev.boot.firmware = true → s.dev.boot.lpddr = false → s.dev.clk.refLost = false →
        exec .lpddrTrainingComplete s = .next { s with dev := { s.dev with boot := { s.dev.boot with lpddr := true } } })
      ∧ (s.dev.boot.keys = true → s.dev.boot.hbm = true → s.dev.boot.arrays = true → s.dev.boot.lpddr = true →
        s.dev.boot.active = false → s.dev.clk.refLost = false →
        exec .memoryActive s = .next { s with dev := { s.dev with boot := { s.dev.boot with active := true, stage := 4 } } })
      ∧ ((s.dev.boot.keys && s.dev.boot.hbm && s.dev.boot.arrays && s.dev.boot.lpddr) = false →
        exec .memoryActive s = .next s)
      ∧ (s.dev.boot.firmware = true → s.dev.boot.keys = false → s.dev.clk.refLost = false →
        ∃ sec : Sec, exec .diceKeysDerived s = .next { s with
          dev := { s.dev with sec := sec, boot := { s.dev.boot with keys := true } } }
          ∧ s.dev.sec.epochFuses ≤ sec.epochFuses ∧ sec.svnFuses = s.dev.sec.svnFuses)
      ∧ (s.dev.boot.firmware = false → ∀ t r, exec .lpddrTrainingComplete s = .next s ∧ exec .diceKeysDerived s = .next s
        ∧ exec (.hbmTrainingComplete t) s = .next s ∧ exec (.startupCalibration r) s = .next s))
  ∧ (
    ∀ (s : State) (trained : BitVec 12), s.dev.boot.firmware = true → s.dev.boot.hbm = false → s.dev.boot.noStack = false →
      s.dev.clk.refLost = false →
      ∃ d : Dev, exec (.hbmTrainingComplete trained) s = .next { s with dev := d }
        ∧ d = { s.dev with rsv := d.rsv, boot := d.boot }
        ∧ d.rsv = { s.dev.rsv with failedStacks := ~~~trained, softRepairs := [] }
        ∧ (trained = 0 → d.boot = { s.dev.boot with noStack := true })
        ∧ (∀ k : Fin 12, trained.getLsbD k = true → (∀ j < k.val, trained.getLsbD j = false) →
            d.boot = { s.dev.boot with hbm := true, rsvStack := k.val } ∧ d.reservedBase = 0x10000000000 + k.val * 0x900000000))
  ∧ (
    ∀ (s : State) (r : Vector CalResult 64), s.dev.boot.firmware = true → s.dev.boot.arrays = false →
      s.dev.clk.refLost = false →
      ∃ d : Dev, exec (.startupCalibration r) s = .next { s with dev := d }
        ∧ d.boot.arrays = true ∧ d.mxa.turnAt = s.dev.now
        ∧ (∀ a : Fin 64, s.dev.goodArray a = true → (d.mxa.arrays[a]).gen = (s.dev.mxa.arrays[a]).gen)
        ∧ (∀ e : Fin 16, (d.vxe.engines[e]).ucode = s.dev.sec.runVersion ∧ (d.clv.engines[e]).ucode = s.dev.sec.runVersion))
  ∧ (
    ∀ s : State, s.dev.boot.por = true → s.dev.allLocked = true → s.dev.clk.refLost = false → s.dev.boot.imageOk = false →
      s.dev.boot.recovery = false → s.dev.mbx.doorbell = false →
      let a := s.dev.sec.bootDefault
      let first := s.dev.verify (s.dev.sec.image a)
      let second := s.dev.verify (s.dev.sec.image (1 - a))
      ∃ d : Dev, exec .bootImageVerify s = .next { s with dev := d }
        ∧ (first = stOk → d.boot.imageOk = true ∧ d.boot.slot = a ∧ d.boot.fallback = false ∧ d.boot.recovery = false)
        ∧ (first ≠ stOk → second = stOk → d.boot.imageOk = true ∧ d.boot.slot = 1 - a ∧ d.boot.fallback = true)
        ∧ (first ≠ stOk → second ≠ stOk → d.boot.recovery = true ∧ d.boot.imageOk = false ∧ d.boot.stage = 15)
        ∧ d.mem = s.dev.mem ∧ d.ctxs = s.dev.ctxs ∧ d.fab = s.dev.fab)

/-- REFCLK_STABLE (R385): REFCLK is judged stable once 655.36 µs have passed since the release of the reset or the last flagged
loss, not before, and the PLLs start. PLL_LOCKED (R386): a PLL is judged locked 163.84 µs after its own start on a stable
REFCLK, not before; with the last of them start-up goes on, and a loss of REFCLK ends (R390). Completes: refclkStable,
pllLocked. REFCLK_LOST (R389): every bit of CLK_PLL_LOCK clears, REF_LOST and REF_LOST_SEEN are set, LOSS_COUNT increments,
ports that were in use are DOWN, the CXL link is down, the time base is in holdover (an UNSET one stays UNSET); memory on the
device is not lost. The count of REFCLK's edges starts anew (R385). Completes: refclkLost. PERST_DEASSERT and
CXL_LINK_TRAINING_COMPLETE (R422, R444 E): with the PLLs locked the link begins to train, and it comes up as CXL only in
256-byte flit mode. Completes: perstDeassert, cxlLinkTrainingComplete. -/
def Obligations.ClocksAndTheHostLinkComeUp : Prop :=
  (
    ∀ (s : State) (k : Fin 43),
      (s.dev.clk.refStable = true → s.dev.clk.pllLock.getLsbD k = false → s.dev.clk.pllAt[k] + 163840 ≤ s.dev.clk.localNs →
        s.dev.clk.refLost = false →
        ∃ d : Dev, exec (.pllLocked k) s = .next { s with dev := d }
          ∧ d = { s.dev with
              clk := { s.dev.clk with pllLock := s.dev.clk.pllLock ||| (1#43 <<< k.val) }
              boot := { s.dev.boot with stage := d.boot.stage }, link := { s.dev.link with training := d.link.training } }
          ∧ (s.dev.boot.stage = 0 → s.dev.clk.pllLock ||| (1#43 <<< k.val) = BitVec.allOnes 43 →
              d.boot.stage = 1 ∧ d.link.training = !s.dev.boot.perst)
          ∧ (s.dev.boot.stage ≠ 0 → d.boot.stage = s.dev.boot.stage ∧ d.link.training = s.dev.link.training))
      ∧ (s.dev.clk.refStable = true → s.dev.clk.pllLock.getLsbD k = false → s.dev.clk.pllAt[k] + 163840 ≤ s.dev.clk.localNs →
        s.dev.clk.refLost = true → s.dev.clk.pllLock ||| (1#43 <<< k.val) = BitVec.allOnes 43 →
        ∃ d : Dev, exec (.pllLocked k) s = .next { s with dev := d } ∧ d.clk.refLost = false)
      ∧ (s.dev.clk.localNs < s.dev.clk.pllAt[k] + 163840 → exec (.pllLocked k) s = .next s)
      ∧ (s.dev.boot.por = true → s.dev.clk.refStable = false → s.dev.clk.refAt + 655360 ≤ s.dev.clk.localNs →
        exec .refclkStable s = .next { s with dev := { s.dev with
          clk := { s.dev.clk with refStable := true, pllAt := Vector.replicate 43 s.dev.clk.localNs } } })
      ∧ (s.dev.clk.localNs < s.dev.clk.refAt + 655360 → exec .refclkStable s = .next s))
  ∧ (
    ∀ s : State, s.dev.boot.por = true →
      ∃ d : Dev, exec .refclkLost s = .next { s with dev := d }
        ∧ d.clk.refStable = false ∧ d.clk.refAt = s.dev.now ∧ d.clk.pllLock = 0 ∧ d.clk.refLost = true ∧ d.clk.refLostSeen = true
        ∧ d.clk.lossCount = satTo 0xFFFF (s.dev.clk.lossCount + 1)
        ∧ d.clk.state = (if s.dev.clk.state = tbUnset then tbUnset else tbHoldover) ∧ d.clk.tb = s.dev.clk.tb
        ∧ (∀ p : Fin 96, (d.fab.ports[p]).state = .disabled ∨ (d.fab.ports[p]).state = .down)
        ∧ d.link.up = false ∧ d.link.cxl = false
        ∧ d.mem = s.dev.mem)
  ∧ (
    ∀ s : State,
      exec .perstDeassert s = .next { s with dev := { s.dev with
          boot := { s.dev.boot with perst := false }
          link := { s.dev.link with training := s.dev.link.training || (s.dev.boot.perst && s.dev.linkClock) } } }
      ∧ (∀ f, s.dev.link.training = true → exec (.cxlLinkTrainingComplete f) s = .next { s with dev := { s.dev with
          link := { s.dev.link with training := false, up := true, cxl := f } } })
      ∧ (∀ f, s.dev.link.training = false → exec (.cxlLinkTrainingComplete f) s = .next s))

/-! ### Headgate and watermaster (chapters 13 and 18) -/

/-- ALLOT_SET (R362, R364, R378): an allotment in range waits for the next control period and leaves the one in force; one outside
is refused with BAD_ARG and changes nothing of the headgate. ALLOT_GET reports and changes nothing of it. Completes: allotSet,
allotGet. CONTROL_PERIOD, once in 100 µs (R364, R366, R374, R375): a waiting allotment comes into force; in a droop every
target is 0.55 V unless heat limits it; a quadrant at or above TJ_LIMIT has its target lowered by 25 mV, not below 0.55 V, and
is limited; one from 2 °C below it on does not have it raised; sensors show in the quadrants. It changes no memory but the
event queues, and no unit (R372). Completes: controlPeriod. The power supply and parking (R368, R375): a reading below the
threshold sets every target to 0.55 V at once and counts one droop, a further one only notes the lowest; one at or above it
changes nothing; the droop ends after 1 ms without one. A quadrant that has had no unit released for 20 µs is parked.
Completes: vin12Droop, droopEnd, quadrantPark. -/
def Obligations.TheHeadgateSteersTheQuadrants : Prop :=
  (
    ∀ (s : State) (p : List Byte),
      (takes s.dev 0xC100 p → ∃ d : Dev, exec (.allotSet p) s = .next { s with dev := d }
        ∧ d = { s.dev with mbx := d.mbx, hg := d.hg, out := d.out } ∧ d.mbx.doorbell = false
        ∧ (zeroAt p 2 2 = true → 600 ≤ fieldAt p 0 2 → fieldAt p 0 2 ≤ 1800 → 10 ≤ fieldAt p 4 4 → fieldAt p 4 4 ≤ 60000 →
            d.mbx.returnCode = stOk ∧ d.hg = { s.dev.hg with pending := some (fieldAt p 0 2, fieldAt p 4 4) })
        ∧ (fieldAt p 0 2 < 600 ∨ 1800 < fieldAt p 0 2 ∨ fieldAt p 4 4 < 10 ∨ 60000 < fieldAt p 4 4 →
            d.mbx.returnCode = stBadArg ∧ d.hg = s.dev.hg))
      ∧ (takes s.dev 0xC101 p → ∃ d : Dev, exec (.allotGet p) s = .next { s with dev := d }
        ∧ d = { s.dev with mbx := d.mbx, out := d.out } ∧ d.mbx.returnCode = stOk
        ∧ fieldAt d.mbx.payload 0 2 = s.dev.hg.watts % 65536 ∧ fieldAt d.mbx.payload 4 4 = s.dev.hg.intervalMs % 2 ^ 32))
  ∧ (
    ∀ (s : State) (r : Sensors),
      (∀ t, s.dev.hg.periodAt = some t → s.dev.now < t + 100000 → exec (.controlPeriod r) s = .next s)
      ∧ ((∀ t, s.dev.hg.periodAt = some t → t + 100000 ≤ s.dev.now) → ∃ d : Dev, exec (.controlPeriod r) s = .next { s with dev := d }
      ∧ d.hg.periodAt = some s.dev.now
      ∧ d = { s.dev with hg := d.hg, mem := d.mem, ctxs := d.ctxs, clk := d.clk, out := d.out, free := d.free }
      ∧ d.hg.pending = none
      ∧ (∀ a, s.dev.hg.pending = some a → d.hg.watts = a.1 ∧ d.hg.intervalMs = a.2)
      ∧ (s.dev.hg.pending = none → d.hg.watts = s.dev.hg.watts ∧ d.hg.intervalMs = s.dev.hg.intervalMs)
      ∧ (∀ q : Fin 4, (d.hg.quads[q]).actual = r.actualMv[q] ∧ (d.hg.quads[q]).tj = r.tj[q] ∧ (d.hg.quads[q]).current = r.current[q])
      ∧ (∀ q : Fin 4, s.dev.hg.tjLimit ≤ r.tj[q] →
          (d.hg.quads[q]).thermal = true ∧ 550 ≤ (d.hg.quads[q]).target
            ∧ (d.hg.quads[q]).target ≤ max 550 ((s.dev.hg.quads[q]).target - 25))
      ∧ (∀ q : Fin 4, r.tj[q] < s.dev.hg.tjLimit → s.dev.hg.tjLimit ≤ r.tj[q] + 2 →
          (d.hg.quads[q]).target ≤ (s.dev.hg.quads[q]).target)
      ∧ (∀ q : Fin 4, r.tj[q] + 2 < s.dev.hg.tjLimit → (d.hg.quads[q]).thermal = false
          ∧ (s.dev.hg.inDroop = true → (d.hg.quads[q]).target = 550))
      ∧ (∀ q : Fin 4, (d.hg.quads[q]).held = true → (d.hg.quads[q]).target = 550)))
  ∧ (
    ∀ (s : State),
      (∀ mv, mv < s.dev.hg.droopMv → s.dev.hg.inDroop = false → ∃ d : Dev, exec (.vin12Droop mv) s = .next { s with dev := d }
        ∧ d = { s.dev with hg := d.hg } ∧ d.hg.inDroop = true ∧ d.hg.droopLow = mv
        ∧ d.hg.droopCount = satTo 0xFFFF (s.dev.hg.droopCount + 1) ∧ (∀ q : Fin 4, (d.hg.quads[q]).target = 550))
      ∧ (∀ mv, mv < s.dev.hg.droopMv → s.dev.hg.inDroop = true → exec (.vin12Droop mv) s = .next { s with dev := { s.dev with
          hg := { s.dev.hg with droopLow := min s.dev.hg.droopLow mv, droopSince := s.dev.now } } })
      ∧ (∀ mv, s.dev.hg.droopMv ≤ mv → exec (.vin12Droop mv) s = .next s)
      ∧ (s.dev.hg.inDroop = true → s.dev.hg.droopSince + 1000000 ≤ s.dev.now →
        ∃ d : Dev, exec .droopEnd s = .next { s with dev := d } ∧ d.hg.inDroop = false ∧ d.hg.quads = s.dev.hg.quads)
      ∧ (s.dev.now < s.dev.hg.droopSince + 1000000 → exec .droopEnd s = .next s)
      ∧ (∀ q : Fin 4, s.dev.hg.parkEn = true → s.dev.busy q.val = false → (s.dev.hg.quads[q]).releasedAt + 20000 ≤ s.dev.now →
        ∃ d : Dev, exec (.quadrantPark q) s = .next { s with dev := d } ∧ d = { s.dev with hg := { s.dev.hg with quads := d.hg.quads } }
          ∧ (d.hg.quads[q]).parked = true ∧ (d.hg.quads[q]).target = 550
          ∧ ∀ r : Fin 4, r ≠ q → d.hg.quads[r] = s.dev.hg.quads[r])
      ∧ (∀ q : Fin 4, s.dev.busy q.val = true → exec (.quadrantPark q) s = .next s))

/-- Readings (R377, R463, R464): a reading reaches the headgate and ends METER_LOST; the meter registers it, 100 nJ for each mW,
unless it is below 2 W, and the cumulative register never falls; a meter without power or in its restart sends none. After 10
ms without one METER_LOST is set. Readings come once in 100 µs. Completes: meterReading, meterLost. Stores and power of the
meter (R463, R471, R474, R475, R485): the periodic store keeps register and residue; a loss of VIN12 stores them, or a torn
store leaves the one before and a gap; each return is one more power cycle; at a start fuses rise to the running image's SVN,
and the register never falls. Completes: meterPeriodicStore, meterPowerFail, meterPowerReturn, meterStart. -/
def Obligations.TheMeterRegistersItsReadings : Prop :=
  (
    ∀ (s : State) (mw : Nat),
      (s.dev.meter.powered = true → s.dev.meter.answering = true → (∀ t, s.dev.hg.meterAt = some t → t + 100000 ≤ s.dev.now) →
        ∃ d : Dev, exec (.meterReading mw) s = .next { s with dev := d }
          ∧ d.hg.readings.head? = some (s.dev.now, mw) ∧ d.hg.readingAt = s.dev.now ∧ d.hg.meterLost = false
          ∧ (mw < 2000 → d.meter.energyMwh = s.dev.meter.energyMwh ∧ d.meter.residue = s.dev.meter.residue)
          ∧ (2000 ≤ mw → d.meter.energyMwh * 36000000 + d.meter.residue
              = s.dev.meter.energyMwh * 36000000 + s.dev.meter.residue + mw ∧ d.meter.residue < 36000000)
          ∧ (mw < 20000 ∨ 2000000 < mw → d.meter.rangeFlag = true))
      ∧ ((s.dev.meter.powered && s.dev.meter.answering) = false → exec (.meterReading mw) s = .next s)
      ∧ (∀ t, s.dev.hg.meterAt = some t → s.dev.now < t + 100000 → exec (.meterReading mw) s = .next s)
      ∧ (s.dev.hg.meterLost = false → s.dev.hg.readingAt + 10000000 ≤ s.dev.now →
        ∃ d : Dev, exec .meterLost s = .next { s with dev := d }
          ∧ d.hg = { s.dev.hg with meterLost := true, eventAt := d.hg.eventAt } ∧ d.meter = s.dev.meter)
      ∧ (s.dev.now < s.dev.hg.readingAt + 10000000 → exec .meterLost s = .next s))
  ∧ (
    ∀ s : State,
      (s.dev.meter.powered = true → s.dev.meter.storedAt + 1000000000 ≤ s.dev.meter.opNs →
        exec .meterPeriodicStore s = .next { s with dev := { s.dev with meter := { s.dev.meter with
          storedEnergy := s.dev.meter.energyMwh, storedResidue := s.dev.meter.residue, storedAt := s.dev.meter.opNs } } })
      ∧ (s.dev.meter.opNs < s.dev.meter.storedAt + 1000000000 → exec .meterPeriodicStore s = .next s)
      ∧ (s.dev.meter.powered = true → ∀ torn, ∃ d : Dev, exec (.meterPowerFail torn) s = .next { s with dev := d }
        ∧ d = { s.dev with meter := d.meter } ∧ d.meter.powered = false ∧ d.meter.markers = [] ∧ d.meter.mec = s.dev.meter.mec
        ∧ d.meter.fwVersion = s.dev.meter.fwVersion ∧ d.meter.nextLeaf = s.dev.meter.leafEnd
        ∧ (torn = false → d.meter.storedEnergy = s.dev.meter.energyMwh ∧ d.meter.energyMwh = s.dev.meter.energyMwh)
        ∧ (torn = true → d.meter.energyMwh = s.dev.meter.storedEnergy ∧ d.meter.gapFlag = true
            ∧ d.meter.gaps = satTo 0xFFF (s.dev.meter.gaps + 1)))
      ∧ (s.dev.meter.powered = false → exec .meterPowerReturn s = .next { s with dev := { s.dev with meter := { s.dev.meter with
          powered := true, powerCycles := (s.dev.meter.powerCycles + 1) % 2 ^ 32 } } })
      ∧ (s.dev.meter.powered = true → exec .meterPowerReturn s = .next s)
      ∧ (s.dev.meter.powered = true → s.dev.meter.answering = false → ∃ d : Dev, exec .meterStart s = .next { s with dev := d }
        ∧ d = { s.dev with meter := d.meter, free := s.dev.free + 1 } ∧ d.meter.answering = true
        ∧ d.meter.svnFuses = max s.dev.meter.svnFuses s.dev.meter.runSvn ∧ s.dev.meter.energyMwh ≤ d.meter.energyMwh))

/-- Reading commands of the I3C port (R466, R478): with power and running firmware the meter answers OK with the response of the
command or BAD_ARG for an argument out of range, and nothing of it changes; without them it does not acknowledge. Completes:
readEnergy, readMarkers, readLog, readCerts. SEAL_STRAP (R468, R470): a command that changes firmware or calibration ends with
SEALED and has no effect while the meter is SEALED; when the strap falls an image whose boot marker is not written is
discarded and its commit ends with SEALED. Completes: sealStrapFall. Calibration and firmware of an UNSEALED meter (R469,
R470, R478): CAL_WRITE replaces the set, MEC and the log rise together by one entry that carries the new MEC; a full log ends
it with NO_RESOURCE; FW_WRITE fills the staging buffer and is BAD_ARG beyond 512 KiB; FW_COMMIT of an image that does not pass
its checks changes nothing, and one that passes waits for its boot marker with the old image running and MEC unchanged.
Completes: calWrite, fwWrite, wmFwCommit. -/
def Obligations.MeterCommandsObeyTheSeal : Prop :=
  (
    ∀ (s : State) (p : List Byte),
      (s.dev.meter.powered = true → s.dev.meter.answering = true →
        exec .readEnergy s = .next { s with dev := s.dev.emit (.i3c stOk
          (toLe 8 s.dev.meter.energyMwh ++ toLe 4 s.dev.meter.mec ++ toLe 8 (s.dev.meter.opNs / 1000000000)
            ++ toLe 1 (if s.dev.meter.strap then 1 else 0))) }
        ∧ (∃ st bs, exec (.readMarkers p) s = .next { s with dev := s.dev.emit (.i3c st bs) }
            ∧ (st = stOk ∨ (st = stBadArg ∧ bs = [])))
        ∧ (∃ st bs, exec (.readLog p) s = .next { s with dev := s.dev.emit (.i3c st bs) } ∧ (st = stOk ∨ (st = stBadArg ∧ bs = [])))
        ∧ (fieldAt p 0 4 ≤ Config.meterCertificates.length → exec (.readCerts p) s = .next { s with
            dev := s.dev.emit (.i3c stOk ((Config.meterCertificates.drop (fieldAt p 0 4)).take 8191)) })
        ∧ (Config.meterCertificates.length < fieldAt p 0 4 →
            exec (.readCerts p) s = .next { s with dev := s.dev.emit (.i3c stBadArg []) })
        ∧ (fieldAt p 2 2 = 0 ∨ 100 < fieldAt p 2 2 → exec (.readLog p) s = .next { s with dev := s.dev.emit (.i3c stBadArg []) })
        ∧ (fieldAt p 4 2 = 0 ∨ 200 < fieldAt p 4 2 → exec (.readMarkers p) s = .next { s with dev := s.dev.emit (.i3c stBadArg []) })
        ∧ (1 ≤ fieldAt p 2 2 → fieldAt p 2 2 ≤ 100 → fieldAt p 0 2 + fieldAt p 2 2 ≤ s.dev.meter.log.length →
            exec (.readLog p) s = .next { s with dev := s.dev.emit (.i3c stOk
              ((s.dev.meter.log.drop (fieldAt p 0 2)).take (fieldAt p 2 2)).flatten) }))
      ∧ ((s.dev.meter.powered && s.dev.meter.answering) = false →
        ∀ i ∈ [Instr.readEnergy, .readMarkers p, .readLog p, .readCerts p, .signRecord p, .fwWrite p, .wmFwCommit p, .calWrite p],
          exec i s = .next { s with dev := s.dev.emit .i3cNack }))
  ∧ (
    ∀ (s : State) (p : List Byte),
      (s.dev.meter.powered = true → s.dev.meter.answering = true → s.dev.meter.strap = false →
        ∀ i ∈ [Instr.fwWrite p, .wmFwCommit p, .calWrite p], exec i s = .next { s with dev := s.dev.emit (.i3c stSealed []) })
      ∧ (∃ d : Dev, exec .sealStrapFall s = .next { s with dev := d } ∧ d.meter.strap = false ∧ d.meter.committing = none
          ∧ d.out = s.dev.out ++ (if s.dev.meter.committing.isSome then [.i3c stSealed []] else [])
          ∧ d.meter.mec = s.dev.meter.mec ∧ d.meter.fwVersion = s.dev.meter.fwVersion ∧ d.meter.log = s.dev.meter.log
          ∧ d.meter.energyMwh = s.dev.meter.energyMwh))
  ∧ (
    ∀ (s : State) (p : List Byte), s.dev.meter.powered = true → s.dev.meter.answering = true → s.dev.meter.strap = true →
      (s.dev.meter.log.length < 1024 → ∃ d : Dev, exec (.calWrite p) s = .next { s with dev := d }
        ∧ d = { s.dev with meter := d.meter, out := s.dev.out ++ [.i3c stOk []] }
        ∧ d.meter.mec = s.dev.meter.mec + 1 ∧ d.meter.calVersion = fieldAt p 0 4 ∧ d.meter.calibration = padTo 128 (p.drop 4)
        ∧ d.meter.energyMwh = s.dev.meter.energyMwh ∧ d.meter.fwVersion = s.dev.meter.fwVersion
        ∧ ∃ e : List Byte, d.meter.log = s.dev.meter.log ++ [e] ∧ fieldAt e 0 4 = (s.dev.meter.mec + 1) % 2 ^ 32 ∧ fieldAt e 4 1 = 2)
      ∧ (1024 ≤ s.dev.meter.log.length → exec (.calWrite p) s = .next { s with dev := s.dev.emit (.i3c stNoResource []) })
      ∧ (p.length ≤ 4092 → fieldAt p 0 4 + (p.length - 4) ≤ 524288 → 4 ≤ p.length →
        ∃ d : Dev, exec (.fwWrite p) s = .next { s with dev := d }
          ∧ d = { s.dev with meter := { s.dev.meter with staging := d.meter.staging }, out := s.dev.out ++ [.i3c stOk []] }
          ∧ ∀ k, d.meter.staging.getD k 0 = if fieldAt p 0 4 ≤ k ∧ k < fieldAt p 0 4 + (p.length - 4)
              then p.getD (k - fieldAt p 0 4 + 4) 0 else s.dev.meter.staging.getD k 0)
      ∧ (524288 < fieldAt p 0 4 + (p.drop 4).length → exec (.fwWrite p) s = .next { s with dev := s.dev.emit (.i3c stBadArg []) })
      ∧ (let img := padTo (fieldAt p 0 4) s.dev.meter.staging
        let st := s.dev.meter.commitStatus img (fieldAt p 0 4)
        (st = stOk → exec (.wmFwCommit p) s = .next { s with dev := { s.dev with
          meter := { s.dev.meter with committing := some img, otherImage := img } } })
        ∧ (st ≠ stOk → exec (.wmFwCommit p) s = .next { s with dev := s.dev.emit (.i3c st []) })))

/-- SIGN_RECORD (R472, R473, R478): a record is signed with the next leaf, RSEQ rises, the flags since the previous record are
cleared; BUSY within 10 s of the previous one; NO_RESOURCE once all leaves are used; BAD_ARG for more than 64 markers.
Completes: signRecord. Job markers (R476, R477): the oldest marker on its way is kept with its operating count, counted as
sent, and its command is given its unit; a marker not acknowledged for 1 ms counts as dropped. The copy of R467 takes the
register, and a sealed strap is seen. Completes: markerReceipt, markerAckTimeout, meterCopyRefresh. -/
def Obligations.RecordsMarkersAndTheCopy : Prop :=
  (
    ∀ (s : State) (p : List Byte), s.dev.meter.powered = true → s.dev.meter.answering = true →
      (64 < fieldAt p 36 1 → exec (.signRecord p) s = .next { s with dev := s.dev.emit (.i3c stBadArg []) })
      ∧ (fieldAt p 36 1 = 0 → s.dev.meter.committing = none → s.dev.meter.nextLeaf < 2 ^ 25 →
          (∀ t, s.dev.meter.signedAt = some t → t + 10000000000 ≤ s.dev.meter.opNs) →
          ∃ d : Dev, ∃ r : List Byte, exec (.signRecord p) s = .next { s with dev := d }
            ∧ d = { s.dev with meter := d.meter, out := s.dev.out ++ [.i3c stOk r] }
            ∧ d.meter = { s.dev.meter with
                nextLeaf := s.dev.meter.nextLeaf + 1, leafEnd := d.meter.leafEnd, rseq := s.dev.meter.rseq + 1
                signedAt := some s.dev.meter.opNs, gapFlag := false, rangeFlag := false }
            ∧ (s.dev.meter.leafEnd ≤ s.dev.meter.nextLeaf → s.dev.meter.nextLeaf < d.meter.leafEnd ∧ d.meter.leafEnd % 1024 = 0)
            ∧ fieldAt r 0 4 = 0x574D5243 ∧ r.length = 112 + 96 + 5236)
      ∧ (fieldAt p 36 1 = 0 → (∃ t, s.dev.meter.signedAt = some t ∧ s.dev.meter.opNs < t + 10000000000) →
          exec (.signRecord p) s = .next { s with dev := s.dev.emit (.i3c stBusy []) })
      ∧ (fieldAt p 36 1 = 0 → s.dev.meter.committing = none → 2 ^ 25 ≤ s.dev.meter.nextLeaf → s.dev.meter.signedAt = none →
          exec (.signRecord p) s = .next { s with dev := s.dev.emit (.i3c stNoResource []) }))
  ∧ (
    ∀ (s : State),
      (∀ c seq id isEnd tb t rest, s.dev.meter.powered = true → s.dev.meter.answering = true →
        s.dev.meter.flying = (c, seq, id, isEnd, tb, t) :: rest →
        ∃ d : Dev, exec .markerReceipt s = .next { s with dev := d }
          ∧ d.meter.flying = rest ∧ d.meter.sent = satTo 0xFFFFFFFF (s.dev.meter.sent + 1)
          ∧ d.meter.markerCount = s.dev.meter.markerCount + 1 ∧ d.meter.tbNs = some tb
          ∧ d.meter.energyMwh = s.dev.meter.energyMwh ∧ d.meter.mec = s.dev.meter.mec ∧ d.meter.log = s.dev.meter.log
          ∧ (∃ k, d.meter.markers.getLast? = some k ∧ k.id = id ∧ k.tbNs = tb ∧ k.meterUs = s.dev.meter.opNs / 1000
              ∧ k.kind = (if isEnd then 1 else 0) + 2 * c.val))
      ∧ (∀ c seq, s.dev.meter.flying = [] → exec .markerReceipt s = .next s ∧ exec (.markerAckTimeout c seq) s = .next s)
      ∧ (∀ c seq id isEnd tb t, s.dev.meter.flying = [(c, seq, id, isEnd, tb, t)] → t + 1000000 ≤ s.dev.now →
        ∃ d : Dev, exec (.markerAckTimeout c seq) s = .next { s with dev := d }
          ∧ d.meter = { s.dev.meter with flying := [], dropped := satTo 0xFFFFFFFF (s.dev.meter.dropped + 1) })
      ∧ (∀ strap, s.dev.meter.powered = true → s.dev.meter.answering = true → s.dev.meter.copyAt = none →
        ∃ d : Dev, exec (.meterCopyRefresh strap) s = .next { s with dev := d }
          ∧ d = { s.dev with meter := d.meter, out := d.out }
          ∧ d.meter.copyMwh = s.dev.meter.energyMwh ∧ d.meter.copyAt = some s.dev.now ∧ d.meter.strap = strap
          ∧ d.meter.energyMwh = s.dev.meter.energyMwh ∧ d.meter.mec = s.dev.meter.mec))

/-! ### Host link (chapter 16) -/

/-- HDM_ACCESS before Memory Active is answered under the standard (R445), and one that no committed decoder maps does not reach
memory (R425). Completes: hdmAccess. HDM_DECODER_COMMIT (R422, R425): a decoder that may be committed maps its part;
interleave ways other than 1, a link that is not in 256-byte flit mode, a size of 0 or a part that is no multiple of 256 MiB
end in the standard's commit error. Completes: hdmDecoderCommit. -/
def Obligations.DecodersMapTheDevicesMemory : Prop :=
  (
    ∀ (s : State) (x : HdmAccess),
      ((s.dev.boot.active && s.dev.link.cxl) = false → exec (.hdmAccess x) s = .next { s with dev := s.dev.emit .hostInactive })
      ∧ (s.dev.link.maps x.dpa = false → ∃ d : Dev, exec (.hdmAccess x) s = .next { s with dev := d }
          ∧ d = { s.dev with out := d.out }))
  ∧ (
    ∀ (s : State) (i : Fin 2) (base size skip ways : Nat),
      (s.dev.decoderOk i base size skip ways = true → exec (.hdmDecoderCommit i base size skip ways) s = .next { s with
        dev := { s.dev with
          link := { s.dev.link with decoders := s.dev.link.decoders.set i ⟨true, base, size, skip⟩ }
          out := s.dev.out ++ [.decoder i.val true] } })
      ∧ (ways ≠ 1 ∨ s.dev.link.cxl = false ∨ size = 0 ∨ base % 268435456 ≠ 0 ∨ size % 268435456 ≠ 0 ∨ skip % 268435456 ≠ 0 →
        exec (.hdmDecoderCommit i base size skip ways) s = .next { s with dev := s.dev.emit (.decoder i.val false) }))

/-- A host read of a line without errors (R425, R426, R427): a data response of its 64 bytes, the line is tracked from then on,
and memory is as before; with poison in either granule the response carries poison and zeros. Completes: hdmAccess. A host
write (R425, R426): every enabled byte is written and no other byte of memory changes; it completes. In a removed window, or
where the reserved range has moved, it completes with no effect. A partial host write into a poisoned granule completes and
the granule stays poisoned; a write of the whole granule ends its poison (R426). -/
def Obligations.TheHostReadsAndWritesLines : Prop :=
  (
    ∀ (s : State) (x : HdmAccess) (a : Nat), x.write = false → s.dev.boot.active = true → s.dev.link.cxl = true →
      s.dev.link.maps x.dpa = true → localOfDpa x.dpa = some a → s.dev.clk.refLost = false → s.dev.link.waiting = [] →
      (s.dev.link.lines.length < 1048576 ∨ s.dev.link.lines.contains (a / 64) = true) →
      s.dev.hostGone (2 * (a / 64)) = false → s.dev.hostGone (2 * (a / 64) + 1) = false →
      let line := a / 64
      let lines := if s.dev.link.lines.contains line then s.dev.link.lines else s.dev.link.lines ++ [line]
      (s.dev.mem.marked (64 * line) 64 = false →
        exec (.hdmAccess x) s = .next { s with dev := { s.dev with
          link := { s.dev.link with lines := lines }
          out := s.dev.out ++ [.hostData (s.dev.mem.granule (2 * line) ++ s.dev.mem.granule (2 * line + 1)) false] } })
      ∧ (s.dev.mem.poisoned (2 * line) = true ∨ s.dev.mem.poisoned (2 * line + 1) = true →
        ∃ d : Dev, exec (.hdmAccess x) s = .next { s with dev := d }
          ∧ d.link.lines = lines ∧ d.out.getLast? = some (.hostData (List.replicate 64 0) true)))
  ∧ (
    ∀ (s : State) (x : HdmAccess) (a : Nat), x.write = true → x.data.length = x.enable.length → s.dev.boot.active = true →
      s.dev.link.cxl = true → s.dev.link.maps x.dpa = true → localOfDpa x.dpa = some a → s.dev.clk.refLost = false →
      s.dev.link.waiting = [] →
      (s.dev.mem.marked a x.data.length = false → (∀ g ∈ granulesOf a x.data.length, s.dev.hostGone g = false) →
        ∃ d : Dev, exec (.hdmAccess x) s = .next { s with dev := d }
          ∧ d = { s.dev with mem := { s.dev.mem with cells := d.mem.cells }, out := s.dev.out ++ [.hostDone] }
          ∧ ∀ k, byteAt d.mem.cells k =
              if a ≤ k ∧ k < a + x.data.length ∧ x.enable.getD (k - a) false = true then x.data.getD (k - a) 0
              else byteAt s.dev.mem.cells k)
      ∧ ((∀ g ∈ granulesOf a x.data.length, s.dev.hostGone g = true) →
        exec (.hdmAccess x) s = .next { s with dev := s.dev.emit .hostDone }))
  ∧ (
    ∀ (s : State) (x : HdmAccess) (g : Nat), x.write = true → x.data.length = 32 → s.dev.boot.active = true →
      s.dev.link.cxl = true → s.dev.link.maps x.dpa = true → localOfDpa x.dpa = some (32 * g) → s.dev.clk.refLost = false →
      s.dev.link.waiting = [] → s.dev.hostGone g = false → s.dev.mem.poisoned g = true →
      (x.enable = List.replicate 32 true → ∃ d : Dev, exec (.hdmAccess x) s = .next { s with dev := d }
        ∧ d.mem.poisoned g = false ∧ (∀ k < 32, byteAt d.mem.cells (32 * g + k) = x.data.getD k 0)
        ∧ (∀ k, k < 32 * g ∨ 32 * g + 32 ≤ k → byteAt d.mem.cells k = byteAt s.dev.mem.cells k))
      ∧ (x.enable.length = 32 → x.enable.contains false = true →
        exec (.hdmAccess x) s = .next { s with dev := s.dev.emit .hostDone }))

/-- Back-invalidation and snoops (R423, R427): BIRSP ends the tracking of its line, and what waited goes on; one for a line with
no BISnp out changes nothing. An H2D snoop is answered at once, with no data. Completes: birsp, h2dSnoop. Configuration and
DOE (R430, R441, R444, R445): configuration is retried until firmware runs (recovery serves it); the DOE mailbox holds one
object, takes none above 16 KiB, and discards a second one; reading the response frees it. Completes: configurationRequest,
doeRequest. IDE (R432, R433): KEY_PROG to a key set that is still held ends with status 4 and changes no key; on a stream that
holds nothing old it programs the set; a key switch takes the other set in use and holds the old one; an integrity failure
makes the stream Insecure, is counted and reported, and touches nothing else; a link-down discards every key set, and both
streams are Insecure. Completes: ideKmKeyProg, keySwitchMarker, ideIntegrityFailure, cxlLinkDown. -/
def Obligations.SnoopsConfigurationAndIde : Prop :=
  (
    ∀ (s : State) (line addr : Nat),
      exec (.h2dSnoop addr) s = .next { s with dev := s.dev.emit (.snoopMiss addr) }
      ∧ (s.dev.link.snooped.contains line = false → exec (.birsp line) s = .next s)
      ∧ (s.dev.link.snooped.contains line = true → s.dev.link.waiting = [] → s.dev.fab.stalled = [] → s.dev.ldg.running = none →
          s.dev.mbx.waiting = false →
          ∃ d : Dev, exec (.birsp line) s = .next { s with dev := d }
            ∧ d.link = { s.dev.link with
                lines := s.dev.link.lines.filter (· != line), snooped := s.dev.link.snooped.filter (· != line) }
            ∧ d.mem = s.dev.mem ∧ d.out = s.dev.out))
  ∧ (
    ∀ (s : State) (r : ConfigReq) (type : Nat) (object : List Byte),
      (s.dev.boot.firmware = false → s.dev.boot.recovery = false →
        exec (.configurationRequest r) s = .next { s with dev := s.dev.emit .configRetry }
        ∧ exec (.doeRequest type object) s = .next s)
      ∧ (s.dev.boot.firmware = true → exec (.configurationRequest .other) s = .next { s with dev := s.dev.emit .configDone })
      ∧ (s.dev.boot.firmware = true → ∀ bs, s.dev.link.doePending = some bs →
          exec (.configurationRequest .doeRead) s = .next { s with dev := { s.dev with
            link := { s.dev.link with doePending := none }, out := s.dev.out ++ [.doe bs] } }
          ∧ exec (.doeRequest type object) s = .next s)
      ∧ (s.dev.boot.firmware = true → s.dev.link.doePending = none → object.length ≤ 16384 → (type = 0 ∨ type = 3 ∨
          ((type = 1 ∨ type = 2) ∧ s.dev.boot.keys = true)) →
          exec (.doeRequest type object) s = .next { s with dev := { s.dev with
            link := { s.dev.link with doePending := some (Config.doeAnswer type object) } } })
      ∧ (16384 < object.length → exec (.doeRequest type object) s = .next s))
  ∧ (
    ∀ (s : State) (x : Stream) (y : Dir) (set : Bool),
      (s.dev.link.up = true → s.dev.link.secure x = true → set = (s.dev.link.dir x y).useSet →
        exec (.ideKmKeyProg x y set) s = .next { s with dev := s.dev.emit (.ideKm 4) })
      ∧ (s.dev.link.up = true → s.dev.link.secure x = true → set ≠ (s.dev.link.dir x y).useSet →
          (s.dev.link.dir x y).oldHeld = false →
          exec (.ideKmKeyProg x y set) s = .next { s with dev := { s.dev with
            link := s.dev.link.setDir x y ((s.dev.link.dir x y).setKey set true), out := s.dev.out ++ [.ideKm 0] } })
      ∧ (s.dev.link.up = false → exec (.ideKmKeyProg x y set) s = .next s)
      ∧ (s.dev.link.secure x = true → (s.dev.link.dir x y).oldHeld = false →
          (s.dev.link.dir x y).key (!(s.dev.link.dir x y).useSet) = true →
          exec (.keySwitchMarker x y) s = .next { s with dev := { s.dev with
            link := s.dev.link.setDir x y { s.dev.link.dir x y with useSet := !(s.dev.link.dir x y).useSet, oldHeld := true } } })
      ∧ (s.dev.link.secure x = true → ∃ d : Dev, exec (.ideIntegrityFailure x) s = .next { s with dev := d }
          ∧ d = { s.dev with link := d.link, out := d.out } ∧ d.link.secure x = false
          ∧ d.link.ideFails = satTo 0xFFFF (s.dev.link.ideFails + 1) ∧ d.link.failNew = true ∧ d.link.up = s.dev.link.up
          ∧ d.link.decoders = s.dev.link.decoders)
      ∧ (∃ d : Dev, exec .cxlLinkDown s = .next { s with dev := d } ∧ d = { s.dev with link := d.link }
          ∧ d.link.up = false ∧ d.link.ioSecure = false ∧ d.link.cmSecure = false
          ∧ (∀ x y, d.link.dir x y = {}) ∧ d.link.decoders = s.dev.link.decoders))

/-! ### Time base and laterals (chapters 11 and 14) -/

/-- CLK_TB_SET (R391, R395): only the stratum-0 device sets its time base; the value is taken with fraction 0 and counted as a
step. The local count is never stepped (R392). Completes: clkTbSet. Time exchanges (R317, R319, R391, R394) while no change of
CLK_TB_CTRL.MODE waits: on a link that is up one starts every 1 ms with this device's time; a request is answered with the
time and this device's stratum and state; an answer ends the oldest exchange in progress and brings the neighbour's stratum
and state; on a link that is not up nothing happens. Completes: timeExchangeStart, timeExchangeRequest, timeExchangeAnswer.
REMEASUREMENT_COMPLETE (R321, steps 5 and 6): with the exchanges gathered the port resumes delivery, MEAS_PS holds the
estimate, and FIBRE_PS takes it unless ASYM_LOCK is set; before that nothing changes. Completes: remeasurementComplete. -/
def Obligations.TimeIsSetExchangedAndMeasured : Prop :=
  (
    ∀ (s : State) (ns : W64),
      (s.dev.clk.state = tbMaster → ∃ d : Dev, exec (.clkTbSet ns) s = .next { s with dev := d }
        ∧ d.tbNs = ns.toNat ∧ d.tb80 % 65536 = 0 ∧ d.clk.stepCount = satTo 0xFFFF (s.dev.clk.stepCount + 1)
        ∧ d.clk.localNs = s.dev.clk.localNs
        ∧ d = { s.dev with clk := d.clk, mem := d.mem, ctxs := d.ctxs, out := d.out })
      ∧ (s.dev.clk.state ≠ tbMaster → exec (.clkTbSet ns) s = .next s))
  ∧ (
    ∀ (s : State) (n : Fin 96), (s.dev.clk.master = true ↔ s.dev.clk.state = tbMaster) →
      ((s.dev.fab.ports[n]).state.live = true →
        ((s.dev.lat.lats[n]).startedAt + 1000000 ≤ s.dev.now → ∃ d : Dev, exec (.timeExchangeStart n) s = .next { s with dev := d }
          ∧ d = { s.dev with lat := d.lat, out := s.dev.out ++ [.timeRequest n.val s.dev.tb80] }
          ∧ (d.lat.lats[n]) = { s.dev.lat.lats[n] with
              pending := (s.dev.lat.lats[n]).pending ++ [s.dev.tb80], startedAt := s.dev.now }
          ∧ ∀ m : Fin 96, m ≠ n → d.lat.lats[m] = s.dev.lat.lats[m])
        ∧ (∀ t1, exec (.timeExchangeRequest n t1) s = .next { s with
            dev := s.dev.emit (.timeAnswer n.val s.dev.tb80 s.dev.tb80 s.dev.clk.stratum s.dev.clk.state) })
        ∧ (∀ t1 rest t2 t3 st tb, (s.dev.lat.lats[n]).pending = t1 :: rest →
            ∃ d : Dev, exec (.timeExchangeAnswer n t2 t3 st tb) s = .next { s with dev := d }
              ∧ (d.lat.lats[n]).pending = rest ∧ (d.lat.lats[n]).nbrStratum = st % 16 ∧ (d.lat.lats[n]).nbrState = tb % 4
              ∧ d.fab = s.dev.fab ∧ d.clk.localNs = s.dev.clk.localNs))
      ∧ ((s.dev.fab.ports[n]).state.live = false → ∀ t1 t2 t3 st tb, exec (.timeExchangeStart n) s = .next s
          ∧ exec (.timeExchangeRequest n t1) s = .next s ∧ exec (.timeExchangeAnswer n t2 t3 st tb) s = .next s)
      ∧ ((s.dev.lat.lats[n]).pending = [] → ∀ t2 t3 st tb, exec (.timeExchangeAnswer n t2 t3 st tb) s = .next s))
  ∧ (
    ∀ (s : State) (n : Fin 96),
      ((s.dev.lat.lats[n]).remeasuring = true → s.dev.lat.remeasure ≤ (s.dev.lat.lats[n]).gathered.length →
        ∃ d : Dev, exec (.remeasurementComplete n) s = .next { s with dev := d }
          ∧ (d.lat.lats[n]).remeasuring = false
          ∧ (d.lat.lats[n]).fibrePs =
              (if (s.dev.lat.lats[n]).asymLock then (s.dev.lat.lats[n]).fibrePs else (d.lat.lats[n]).measPs)
          ∧ (d.lat.lats[n]).epoch = (s.dev.lat.lats[n]).epoch
          ∧ (∀ m : Fin 96, m ≠ n → d.lat.lats[m] = s.dev.lat.lats[m]))
      ∧ ((s.dev.lat.lats[n]).remeasuring = false ∨ (s.dev.lat.lats[n]).gathered.length < s.dev.lat.remeasure →
        exec (.remeasurementComplete n) s = .next s))

/-! ### The fabric (chapter 9) -/

/-- Ports leave a state as R279 has it: loss of all lanes, and a training that exceeds 100 ms, lead to DOWN; a lane fault of a
live port to DRAINING; a signal on an enabled DOWN port with its clock to TRAINING; a port that has drained trains again or is
DISABLED. No other port changes its state. Completes: lanesLost, laneLossOfLock, signalDetected, trainingTimeout,
portDrainComplete. TRAINING_EXCHANGE and PORT_ENABLE (R258, R279): a training port whose neighbour fits comes UP with two
lanes in each direction and DEGRADED with one, with a new generation tag; a neighbour in the other mode, or with no lane,
fails the training; enabling a DISABLED port makes it DOWN, and disabling one makes it DISABLED or drains it. Completes:
trainingExchange, portEnable. -/
def Obligations.PortsFollowTheirStateTable : Prop :=
  (
    ∀ (s : State) (n : Fin 96),
      let x := s.dev.fab.ports[n]
      let moved := fun (d : Dev) (st : PortState) =>
        (d.fab.ports[n]).state = st ∧ ∀ m : Fin 96, m ≠ n → (d.fab.ports[m]).state = (s.dev.fab.ports[m]).state
      (x.state ≠ .disabled → x.state ≠ .down → ∃ d : Dev, exec (.lanesLost n) s = .next { s with dev := d } ∧ moved d .down)
      ∧ (x.state = .disabled ∨ x.state = .down → exec (.lanesLost n) s = .next s)
      ∧ (x.state = .up ∨ x.state = .degraded → ∃ d : Dev, exec (.laneLossOfLock n) s = .next { s with dev := d } ∧ moved d .draining)
      ∧ (x.state.live = false → exec (.laneLossOfLock n) s = .next s)
      ∧ (x.state = .down → s.dev.fab.enable = true → x.enable = true → s.dev.portClock n = true → x.retryAt ≤ s.dev.now →
          ∃ d : Dev, exec (.signalDetected n) s = .next { s with dev := d } ∧ moved d .training)
      ∧ (x.state ≠ .down → exec (.signalDetected n) s = .next s)
      ∧ (x.state = .training → x.since + 100000000 ≤ s.dev.now → ∃ d : Dev, exec (.trainingTimeout n) s = .next { s with dev := d } ∧ moved d .down)
      ∧ (s.dev.now < x.since + 100000000 → exec (.trainingTimeout n) s = .next s)
      ∧ (x.state = .draining → (x.unacked = [] ∧ x.queue = [] ∨ x.since + 50000 ≤ s.dev.now) →
          ∃ d : Dev, exec (.portDrainComplete n) s = .next { s with dev := d } ∧ moved d (if x.thenTrain then .training else .disabled))
      ∧ (x.state ≠ .draining → exec (.portDrainComplete n) s = .next s))
  ∧ (
    ∀ (s : State) (n : Fin 96) (t : TrainInfo),
      let x := s.dev.fab.ports[n]
      (x.state = .training → s.dev.portClock n = true → t.lateral = x.lateral → s.dev.roleOk n.val t = true →
          1 ≤ t.lanesTx → t.lanesTx ≤ 2 → 1 ≤ t.lanesRx → t.lanesRx ≤ 2 →
          ∃ d : Dev, exec (.trainingExchange n t) s = .next { s with dev := d }
            ∧ (d.fab.ports[n]).state = (if t.lanesTx = 2 ∧ t.lanesRx = 2 then .up else .degraded)
            ∧ (d.fab.ports[n]).gen = (x.gen + 1) % 256 ∧ (d.fab.ports[n]).nbrId = t.nbrId ∧ (d.fab.ports[n]).nbrInc = t.nbrInc
            ∧ (d.fab.ports[n]).changed = true)
      ∧ (x.state = .training → s.dev.portClock n = true → (t.lateral ≠ x.lateral ∨ t.lanesTx = 0 ∨ t.lanesRx = 0) →
          ∃ d : Dev, exec (.trainingExchange n t) s = .next { s with dev := d } ∧ (d.fab.ports[n]).state = .down
            ∧ (d.fab.ports[n]).retryAt = s.dev.now + 1000000000)
      ∧ (x.state ≠ .training → exec (.trainingExchange n t) s = .next s)
      ∧ (∀ on, ∃ d : Dev, exec (.portEnable (some n) on) s = .next { s with dev := d } ∧ (d.fab.ports[n]).enable = on
          ∧ (on = true → s.dev.fab.enable = true → x.state = .disabled → (d.fab.ports[n]).state = .down)
          ∧ (on = true → x.state ≠ .disabled → s.dev.fab.enable = true → (d.fab.ports[n]).state = x.state)
          ∧ (on = false → x.state = .down ∨ x.state = .training → (d.fab.ports[n]).state = .disabled)
          ∧ (on = false → x.state = .up ∨ x.state = .degraded → (d.fab.ports[n]).state = .draining))
      ∧ (∀ on, ∃ d : Dev, exec (.portEnable none on) s = .next { s with dev := d } ∧ d.fab.enable = on))

/-- Link state (R271): every 10 ms the state and generation of every port goes to the 31 other slots of the basin; a message from
a slot whose ports are not known yet is kept, and one in this device's own name is not. Completes: linkStateBroadcast,
linkStateMessage. ROUTE_REWRITE and ROUTE_RESTORE (R324): a route that has had no exit up for HOLD_MS is replaced and its
original saved, unless canonical routing is in effect; one of whose original exits one has been up again for HOLD_MS is put
back, and no longer saved. Completes: routeRewrite, routeRestore. PORT_RETRAIN and ROUTE_LOAD (R269, R281, R284): a retrain of
a port that is UP or DEGRADED takes a slot and starts the drain; a port that is DISABLED or DOWN is BAD_ARG, one that trains
or drains BUSY. A table without reserved KINDs, whose every VIA is a KIND 1 entry, replaces the old one. Completes:
portRetrain, routeLoad. -/
def Obligations.LinkStateAndRoutesFollowThePorts : Prop :=
  (
    ∀ (s : State),
      (s.dev.fab.enable = true → s.dev.fab.linkSentAt + 10000000 ≤ s.dev.now →
        exec .linkStateBroadcast s = .next { s with dev := { s.dev with
          fab := { s.dev.fab with linkSentAt := s.dev.now }
          out := s.dev.out ++ ((List.range 32).filter (· != slotOf s.dev.fab.id)).map
            fun t => .linkState t (s.dev.fab.ports.toList.map fun x => (x.state.code, x.gen)) } })
      ∧ (s.dev.fab.enable = false ∨ s.dev.now < s.dev.fab.linkSentAt + 10000000 → exec .linkStateBroadcast s = .next s)
      ∧ (∀ (slot : Fin 32) (states : List (Nat × Nat)),
          (slot.val = slotOf s.dev.fab.id → exec (.linkStateMessage slot states) s = .next s)
          ∧ (slot.val ≠ slotOf s.dev.fab.id → states.length ≤ 96 →
              (∀ p < 96, s.dev.fab.map.find? (fun x => x.1 == 96 * slot.val + p) = none) →
              ∃ d : Dev, exec (.linkStateMessage slot states) s = .next { s with dev := d }
                ∧ (∀ p < states.length, lookupD (96 * slot.val + p) (0, 0) d.fab.map = states.getD p (0, 0))
                ∧ d.fab.routes = s.dev.fab.routes ∧ d.mem = s.dev.mem)))
  ∧ (
    ∀ (s : State) (n t : Nat),
      (s.dev.fab.downSince.find? (fun e => e.1 == n) = some (n, t) → s.dev.canonical = false →
        t + s.dev.lat.holdMs * 1000000 ≤ s.dev.now → s.dev.fab.saved = [] →
        ∃ d : Dev, exec (.routeRewrite n) s = .next { s with dev := d }
          ∧ lookupD n 0 d.fab.routes = s.dev.rewritten (lookupD n 0 s.dev.fab.routes)
          ∧ lookupD n 1 d.fab.saved = lookupD n 0 s.dev.fab.routes)
      ∧ (s.dev.canonical = true → exec (.routeRewrite n) s = .next s)
      ∧ (∀ (raw : Nat) (e u : Nat × Nat), s.dev.fab.saved.find? (fun e => e.1 == n) = some (n, raw) → e ∈ s.dev.exitsOfRaw raw →
        s.dev.fab.upSince.find? (fun x => x.1 == exitKey e) = some u → u.2 + s.dev.lat.holdMs * 1000000 ≤ s.dev.now →
        ∃ d : Dev, exec (.routeRestore n) s = .next { s with dev := d }
          ∧ lookupD n 0 d.fab.routes = raw ∧ (∀ e ∈ d.fab.saved, e.1 ≠ n))
      ∧ (s.dev.fab.saved.find? (fun e => e.1 == n) = none → exec (.routeRestore n) s = .next s))
  ∧ (
    ∀ (s : State) (p : List Byte),
      (∀ n : Fin 96, takes s.dev 0xC0C0 p → fieldAt p 0 1 = n.val → zeroAt p 1 3 = true →
        let x := s.dev.fab.ports[n]
        (∀ i, x.state = .up ∨ x.state = .degraded → x.retrainPending = false → s.dev.freeSlot = some i →
          ∃ d : Dev, exec (.portRetrain p) s = .next { s with dev := d } ∧ ended d stOk 0
            ∧ (d.fab.ports[n]).state = .draining ∧ (d.fab.ports[n]).thenTrain = true ∧ (d.fab.ports[n]).retrainPending = true
            ∧ d.mbx.slots[i] = { opcode := 0xC0C0, target := n.val, phase := 2 }
            ∧ d.slcs = s.dev.slcs ∧ d.upd = s.dev.upd ∧ d.mxa = s.dev.mxa)
        ∧ (x.state = .disabled ∨ x.state = .down → ∃ d : Dev, exec (.portRetrain p) s = .next { s with dev := d }
            ∧ ended d stBadArg 0 ∧ d.fab = s.dev.fab ∧ d.mbx.slots = s.dev.mbx.slots)
        ∧ (x.state = .training ∨ x.state = .draining → ∃ d : Dev, exec (.portRetrain p) s = .next { s with dev := d }
            ∧ ended d stBusy 0 ∧ d.fab = s.dev.fab ∧ d.mbx.slots = s.dev.mbx.slots))
      ∧ (takes s.dev 0xC0C1 p →
        let a := fieldAt p 0 8
        let rs := routeEntries (readCells s.dev.mem.cells a 16392)
        aligned a 8 = true → s.dev.slowStatus a 16392 = stOk → quiet s.dev a 16392 →
        (routesOk rs = true → s.dev.fab.saved = [] → ∃ d : Dev, exec (.routeLoad p) s = .next { s with dev := d } ∧ ended d stOk 0
          ∧ d.fab.routes = rs ∧ d.fab.saved = [] ∧ d.mem = s.dev.mem ∧ d.slcs = s.dev.slcs)
        ∧ (routesOk rs = false → ∃ d : Dev, exec (.routeLoad p) s = .next { s with dev := d } ∧ ended d stBadArg 0
          ∧ d.fab = s.dev.fab ∧ d.mem = s.dev.mem)))

/-- Short-link flits (R259, R260): on a port that receives, a flit whose CRC does not match is answered with one NAK of the last
flit accepted, and nothing of it is kept but that the credit given is noted; the NAK is an idle flit that is whole. One on a
port that is not in use is not taken. Flits that arrive whole and bring no packet to its end (R260, R313, R314), when the port
has nothing queued and nothing that it resends: on a short link the next flit in sequence is accepted and acknowledged by an
idle flit; a bulk flit of a lateral moves the bulk stream on; a privileged flit that leaves a gap is held and the gap
reported, with what is held of the 2,048 numbers after CUM. Completes: flitReceive, bulkFlitReceive, privilegedFlitReceive.
Acknowledgements of a lateral's privileged stream (R314): a control flit's CUM frees the flits it passes; while a gap is held
or flits are not acknowledged one goes out every 10 µs; a flit not acknowledged RTT + 100 µs after it was last sent goes
again, with its number and its slots. Completes: lateralControlFlit, lateralAckTick, privilegedResendTimer. -/
def Obligations.FlitsAreKeptInOrder : Prop :=
  (
    ∀ (s : State) (n : Fin 96) (ok : Bool) (f : List Byte),
      (s.dev.receives n false = false → exec (.flitReceive n ok f) s = .next s)
      ∧ (s.dev.receives n false = true → ok = true → flitGood true f = false →
        (s.dev.fab.ports[n].nakOut = true → exec (.flitReceive n ok f) s = .next { s with
            dev := s.dev.modPort n fun x => { x with badHalf := false } })
        ∧ (s.dev.fab.ports[n].nakOut = false → ∃ (d : Dev) (bs : List Byte), exec (.flitReceive n ok f) s = .next { s with dev := d }
            ∧ d = { s.dev with fab := d.fab, out := s.dev.out ++ [.flit n.val bs] }
            ∧ flitGood true bs = true ∧ fieldAt bs 0 2 = 0 ∧ slotsOf bs = []
            ∧ fieldAt bs 2 2 = 4096 + (s.dev.fab.ports[n].rxNext + 4095) % 4096
            ∧ (d.fab.ports[n]) = { s.dev.fab.ports[n] with nakOut := true, badHalf := false, lent := (d.fab.ports[n]).lent }))
      ∧ (s.dev.receives n true = false → exec (.bulkFlitReceive n ok f) s = .next s ∧ exec (.privilegedFlitReceive n ok f) s = .next s)
      ∧ (s.dev.receives n true = true → ok = true → flitGood true f = false →
          exec (.privilegedFlitReceive n ok f) s = .next { s with dev := s.dev.modPort n fun x => { x with badHalf := false } }
          ∧ (∃ d : Dev, exec (.bulkFlitReceive n ok f) s = .next { s with dev := d } ∧ d = { s.dev with fab := d.fab }
              ∧ (d.fab.ports[n]) = { s.dev.fab.ports[n] with partSlots := [], dropRest := true, badHalf := false })))
  ∧ (
    ∀ (s : State) (n : Fin 96) (f : List Byte), flitGood true f = true → slotsOf f = [] → s.dev.fab.ports[n].queue = [] →
      s.dev.fab.ports[n].unacked = [] →
      (s.dev.receives n false = true → fieldAt f 0 2 = 4096 + s.dev.fab.ports[n].rxNext → s.dev.fab.ports[n].rxNext < 4096 →
        bitOf (fieldAt f 2 2) 12 = false →
        ∃ (d : Dev) (bs : List Byte), exec (.flitReceive n true f) s = .next { s with dev := d }
          ∧ (d.fab.ports[n]).rxNext = (s.dev.fab.ports[n].rxNext + 1) % 4096 ∧ (d.fab.ports[n]).nakOut = false
          ∧ d.out = s.dev.out ++ [.flit n.val bs] ∧ fieldAt bs 0 2 = 0 ∧ fieldAt bs 2 2 = s.dev.fab.ports[n].rxNext
          ∧ d.mem = s.dev.mem)
      ∧ (s.dev.receives n true = true → fieldAt f 3 1 % 16 = 1 → fieldAt f 0 3 < 2 ^ 24 - 1 →
        ∃ d : Dev, exec (.bulkFlitReceive n true f) s = .next { s with dev := d }
          ∧ (d.fab.ports[n]).bulkRx = fieldAt f 0 3 + 1 ∧ d.out = s.dev.out ∧ d.mem = s.dev.mem)
      ∧ (s.dev.receives n true = true → fieldAt f 3 1 % 16 = 2 → s.dev.fab.ports[n].heldFlits = [] →
        0 < s.dev.fab.ports[n].ahead (fieldAt f 0 3) → s.dev.fab.ports[n].ahead (fieldAt f 0 3) < 2 ^ 23 →
        ∃ (d : Dev) (cr : List (Nat × Nat)), exec (.privilegedFlitReceive n true f) s = .next { s with dev := d }
          ∧ (d.fab.ports[n]).heldFlits = [(fieldAt f 0 3, f)] ∧ (d.fab.ports[n]).rxNext = s.dev.fab.ports[n].rxNext
          ∧ d.out = s.dev.out ++ [.control n.val ((s.dev.fab.ports[n].rxNext + 2 ^ 24 - 1) % 2 ^ 24)
              (if s.dev.fab.ports[n].ahead (fieldAt f 0 3) < 2048 then [fieldAt f 0 3] else []) cr]))
  ∧ (
    ∀ (s : State) (n : Fin 96), s.dev.receives n true = true → s.dev.fab.ports[n].queue = [] →
      (∀ cum, ∃ d : Dev, exec (.lateralControlFlit n cum []) s = .next { s with dev := d }
        ∧ d = { s.dev with fab := d.fab, lat := d.lat } ∧ d.lat.lats[n] = { s.dev.lat.lats[n] with timerRtt := none }
        ∧ (d.fab.ports[n]) = { s.dev.fab.ports[n] with
            unacked := s.dev.fab.ports[n].unacked.filter fun f => !decide ((cum + 2 ^ 24 - f.seq) % 2 ^ 24 < 2 ^ 23) })
      ∧ (s.dev.fab.ports[n].heldFlits = [] → s.dev.lat.lats[n].ackCum ≠ s.dev.fab.ports[n].rxNext →
          s.dev.lat.lats[n].ackAt + 10000 ≤ s.dev.now →
          ∃ (d : Dev) (cr : List (Nat × Nat)), exec (.lateralAckTick n) s = .next { s with dev := d }
            ∧ d = { s.dev with
                lat := d.lat, fab := d.fab
                out := s.dev.out ++ [.control n.val ((s.dev.fab.ports[n].rxNext + 2 ^ 24 - 1) % 2 ^ 24) [] cr] }
            ∧ (d.fab.ports[n]) = { s.dev.fab.ports[n] with lent := (d.fab.ports[n]).lent }
            ∧ d.lat.lats[n] = { s.dev.lat.lats[n] with ackAt := s.dev.now, ackCum := s.dev.fab.ports[n].rxNext })
      ∧ (s.dev.now < s.dev.lat.lats[n].ackAt + 10000 → exec (.lateralAckTick n) s = .next s)
      ∧ ((∀ f ∈ s.dev.fab.ports[n].unacked, f.sends < 16 ∧ f.sentAt + s.dev.rttNs n + 100000 ≤ s.dev.now) →
          ∃ (d : Dev) (bs : List (List Byte)), exec (.privilegedResendTimer n) s = .next { s with dev := d }
            ∧ d = { s.dev with fab := d.fab, out := s.dev.out ++ bs.map fun b => .flit n.val b }
            ∧ bs.length = s.dev.fab.ports[n].unacked.length
            ∧ (∀ x ∈ s.dev.fab.ports[n].unacked.zip bs,
                fieldAt x.2 0 4 = packFields [(0, x.1.seq), (24, 2)] % 2 ^ 32 ∧ (x.2.drop 16).take x.1.slots.length = x.1.slots)
            ∧ (d.fab.ports[n]).unacked = s.dev.fab.ports[n].unacked.map fun f => { f with sends := f.sends + 1, sentAt := s.dev.now }))

/-- READ and WRITE of this device's memory (R263, R264) that are accepted and touch no granule with errors or poison: a READ is
answered with the granules and their check bytes, and changes no memory; a WRITE without a mask stores its data and changes no
other byte, and is answered OK. One that is refused is answered with its status and changes no memory. Completes: read, write,
genQuery. A packet for another device goes on with its hop raised by one, whatever its type; one that would need a ninth hop
is dropped (R266, R270). -/
def Obligations.RemoteRequestsAreServedOrPassedOn : Prop :=
  (
    ∀ (s : State) (p : Packet), p.dest = s.dev.fab.id →
      (p.type = .read → s.dev.judgeAccess p = stOk → s.dev.clk.refLost = false → s.dev.link.lines = [] →
        s.dev.mem.marked p.addr (32 * p.len) = false → 1 ≤ p.len →
        ∃ d : Dev, exec (.read p) s = .next { s with dev := d }
          ∧ d = s.dev.answer p .readResp stOk (granuleSlots (readCells s.dev.mem.cells p.addr (32 * p.len))) ∧ d.mem = s.dev.mem)
      ∧ (p.type = .write → s.dev.judgeAccess p = stOk → maskOf p = 0 → s.dev.clk.refLost = false → s.dev.link.lines = [] →
        p.addr % 32 = 0 →
        ∃ m : Mem, exec (.write p) s = .next { s with dev := ({ s.dev with mem := m }).reply p stOk }
          ∧ ∀ a, byteAt m.cells a =
              if p.addr ≤ a ∧ a < p.addr + 32 * p.len
              then p.data.getD (36 * ((a - p.addr) / 32) + (a - p.addr) % 32) 0 else byteAt s.dev.mem.cells a)
      ∧ (p.type = .read → s.dev.judgeAccess p ≠ stOk →
        exec (.read p) s = .next { s with dev := s.dev.reply p (s.dev.judgeAccess p) })
      ∧ (p.type = .write → s.dev.judgeAccess p ≠ stOk →
        exec (.write p) s = .next { s with dev := s.dev.reply p (s.dev.judgeAccess p) })
      ∧ (p.type = .genQuery → exec (.genQuery p) s = .next { s with
          dev := s.dev.reply p (if 20 ≤ p.unit then stBadArg else if s.dev.unitInService p.unit then stInService else stOk) }))
  ∧ (
    ∀ (s : State) (p : Packet), p.dest ≠ s.dev.fab.id →
      (∀ x ∈ [(PacketType.read, Instr.read p), (.write, .write p), (.accum, .accum p), (.readResp, .readResp p), (.reply, .reply p),
          (.genQuery, .genQuery p)],
        p.type = x.1 → exec x.2 s = .next { s with dev := s.dev.routePacket { p with hop := p.hop + 1 } }
          ∧ (7 ≤ p.hop → s.dev.fab.transit = [] → exec x.2 s = .next s)))

/-- Answers and timers (R25, R273, R274, R275, R278): an answer without a live entry is discarded; one to an entry whose owner is
gone closes it; one to a live entry closes it, and its bytes or its acknowledgement go to who asked; a timer that has not run
out does nothing, and one that has asks the unit for its generation; a back-off that is over reissues the request with a new
timer. Completes: readResp, reply, requestTimerExpiry, inServiceBackoffReissue, busyBackoffReissue. -/
def Obligations.AnswersAndTimersOfRequests : Prop :=
  ∀ (s : State),
    (∀ p : Packet, p.dest = s.dev.fab.id → (∀ e ∈ s.dev.fab.entries, e.1 ≠ p.tag) →
      (p.type = .reply → exec (.reply p) s = .next s) ∧ (p.type = .readResp → exec (.readResp p) s = .next s))
    ∧ (∀ (p : Packet) (e : Outst), p.dest = s.dev.fab.id → s.dev.fab.entries = [(p.tag, e)] → e.discard = true →
        e.useCount = p.useCount → e.packet.type = .read →
        (p.type = .readResp → p.len = e.packet.len → ∃ d : Dev, exec (.readResp p) s = .next { s with dev := d }
          ∧ d = { s.dev with fab := d.fab } ∧ d.fab.entries = [] ∧ d.cached e.packet.dest e.packet.unit = some (p.gen, p.inc))
        ∧ (p.type = .reply → p.status ≠ stOk → ∃ d : Dev, exec (.reply p) s = .next { s with dev := d }
          ∧ d = { s.dev with fab := d.fab } ∧ d.fab.entries = [] ∧ d.cached e.packet.dest e.packet.unit = some (p.gen, p.inc)))
    ∧ (∀ (p : Packet) (e : Outst), p.dest = s.dev.fab.id → s.dev.fab.entries = [(p.tag, e)] → e.discard = false →
        e.useCount = p.useCount → s.dev.cached e.packet.dest e.packet.unit = none →
        let seen := (s.dev.learn e.packet.dest e.packet.unit p.gen p.inc).closeEntry p.tag
        (∀ c seq bs, p.type = .readResp → e.packet.type = .read → p.len = e.packet.len → e.owner = .fetch c seq →
          responseData p = some bs → exec (.readResp p) s = .next { s with
            dev := seen.modCmd c seq fun k => { k with fetched := k.fetched ++ [(ackKey e.packet, bs)] } })
        ∧ (∀ inst c seq idx, p.type = .reply → e.packet.type = .write → p.status = stOk → e.owner = .culvert inst c seq idx →
          exec (.reply p) s = .next { s with
            dev := seen.modPiece c seq idx fun u => { u with rx := u.rx ++ [(ackKey e.packet, [])], still := 0 } }))
    ∧ (∀ (i : Nat) (e : Outst), s.dev.fab.entries.find? (fun x => x.1 == i) = some (i, e) →
        (s.dev.now < e.issuedAt + s.dev.fab.reqUs * 1000 → exec (.requestTimerExpiry i) s = .next s)
        ∧ (e.issuedAt + s.dev.fab.reqUs * 1000 ≤ s.dev.now → e.waitUntil = none → e.discard = true →
            exec (.requestTimerExpiry i) s = .next { s with dev := s.dev.closeEntry i })
        ∧ (∀ c seq j, e.issuedAt + s.dev.fab.reqUs * 1000 ≤ s.dev.now → e.waitUntil = none → e.discard = false →
            e.owner = .fetch c seq → (∀ q ∈ s.dev.fab.entries, q.2.owner ≠ .query i) → s.dev.judgeRemote e.packet.dest = stOk →
            s.dev.freeEntry 7 = some j →
            ∃ (d : Dev) (q : Outst), exec (.requestTimerExpiry i) s = .next { s with dev := d }
              ∧ d.fab.entries.find? (fun x => x.1 == j) = some (j, q) ∧ q.owner = .query i ∧ q.packet.type = .genQuery
              ∧ q.packet.tc = 7 ∧ q.packet.dest = e.packet.dest ∧ q.packet.unit = e.packet.unit)
        ∧ (∀ t, e.waitUntil = some t → t ≤ s.dev.now → e.waitFor = 1 → e.discard = false → s.dev.judgeRemote e.packet.dest = stOk →
            exec (.inServiceBackoffReissue i) s = .next { s with dev := s.dev.reissue i })
        ∧ (∀ t c job chunk piece j, e.waitUntil = some t → t ≤ s.dev.now → e.waitFor = 2 → e.discard = false →
            e.owner = .piece c job chunk piece → s.dev.job? c job = some j → s.dev.now < j.deadlineAt →
            s.dev.judgeRemote e.packet.dest = stOk →
            exec (.busyBackoffReissue i) s = .next { s with dev := s.dev.reissue i })
        ∧ (e.waitUntil = none → exec (.inServiceBackoffReissue i) s = .next s ∧ exec (.busyBackoffReissue i) s = .next s))

/-! ### Ring commands (chapter 6) -/

/-- COMMAND_ISSUE and the rows with an argument block (R167, R172, R183): the one ready command of the block, whose argument block
can be read and whose opcode accepts its arguments, has issued with that block and those units; what each opcode accepts is
stated beside this. A receive of STAGE_SEND is taken here with no READY held for its context (R347). LAST_SEQ and every engine
stay. Completes: commandIssue, arrayOp, flumeOp, vectorOp, move, reduce, update, shardExport, shardImport, siphonSave,
siphonLoad, stageSend, outerRound. What the opcodes ask of their arguments (R38 to R40, R61, R105, R148, R172, R201, R218,
R219, R285, R329, R344, R353, R354), with what they read at issue in quiet memory of this device: ARRAY_OP goes on with a unit
for each output tile, FLUME_OP with one for each vector, VECTOR_OP with one for each row, MOVE, SHARD_EXPORT and SHARD_IMPORT
with their pieces, REDUCE with its job's units and its members, UPDATE and OUTER_ROUND with their entries, SIPHON_SAVE and
SIPHON_LOAD with their rows, STAGE_SEND with its packets. DEFER_LIMIT (R371): a deferred command that has been ready for
HG_CTRL.MAX_DEFER_US issues as COMMAND_ISSUE would issue it when it is the one ready command, and HG_DEFER.FORCED counts it;
where the time has not passed, or it was not deferred, nothing issues. Completes: deferLimit. -/
def Obligations.ReadyCommandsIssueOrAreJudged : Prop :=
  (
    ∀ (s : State) (c : Fin 16) (k : Cmd) (bs : List Byte) (e : Dev) (total : Nat) (lists : List Nat),
      onlyReady s.dev c k → takesBlock k.entry.opcode = true → hasBlock (offer s.dev c k) k bs →
      (offer s.dev c k).judgeArgs c { k with args := bs } = (e, .go total lists) →
      (k.entry.opcode = opStage → s.dev.sip.ready[c] = []) →
      ∃ d : Dev, exec .commandIssue s = .next { s with dev := d }
        ∧ (k.entry.opcode = opArray → exec (.arrayOp c k.entry.seq) s = .next { s with dev := d })
        ∧ (k.entry.opcode = opFlume → exec (.flumeOp c k.entry.seq) s = .next { s with dev := d })
        ∧ (k.entry.opcode = opVector → exec (.vectorOp c k.entry.seq) s = .next { s with dev := d })
        ∧ (k.entry.opcode = opMove → exec (.move c k.entry.seq) s = .next { s with dev := d })
        ∧ (k.entry.opcode = opReduce → exec (.reduce c k.entry.seq) s = .next { s with dev := d })
        ∧ (k.entry.opcode = opUpdate → exec (.update c k.entry.seq) s = .next { s with dev := d })
        ∧ (k.entry.opcode = opExport → exec (.shardExport c k.entry.seq) s = .next { s with dev := d })
        ∧ (k.entry.opcode = opImport → exec (.shardImport c k.entry.seq) s = .next { s with dev := d })
        ∧ (k.entry.opcode = opSave → exec (.siphonSave c k.entry.seq) s = .next { s with dev := d })
        ∧ (k.entry.opcode = opLoad → exec (.siphonLoad c k.entry.seq) s = .next { s with dev := d })
        ∧ (k.entry.opcode = opStage → exec (.stageSend c k.entry.seq) s = .next { s with dev := d })
        ∧ (k.entry.opcode = opOuter → exec (.outerRound c k.entry.seq) s = .next { s with dev := d })
        ∧ issuedAs d c k.entry.seq bs total
        ∧ (d.ctx c).lastSeq = (s.dev.ctx c).lastSeq
        ∧ d.mxa.arrays = s.dev.mxa.arrays ∧ d.flm.flumes = s.dev.flm.flumes ∧ d.vxe.engines = s.dev.vxe.engines
        ∧ d.clv.engines = s.dev.clv.engines ∧ d.ctl.engines = s.dev.ctl.engines)
  ∧ (
    ∀ (d : Dev) (c : Fin 16) (k : Cmd),
      (k.entry.opcode = opArray → ∀ x, arrayArgs k.args = some x →
        d.judgeArgs c k = (d, if x.check (d.ctx c).mode = stOk then .go x.tiles [] else .refuse (x.check (d.ctx c).mode)))
      ∧ (k.entry.opcode = opFlume → ∀ x, arrayArgs k.args = some x →
        d.judgeArgs c k = (d, if x.checkFlume (d.ctx c).mode = stOk then .go x.m [] else .refuse (x.checkFlume (d.ctx c).mode)))
      ∧ (k.entry.opcode = opVector → ∀ x e, vecArgs k.args = some x → d.checkVector x (d.ctx c).mode = (e, stOk) →
        d.judgeArgs c k = (e, .go x.m []))
      ∧ (k.entry.opcode = opMove → ∀ x, moveArgs k.args = some x → d.checkMove x = stOk →
        d.judgeArgs c k = (d, .go x.pieces []))
      ∧ (k.entry.opcode = opReduce → ∀ x, reduceArgs k.args = some x → k.step ≠ none → fidOf x.list = 0 →
        d.slowStatus x.list (4 * x.count) = stOk → quiet d x.list (4 * x.count) →
        let bs := readCells d.mem.cells x.list (4 * x.count)
        let members := (List.range x.count).map fun i => fieldAt bs (4 * i) 4
        d.checkReduce c { k with lists := members } x = stOk →
        d.judgeArgs c k = (d, .go (d.jobOf c { k with lists := members } x).units members))
      ∧ (k.entry.opcode = opUpdate → d.checkUpdate c k = stOk → (∀ i < k.entries, k.ndest i = 0) → d.clk.refLost = false →
        d.checkDests { k with lists := [] } = stOk → d.judgeArgs c k = (d, .go k.entries []))
      ∧ (k.entry.opcode = opExport → ∀ x g, exportArgs k.args = some x → d.shard? x.handle = some g → d.checkExport c x = stOk →
        d.judgeArgs c k = (d, .go (payloadPieces (g.payloadLen x.set)) [g.live, g.step.toNat]))
      ∧ (k.entry.opcode = opImport → ∀ h src tc x g, importArgs k.args = some (h, src, tc) → d.shard? h = some x → x.ctx = c →
        x.lost = false → d.isOwn src = true →
        let a := localOf src
        d.sideStatus true [(a, 128)] = stOk → quiet d a 128 → descriptorOf (readCells d.mem.cells a 128) = some g →
        d.checkSource c h k.step.isSome x g = stOk → d.sideStatus true [(a + 128, g.len)] = stOk → quiet d (a + 128) g.len →
        sha384 (readCells d.mem.cells (a + 128) g.len) = g.digest → evdRefused g (readCells d.mem.cells (a + 128) g.len) = false →
        d.judgeArgs c k = (d, .go (payloadPieces g.len) ((readCells d.mem.cells a 128).map (·.toNat))))
      ∧ (k.entry.opcode = opSave → ∀ x, siphonArgs false k.args = some x → inReservoir x.src x.srcBytes = true →
        fidOf x.dst = 0 → 64 + x.recordBytes ≤ x.dstLen → d.slowStatus x.dst (64 + x.recordBytes) = stOk →
        d.judgeArgs c k = (d, .go x.rows []))
      ∧ (k.entry.opcode = opLoad → ∀ x, siphonArgs true k.args = some x → inReservoir x.dst x.outBytes = true → fidOf x.src = 0 →
        d.slowStatus x.src (64 + x.recordBytes) = stOk → x.out ≠ 3 → quiet d x.src 64 →
        d.headerFault c k x (readCells d.mem.cells x.src 64) = 0 → d.judgeArgs c k = (d, .go x.rows []))
      ∧ (k.entry.opcode = opStage → ∀ x, stageArgs k.args = some x → k.step ≠ none → fidOf x.loc = 0 →
        d.rangeStatus x.loc x.bytes = stOk →
        (x.receive = true → d.judgeArgs c k = (d, .go 1 []))
        ∧ (x.receive = false → d.sideStatus (d.isOwn x.remote) [(localOf x.remote, x.bytes)] = stOk →
            d.judgeRemote (fidOf x.remote) = stOk → d.judgeArgs c k = (d, .go (ceilDiv x.bytes 4096) [])))
      ∧ (k.entry.opcode = opOuter → d.checkOuter c k = stOk → (outerHead k.args).apply = false →
        ∃ lists, d.judgeArgs c k = (d, .go k.entries lists) ∧ lists.length = k.entries)
      ∧ (k.entry.opcode = opArray ∨ k.entry.opcode = opFlume → arrayArgs k.args = none →
        d.judgeArgs c k = (d, .refuse stBadArg)))
  ∧ (
    ∀ (s : State) (c : Fin 16) (k : Cmd), onlyReady s.dev c k → s.dev.hg.deferrals ≤ 0xFFFFFFFF →
      (k.deferred = false ∨ s.dev.deferExpired k = false → exec .deferLimit s = .next { s with dev := s.dev.noteReady })
      ∧ (k.deferred = true → s.dev.deferExpired k = true → exec .deferLimit s = exec .commandIssue s
        ∧ (k.entry.opcode = opNop → k.entry.indirect = false → ∃ d : Dev, exec .deferLimit s = .next { s with dev := d }
          ∧ (d.ctx c).cmd? k.entry.seq = none ∧ (d.ctx c).lastSeq = ((s.dev.ctx c).complete [k.entry.seq]).lastSeq
          ∧ d.hg.forced = satTo 0xFFFFFFFF (s.dev.hg.forced + 1))))

/-- NOP, MARKER, STEP_BEGIN and STEP_END, which carry no argument block (R168, R232, R234, R245, R476): NOP completes, a marker
goes to the meter with its time and stays outstanding until it is acknowledged, STEP_BEGIN opens the step that SLC_STEP names,
and STEP_END without a loss to check ends the reading of its step. Completes: nop, marker, stepBegin, stepEnd. -/
def Obligations.InlineRingCommandsRun : Prop :=
  ∀ (s : State) (c : Fin 16) (k : Cmd), onlyReady s.dev c k → k.entry.indirect = false →
    (k.entry.opcode = opNop → ∃ d : Dev, exec (.nop c k.entry.seq) s = .next { s with dev := d }
      ∧ (d.ctx c).cmd? k.entry.seq = none ∧ (d.ctx c).lastSeq = ((s.dev.ctx c).complete [k.entry.seq]).lastSeq
      ∧ d.upd.shards = s.dev.upd.shards ∧ d.fab = s.dev.fab ∧ d.mxa = s.dev.mxa)
    ∧ (k.entry.opcode = opMarker → ∃ d : Dev, exec (.marker c k.entry.seq) s = .next { s with dev := d }
      ∧ d.meter.flying = s.dev.meter.flying ++ [(c, k.entry.seq, fieldAt k.entry.args 0 8,
          bitOf (fieldAt k.entry.args 8 1) 0, s.dev.tbNs, s.dev.now)]
      ∧ d.out = s.dev.out ++ [.marker (fieldAt k.entry.args 0 8) (bitOf (fieldAt k.entry.args 8 1) 0) c.val s.dev.tbNs]
      ∧ (d.ctx c).lastSeq = (s.dev.ctx c).lastSeq ∧ d.mem = s.dev.mem)
    ∧ (k.entry.opcode = opStepBegin → s.dev.rsv.retiring = none → (s.dev.slc c).isSet = true →
      (s.dev.ctx c).spanPos k.index = some 0 → ((s.dev.ctx c).steps.head?).map (·.beginSeq) = some k.entry.seq →
      ((s.dev.ctx c).steps.head?).bind (·.refused) = none → BitVec.ofNat 64 (fieldAt k.entry.args 0 8) = (s.dev.slc c).step →
      ∃ d : Dev, exec (.stepBegin c k.entry.seq) s = .next { s with dev := d }
        ∧ (d.slc c).stepState = .active ∧ (d.slc c).outer = bitOf (fieldAt k.entry.args 8 1) 0
        ∧ (d.slc c).step = (s.dev.slc c).step ∧ (d.slc c).attempt = (s.dev.slc c).attempt
        ∧ (d.ctx c).cmd? k.entry.seq = none ∧ (d.ctx c).lastSeq = ((s.dev.ctx c).complete [k.entry.seq]).lastSeq)
    ∧ (k.entry.opcode = opStepEnd → k.step ≠ none → fieldAt k.entry.args 0 8 = 0 → (s.dev.slc c).overflow = false →
      (∀ e ∈ s.dev.shardsOf c, e.2.imported = true → e.2.state = .staged) →
      ∃ d : Dev, exec (.stepEnd c k.entry.seq) s = .next { s with dev := d }
        ∧ (d.slc c).stepEnded = true ∧ (d.slc c).stepState = (s.dev.slc c).stepState
        ∧ (d.ctx c).cmd? k.entry.seq = none ∧ (d.ctx c).lastSeq = ((s.dev.ctx c).complete [k.entry.seq]).lastSeq)

/-- R174: a command that its issue finds wanting is not consumed. The entry is to be read again at its slot, nothing later is
read, and its RUNNING context moves to HOLDING with cause 1; outside a step, LAST_SEQ and the sluice stay as they were. -/
def Obligations.ARefusedCommandIsNotConsumed : Prop :=
  ∀ (s : State) (c : Fin 16) (k : Cmd) (i : Instr) (e : Dev) (st : Nat) (bs : List Byte),
    onlyReady s.dev c k → (k.entry.opcode, i) ∈ ringRows c k.entry.seq → k.step = none →
    (s.dev.ctx c).state = .running → (s.dev.ctx c).spanPos k.index ≠ some 1 →
    (offer s.dev c k).judge c k = (e, .refuse st, bs) →
    ∃ d : Dev, exec i s = .next { s with dev := d }
      ∧ (d.ctx c).state = .holding ∧ (d.ctx c).cause = 1 ∧ (d.ctx c).readIdx = k.index ∧ (d.ctx c).nextSeq = k.entry.seq
      ∧ (d.ctx c).stopRead = true ∧ (∀ q ∈ (d.ctx c).cmds, q.index ≠ k.index)
      ∧ (d.ctx c).lastSeq = (s.dev.ctx c).lastSeq ∧ (d.slc c).stepState = (s.dev.slc c).stepState

/-- CTX_DOORBELL (R164, R161): the four cases of the doorbell's judgement, by differences modulo 2^32; ignored while the context
is CLOSED. Completes: ctxDoorbell. RING_ENTRY_READ (R165 to R167): a RUNNING context with room for another command and an
entry to read, which lies in quiet memory and passes R166, takes it: the command is outstanding with the entry's fields,
CTX_RING_READ and the SEQ that is expected move on. One that does not pass is refused, and the context holds. Completes:
ringEntryRead. -/
def Obligations.DoorbellsAndEntriesAreTakenInTurn : Prop :=
  (
    ∀ (s : State) (c : Fin 16) (v : W32),
      let x := s.dev.ctx c
      (x.state = .closed ∨ v = x.tail → exec (.ctxDoorbell c v) s = .next s)
      ∧ (x.state ≠ .closed → v ≠ x.tail → (v - x.tail).toNat < 2 ^ 31 → (v - x.head).toNat ≤ 2 ^ x.ringLog2 →
        exec (.ctxDoorbell c v) s = .next { s with dev := s.dev.modCtx c fun x => { x with tail := v } })
      ∧ (x.state ≠ .closed → v ≠ x.tail → 2 ^ 31 ≤ (v - x.tail).toNat ∨ 2 ^ x.ringLog2 < (v - x.head).toNat →
        exec (.ctxDoorbell c v) s = .next { s with dev := s.dev.event c 0 0x0005 0 v.toNat }))
  ∧ (
    ∀ (s : State) (c : Fin 16),
      let x := s.dev.ctx c
      let a := x.ringBase + 64 * (x.readIdx.toNat % 2 ^ x.ringLog2)
      let bs := readCells s.dev.mem.cells a 64
      x.state = .running → x.stopRead = false → (s.dev.slc c).stepState ≠ .repeatWait → x.cmds.length < 32 → x.again = [] →
      x.holdPending = false → x.readIdx ≠ x.tail → x.known x.readIdx = false → quiet s.dev a 64 →
      (entryOk x.nextSeq bs = true → ∃ d : Dev, exec (.ringEntryRead c) s = .next { s with dev := d }
        ∧ (d.ctx c).readIdx = x.readIdx + 1 ∧ (d.ctx c).nextSeq = x.nextSeq + 1
        ∧ (∃ k, (d.ctx c).cmds.getLast? = some k ∧ k.entry = entryOf bs ∧ k.index = x.readIdx ∧ k.issued = false)
        ∧ (d.ctx c).cmds.length = x.cmds.length + 1
        ∧ (d.ctx c).lastSeq = x.lastSeq ∧ (d.ctx c).tail = x.tail ∧ d.mem = s.dev.mem ∧ d.fab = s.dev.fab)
      ∧ (entryOk x.nextSeq bs = false → x.steps = [] → ∃ d : Dev, exec (.ringEntryRead c) s = .next { s with dev := d }
        ∧ (d.ctx c).state = .holding ∧ (d.ctx c).cause = 1 ∧ (d.ctx c).readIdx = x.readIdx ∧ (d.ctx c).lastSeq = x.lastSeq))

/-! ### Mailbox commands (chapters 6, 7, 8, 9, 11, 15 and 16) -/

/-- CTX_CREATE of a CLOSED context (R163, R190): the context is OPEN with the ring and queue of its payload, the defaults of R14,
and LAST_SEQ just before FIRST_SEQ; its sluice state is as new. No other context changes. Completes: ctxCreate. -/
def Obligations.CreateOpensAContext : Prop :=
  ∀ (s : State) (p : List Byte), takes s.dev 0xC000 p → fieldAt p 0 1 < 16 → fieldAt p 1 1 < 64 →
    bitsOf (fieldAt p 1 1) 2 2 ≤ 2 → 6 ≤ fieldAt p 2 1 → fieldAt p 2 1 ≤ 16 → 6 ≤ fieldAt p 3 1 → fieldAt p 3 1 ≤ 16 →
    fieldAt p 4 4 ≤ 600000 → zeroAt p 28 4 = true → (s.dev.ctx (ctxOf p)).state = .closed →
    s.dev.placementOk (fieldAt p 8 8, 64 * 2 ^ fieldAt p 2 1) (fieldAt p 16 8, 32 * 2 ^ fieldAt p 3 1) = true →
    ∃ d : Dev, exec (.ctxCreate p) s = .next { s with dev := d } ∧ ended d stOk 0
      ∧ (d.ctx (ctxOf p)).state = .opened ∧ (d.ctx (ctxOf p)).flags = fieldAt p 1 1
      ∧ (d.ctx (ctxOf p)).watchdogMs = (if fieldAt p 4 4 = 0 then 2000 else fieldAt p 4 4)
      ∧ (d.ctx (ctxOf p)).ringBase = fieldAt p 8 8 ∧ (d.ctx (ctxOf p)).ringLog2 = fieldAt p 2 1
      ∧ (d.ctx (ctxOf p)).eqBase = fieldAt p 16 8 ∧ (d.ctx (ctxOf p)).eqLog2 = fieldAt p 3 1
      ∧ (d.ctx (ctxOf p)).head = 0 ∧ (d.ctx (ctxOf p)).tail = 0 ∧ (d.ctx (ctxOf p)).readIdx = 0
      ∧ (d.ctx (ctxOf p)).lastSeq = BitVec.ofNat 32 (fieldAt p 24 4) - 1 ∧ (d.ctx (ctxOf p)).cmds = []
      ∧ d.slc (ctxOf p) = {}
      ∧ (∀ c, c ≠ ctxOf p → d.ctx c = s.dev.ctx c ∧ d.slc c = s.dev.slc c)
      ∧ d.upd = s.dev.upd ∧ d.fab = s.dev.fab ∧ d.mxa = s.dev.mxa

/-- CTX_START, CTX_HOLD, CTX_RESUME and CTX_DRAIN in the states that R161 lets them run in: the change of state, the cause, and
what a pending hold becomes. Other contexts, shards, the fabric and the arrays stay as they were. Completes: ctxStart,
ctxHold, ctxResume, ctxDrain. CTX_RESET, CTX_REARM and CTX_CLOSE (R161, R182, R183, R189): a reset makes the context FAULTED,
and ends at once when no unit of it is left, else stays in the mailbox until CONTEXT_WORK_REMOVED; a rearm sets the ring
indices and LAST_SEQ; a close leaves the record of a context that was never created, and no shard of it. Completes: ctxReset,
ctxRearm, ctxClose. -/
def Obligations.ContextCommandsMoveAContext : Prop :=
  (
    ∀ (s : State) (p : List Byte), fieldAt p 0 1 < 16 →
      let c := ctxOf p
      let x := s.dev.ctx c
      let kept (d : Dev) : Prop := (∀ q, q ≠ c → d.ctx q = s.dev.ctx q) ∧ d.slcs = s.dev.slcs ∧ d.fab = s.dev.fab ∧ d.mxa = s.dev.mxa
      (takes s.dev 0xC001 p → zeroAt p 1 3 = true → x.state = .opened →
        ∃ d : Dev, exec (.ctxStart p) s = .next { s with dev := d } ∧ ended d stOk 0 ∧ kept d
          ∧ (d.ctx c).state = .running ∧ (d.ctx c).cause = 0 ∧ (d.ctx c).readIdx = x.readIdx ∧ d.upd = s.dev.upd)
      ∧ (takes s.dev 0xC002 p → zeroAt p 2 2 = true → x.state = .running →
        (fieldAt p 1 1 = 1 → ∃ d : Dev, exec (.ctxHold p) s = .next { s with dev := d } ∧ ended d stOk 0 ∧ kept d
          ∧ (d.ctx c).state = .holding ∧ (d.ctx c).cause = 0 ∧ (d.ctx c).cmds = x.cmds ∧ d.upd = s.dev.upd)
        ∧ (fieldAt p 1 1 = 0 → s.dev.stepOpen c = true →
          ∃ d : Dev, exec (.ctxHold p) s = .next { s with dev := d } ∧ ended d stOk 0 ∧ kept d
            ∧ d.ctx c = { x with holdPending := true } ∧ d.upd = s.dev.upd)
        ∧ (fieldAt p 1 1 = 0 → s.dev.stepOpen c = false → (∀ k ∈ x.cmds, k.issued = false) →
          ∃ d : Dev, exec (.ctxHold p) s = .next { s with dev := d } ∧ ended d stOk 0 ∧ kept d
            ∧ (d.ctx c).state = .holding ∧ (d.ctx c).cause = 2 ∧ (d.ctx c).holdPending = false))
      ∧ (takes s.dev 0xC003 p → zeroAt p 1 3 = true →
        (x.state = .holding → ∃ d : Dev, exec (.ctxResume p) s = .next { s with dev := d } ∧ ended d stOk 0 ∧ kept d
          ∧ (d.ctx c).state = .running ∧ (d.ctx c).stopRead = false ∧ (d.ctx c).lastSeq = x.lastSeq
          ∧ (∀ k ∈ x.cmds, k.ended = none → k ∈ (d.ctx c).cmds) ∧ ∀ k ∈ x.cmds, k.ended ≠ none → k.index ∈ (d.ctx c).again)
        ∧ (x.state = .running → x.holdPending = true → ∃ d : Dev, exec (.ctxResume p) s = .next { s with dev := d }
          ∧ ended d stOk 0 ∧ kept d ∧ d.ctx c = { x with holdPending := false }))
      ∧ (takes s.dev 0xC004 p → zeroAt p 1 3 = true → x.state = .running ∨ x.state = .holding →
        ∃ d : Dev, exec (.ctxDrain p) s = .next { s with dev := d } ∧ ended d stOk 0 ∧ kept d
          ∧ (d.ctx c).state = .draining ∧ (d.ctx c).cmds = x.cmds ∧ (d.ctx c).holdPending = false ∧ d.upd = s.dev.upd))
  ∧ (
    ∀ (s : State) (p : List Byte), fieldAt p 0 1 < 16 → zeroAt p 1 3 = true →
      let c := ctxOf p
      let x := s.dev.ctx c
      let i := BitVec.ofNat 32 (fieldAt p 4 4)
      let first := BitVec.ofNat 32 (fieldAt p 8 4)
      (takes s.dev 0xC005 p → x.state ≠ .closed → x.state ≠ .faulted →
        ∃ d : Dev, exec (.ctxReset p) s = .next { s with dev := d } ∧ (d.ctx c).state = .faulted ∧ (d.ctx c).holdPending = false
          ∧ (s.dev.unitsOf c = [] → s.dev.underReplay c = false → ended d stOk 0 ∧ ∀ k ∈ (d.ctx c).cmds, k.ended ≠ none)
          ∧ (d.unitsOf c ≠ [] → d.mbx.doorbell = true ∧ d.mbx.resetting = some c)
          ∧ ∀ q, q ≠ c → (d.ctx q).state = (s.dev.ctx q).state ∧ d.slc q = s.dev.slc q)
      ∧ (takes s.dev 0xC006 p → x.state = .faulted → (i - x.head).toNat ≤ (x.tail - x.head).toNat →
        ∃ d : Dev, exec (.ctxRearm p) s = .next { s with dev := d } ∧ ended d stOk 0
          ∧ (d.ctx c).state = .opened ∧ (d.ctx c).head = i ∧ (d.ctx c).readIdx = i ∧ (d.ctx c).nextSeq = first
          ∧ (d.ctx c).lastSeq = first - 1 ∧ (d.ctx c).cmds = [] ∧ (d.ctx c).tail = x.tail
          ∧ (d.ctx c).ringBase = x.ringBase ∧ (d.ctx c).eqBase = x.eqBase
          ∧ (∀ q, q ≠ c → (d.ctx q).state = (s.dev.ctx q).state ∧ (d.ctx q).cmds = (s.dev.ctx q).cmds ∧ d.slc q = s.dev.slc q)
          ∧ (d.slc c).step = (s.dev.slc c).step ∧ (d.slc c).attempt = (s.dev.slc c).attempt ∧ (d.slc c).epoch = (s.dev.slc c).epoch
          ∧ (d.slc c).stepState = (s.dev.slc c).stepState ∧ (d.slc c).records = (s.dev.slc c).records
          ∧ ∀ m ∈ d.meter.flying, m.1 ≠ c)
      ∧ (takes s.dev 0xC007 p → x.state = .opened ∨ x.state = .faulted →
        ∃ d : Dev, exec (.ctxClose p) s = .next { s with dev := d } ∧ ended d stOk 0
          ∧ d.ctx c = {} ∧ (∀ e ∈ d.upd.shards, e.2.ctx ≠ c) ∧ (∀ j ∈ d.red.jobs, j.ctx ≠ c)
          ∧ (d.slc c).records = (s.dev.slc c).records
          ∧ ∀ q, q ≠ c → (d.ctx q).state = (s.dev.ctx q).state ∧ (d.ctx q).cmds = (s.dev.ctx q).cmds ∧ d.slc q = s.dev.slc q))

/-- R161, R162, R12: in any other state a context command ends with STATE_REJECT and that state in VENDOR_STATUS, and has no side
effect but the event that tells the host. -/
def Obligations.OtherStatesRejectContextCommands : Prop :=
  ∀ (s : State) (p : List Byte), fieldAt p 0 1 < 16 → zeroAt p 1 3 = true →
    let c := ctxOf p
    let x := s.dev.ctx c
    ∀ i op, takes s.dev op p →
      (i = .ctxStart p ∧ op = 0xC001 ∧ x.state ≠ .opened)
      ∨ (i = .ctxHold p ∧ op = 0xC002 ∧ x.state ≠ .running)
      ∨ (i = .ctxResume p ∧ op = 0xC003 ∧ x.state ≠ .holding ∧ (x.state = .running → x.holdPending = false))
      ∨ (i = .ctxDrain p ∧ op = 0xC004 ∧ x.state ≠ .running ∧ x.state ≠ .holding)
      ∨ (i = .ctxReset p ∧ op = 0xC005 ∧ (x.state = .closed ∨ x.state = .faulted))
      ∨ (i = .ctxRearm p ∧ op = 0xC006 ∧ x.state ≠ .faulted)
      ∨ (i = .ctxClose p ∧ op = 0xC007 ∧ x.state ≠ .opened ∧ x.state ≠ .faulted) →
      ∃ d : Dev, exec i s = .next { s with dev := d } ∧ ended d stReject x.state.code
        ∧ (d.ctx c).state = x.state ∧ (d.ctx c).cmds = x.cmds ∧ (d.ctx c).lastSeq = x.lastSeq
        ∧ (∀ q, q ≠ c → d.ctx q = s.dev.ctx q) ∧ d.slcs = s.dev.slcs ∧ d.upd = s.dev.upd ∧ d.fab = s.dev.fab

/-- ARRAY_RETIRE, ARRAY_RECAL, PC_RETIRE, FW_ACTIVATE and UCODE_LOAD end once a slot has taken the request (R191, R413, R419), and
MBX_SVC_FREE frees a slot whose service has ended (R191) and no other. Completes: arrayRetire, arrayRecal, pcRetire,
fwActivate, ucodeLoad, mbxSvcFree. -/
def Obligations.ServiceRequestsTakeASlot : Prop :=
  ∀ (s : State) (p : List Byte) (n : Fin 8), s.dev.freeSlot = some n →
    let a := fieldAt p 0 1
    let took (d : Dev) (op target : Nat) : Prop :=
      d = { s.dev with mbx := d.mbx, out := d.out } ∧ ended d stOk 0
        ∧ d.mbx.slots = s.dev.mbx.slots.set n { opcode := op, target := target, phase := 1 }
    (takes s.dev 0xC010 p → zeroAt p 1 3 = true → a < 64 → s.dev.serviceFor 0xC010 a = false → s.dev.arrayGone a = false →
      1 < s.dev.arraysLeft → ∃ d : Dev, exec (.arrayRetire p) s = .next { s with dev := d } ∧ took d 0xC010 a)
    ∧ (takes s.dev 0xC011 p → zeroAt p 1 3 = true → a < 64 → s.dev.recalFor a = false →
      s.dev.serviceFor 0xC010 a = false → s.dev.arrayGone a = false →
      ∃ d : Dev, exec (.arrayRecal p) s = .next { s with dev := d } ∧ took d 0xC011 a)
    ∧ (takes s.dev 0xC012 p → zeroAt p 2 2 = true → a < 32 → fieldAt p 1 1 < 12 → s.dev.pcGone (fieldAt p 1 1) a = false →
      s.dev.rsv.windows.toList.getD (fieldAt p 1 1) 0 + s.dev.retirementsWaiting (fieldAt p 1 1) < 4 →
      ∃ d : Dev, exec (.pcRetire p) s = .next { s with dev := d } ∧ took d 0xC012 (256 * fieldAt p 1 1 + a))
    ∧ (takes s.dev 0xC141 p → zeroAt p 0 4 = true → s.dev.activationPending = false → s.dev.sec.staged = true →
      s.dev.sec.stagedCold = false → ∃ d : Dev, exec (.fwActivate p) s = .next { s with dev := d } ∧ took d 0xC141 0)
    ∧ (takes s.dev 0xC148 p → zeroAt p 2 2 = true → a = 3 ∨ a = 4 → fieldAt p 1 1 < 16 →
      (s.dev.engine a (fieldAt p 1 1)).service = false → (s.dev.engine a (fieldAt p 1 1)).replay = none →
      ∃ d : Dev, exec (.ucodeLoad p) s = .next { s with dev := d } ∧ took d 0xC148 (256 * a + fieldAt p 1 1))
    ∧ (∀ m : Fin 8, exec (.mbxSvcFree m) s = .next (if (s.dev.mbx.slots[m]).phase = 3
        then { s with dev := { s.dev with mbx := { s.dev.mbx with slots := s.dev.mbx.slots.set m {} } } } else s))

/-- FW_STAGE, FW_COMMIT and FW_QUERY (R412, R415, R419, R435, R436). A staged image is verified first, and one that fails leaves
the slots as they were; a commit raises the fuses to the image's SVN and moves the boot default; a query changes nothing.
Completes: fwStage, fwCommit, fwQuery. FIRMWARE_CORE_SWITCH (R413, R414): the cores switch in their order; with the fourth the
staged image runs; a failed self-test of the first ends the activation with TIMEOUT, a later one makes the cores return. A
core out of turn changes nothing. Completes: firmwareCoreSwitch. -/
def Obligations.FirmwareIsStagedAndSwitched : Prop :=
  (
    ∀ (s : State) (p : List Byte),
      let a := fieldAt p 0 8
      let n := fieldAt p 8 8
      let cold := bitOf (fieldAt p 16 1) 0
      let img := readCells s.dev.mem.cells a n
      (takes s.dev 0xC140 p → fieldAt p 16 1 ≤ 1 → zeroAt p 17 7 = true → aligned a 4096 = true → 1 ≤ n → n ≤ 4 * 1024 * 1024 →
        s.dev.slowStatus a n = stOk → s.dev.activationPending = false → quiet s.dev a n →
        (s.dev.verify img ≠ stOk → ∃ d : Dev, exec (.fwStage p) s = .next { s with dev := d }
          ∧ ended d (s.dev.verify img) 0 ∧ d.sec = s.dev.sec)
        ∧ (s.dev.verify img = stOk → cold = true ∨ fieldAt img 18 2 ≤ s.dev.sec.runHandoff →
          s.dev.sec.runSlot = s.dev.sec.bootDefault → ∃ d : Dev, exec (.fwStage p) s = .next { s with dev := d }
            ∧ ended d stOk 0
            ∧ d.sec = { s.dev.sec.setImage s.dev.sec.otherSlot img with staged := true, stagedCold := cold }
            ∧ d = { s.dev with sec := d.sec, mbx := d.mbx, out := d.out }))
      ∧ (takes s.dev 0xC142 p → zeroAt p 0 4 = true → s.dev.activationPending = false →
        let slot := if s.dev.sec.staged && s.dev.sec.stagedCold then s.dev.sec.otherSlot else s.dev.sec.runSlot
        slot ≠ s.dev.sec.bootDefault → ∃ d : Dev, exec (.fwCommit p) s = .next { s with dev := d } ∧ ended d stOk 0
          ∧ d = { s.dev with sec := d.sec, mbx := d.mbx, out := d.out }
          ∧ d.sec = { s.dev.sec with
              svnFuses := max s.dev.sec.svnFuses (imgSvn (s.dev.sec.image slot)), bootDefault := slot })
      ∧ (takes s.dev 0xC143 p → ∃ d : Dev, exec (.fwQuery p) s = .next { s with dev := d } ∧ ended d stOk 0
          ∧ d = { s.dev with mbx := d.mbx, out := d.out }
          ∧ d.mbx.payload.take 2 = toLe 1 s.dev.sec.runSlot ++ toLe 1 s.dev.sec.bootDefault))
  ∧ (
    ∀ (s : State) (core : Fin 4) (ok : Bool) (i : Fin 8), s.dev.serviceSlot 0xC141 0 = some i → s.dev.sec.reverting = false →
      let n := s.dev.sec.activating.getD 0
      (switchOrder.getD n 4 ≠ core.val → exec (.firmwareCoreSwitch core ok) s = .next s)
      ∧ (switchOrder.getD n 4 = core.val → ∃ d : Dev, exec (.firmwareCoreSwitch core ok) s = .next { s with dev := d }
        ∧ (ok = true → n < 3 → d.sec = { s.dev.sec with activating := some (n + 1) } ∧ (d.mbx.slots[i]).phase = 2)
        ∧ (ok = true → n = 3 → d.sec.runSlot = s.dev.sec.otherSlot ∧ d.sec.staged = false
            ∧ d.sec.runVersion = imgVersion (s.dev.sec.image s.dev.sec.otherSlot) ∧ d.sec.bootDefault = s.dev.sec.bootDefault)
        ∧ (ok = false → n = 0 → d.sec.activating = none ∧ d.sec.runSlot = s.dev.sec.runSlot
            ∧ (d.mbx.slots[i]).phase = 3 ∧ (d.mbx.slots[i]).status = stTimeout)
        ∧ (ok = false → n ≠ 0 → d.sec = { s.dev.sec with reverting := true })
        ∧ d.mxa = s.dev.mxa ∧ d.upd = s.dev.upd ∧ d.rsv = s.dev.rsv))

/-- ATTEST_REPORT, RECOVERY_LOAD, RECOVERY_BOOT and DEVICE_RESET (R437, R440, R442, R443, R448): a report takes one leaf and is
written at its destination; recovery loads bytes into its buffer and boots an image that verifies; a device reset follows its
command, with the cause in SEC_RESET_CAUSE. Completes: attestReport, recoveryLoad, recoveryBoot, deviceReset. -/
def Obligations.SecurityCommands : Prop :=
  ∀ (s : State) (p : List Byte),
    (takes s.dev 0xC180 p →
      let a := fieldAt p 32 8
      let n := s.dev.reportLen
      aligned a 64 = true → n ≤ fieldAt p 40 8 → s.dev.slowStatus a n = stOk → s.dev.boot.keys = true → quiet s.dev a n →
      ∀ leaf sec, s.dev.sec.takeLeaf = some (leaf, sec) →
        ∃ d : Dev, exec (.attestReport p) s = .next { s with dev := d } ∧ ended d stOk 0 ∧ d.sec = sec
          ∧ readCells d.mem.cells a 32 = padTo 32 (p.take 32)
          ∧ (∀ b, b < a ∨ a + n ≤ b → byteAt d.mem.cells b = byteAt s.dev.mem.cells b)
          ∧ d.ctxs = s.dev.ctxs ∧ d.upd = s.dev.upd ∧ d.fab = s.dev.fab)
    ∧ (takes s.dev 0xC181 p → s.dev.boot.recovery = true → fieldAt p 4 4 ≤ 4088 →
      fieldAt p 0 4 + fieldAt p 4 4 ≤ 4 * 1024 * 1024 →
      ∃ d : Dev, exec (.recoveryLoad p) s = .next { s with dev := d } ∧ ended d stOk 0
        ∧ (d.sec.recovery.drop (fieldAt p 0 4)).take (fieldAt p 4 4) = padTo (fieldAt p 4 4) (p.drop 8)
        ∧ d.sec.recovery.take (fieldAt p 0 4) = padTo (fieldAt p 0 4) s.dev.sec.recovery
        ∧ d = { s.dev with sec := { s.dev.sec with recovery := d.sec.recovery }, mbx := d.mbx, out := d.out })
    ∧ (takes s.dev 0xC182 p → s.dev.boot.recovery = true → fieldAt p 0 4 ≤ 4 * 1024 * 1024 →
      let img := padTo (fieldAt p 0 4) s.dev.sec.recovery
      (s.dev.verify img ≠ stOk → ∃ d : Dev, exec (.recoveryBoot p) s = .next { s with dev := d }
        ∧ ended d (s.dev.verify img) 0 ∧ d.sec = s.dev.sec)
      ∧ (s.dev.verify img = stOk → ∃ d : Dev, exec (.recoveryBoot p) s = .next { s with dev := d }
        ∧ d.sec.slotA = img ∧ d.sec.bootDefault = 0 ∧ d.boot.resetCause = 4 ∧ d.boot.recovery = false
        ∧ d.sec.svnFuses = s.dev.sec.svnFuses))
    ∧ (takes s.dev 0xC188 p → fieldAt p 0 1 = 1 → ∃ d : Dev, exec (.deviceReset p) s = .next { s with dev := d }
        ∧ d.boot.resetCause = 3 ∧ d.boot.resetCount = satTo 0xFFFF (s.dev.boot.resetCount + 1)
        ∧ d.boot.imageOk = false ∧ d.boot.active = false ∧ (∀ b, byteAt d.mem.cells b = 0) ∧ (∀ c, (d.ctx c).state = .closed)
        ∧ d.sec.bootDefault = s.dev.sec.bootDefault ∧ d.sec.svnFuses = s.dev.sec.svnFuses
        ∧ d.meter.energyMwh = s.dev.meter.energyMwh)

/-- The standard commands of R429, and opcodes that no table assigns (R188, R429): their return codes and responses are as log 9
says (PRESUMED); of the device they change only the mailbox, whose timestamp Set Timestamp sets and Get Timestamp reads.
Completes: identify, getEventRecords, clearEventRecords, getTimestamp, setTimestamp, getSupportedLogs, getLog,
identifyMemoryDevice, unsupportedStandardOpcode, unassignedVendorOpcode. -/
def Obligations.StandardAndUnassignedOpcodes : Prop :=
  ∀ (s : State) (p : List Byte) (op : W16),
    let only (d : Dev) (st : Nat) : Prop := d = { s.dev with mbx := d.mbx, out := d.out } ∧ ended d st 0
      ∧ d.mbx.timestamp = s.dev.mbx.timestamp ∧ d.mbx.slots = s.dev.mbx.slots
    (takes s.dev 0x0001 p → ∃ d : Dev, exec (.identify p) s = .next { s with dev := d } ∧ only d cxlSuccess)
    ∧ (takes s.dev 0x0100 p → ∃ d : Dev, exec (.getEventRecords p) s = .next { s with dev := d } ∧ only d cxlSuccess)
    ∧ (takes s.dev 0x0101 p → ∃ d : Dev, exec (.clearEventRecords p) s = .next { s with dev := d } ∧ only d cxlSuccess)
    ∧ (takes s.dev 0x0300 p → ∃ d : Dev, exec (.getTimestamp p) s = .next { s with dev := d } ∧ ended d cxlSuccess 0
        ∧ d = { s.dev with mbx := d.mbx, out := d.out } ∧ d.mbx.payload.take 8 = toLe 8 s.dev.timestamp)
    ∧ (takes s.dev 0x0301 p → ∃ d : Dev, exec (.setTimestamp p) s = .next { s with dev := d } ∧ ended d cxlSuccess 0
        ∧ d = { s.dev with mbx := d.mbx, out := d.out } ∧ d.clk = s.dev.clk
        ∧ d.mbx.timestamp = fieldAt p 0 8 ∧ d.timestamp = fieldAt p 0 8)
    ∧ (takes s.dev 0x0400 p → ∃ d : Dev, exec (.getSupportedLogs p) s = .next { s with dev := d } ∧ only d cxlSuccess)
    ∧ (takes s.dev 0x0401 p → ∃ d : Dev, exec (.getLog p) s = .next { s with dev := d } ∧ only d cxlSuccess)
    ∧ (takes s.dev 0x4000 p → ∃ d : Dev, exec (.identifyMemoryDevice p) s = .next { s with dev := d } ∧ only d cxlSuccess)
    ∧ (takes s.dev op.toNat p → op.toNat < 0xC000 → standardOpcodes.contains op.toNat = false →
      ∃ d : Dev, exec (.unsupportedStandardOpcode op p) s = .next { s with dev := d } ∧ only d cxlUnsupported)
    ∧ (takes s.dev op.toNat p → 0xC000 ≤ op.toNat → vendorCommand op.toNat = none → ∃ d : Dev, exec (.unassignedVendorOpcode op p) s = .next { s with dev := d } ∧ only d stBadArg)

/-- SHARD_REGISTER, SHARD_QUERY and SHARD_RELEASE (R193 to R199, R223): a registered shard is UNSEEDED with the fields of its
payload and its slot size in the response; a query reads the shard's record and changes nothing of it; a release removes the
shard, unless it is STAGED (then BUSY). Other shards and all memory stay as they were. Completes: shardRegister, shardQuery,
shardRelease. -/
def Obligations.ShardsAreRegisteredQueriedAndReleased : Prop :=
  ∀ (s : State) (p : List Byte), fieldAt p 0 1 < 16 →
    let c := ctxOf p
    let st := (s.dev.ctx c).state
    let only (d : Dev) : Prop := d = { s.dev with upd := d.upd, mbx := d.mbx, out := d.out }
    (takes s.dev 0xC040 p → registerOkPayload p = true → st = .opened ∨ st = .holding →
      let x := shardOfPayload p
      let h := fieldAt p 4 2
      s.dev.shard? h = none → x.formOk = true → s.dev.areaOk x.slot0 x.slotSize = true → s.dev.areaOk x.slot1 x.slotSize = true →
      overlaps x.slot0 x.slotSize x.slot1 x.slotSize = false → unitOf x.slot0 = unitOf x.slot1 → s.dev.upd.shards.length < 65536 →
      ∃ d : Dev, exec (.shardRegister p) s = .next { s with dev := d } ∧ ended d stOk 0 ∧ only d
        ∧ d.upd = { s.dev.upd with shards := insertKey h x s.dev.upd.shards } ∧ x.state = .unseeded ∧ x.live = 0 ∧ x.ctx = c
        ∧ d.mbx.payload.take 8 = toLe 8 x.slotSize)
    ∧ (∀ x, s.dev.shard? (fieldAt p 2 2) = some x → x.ctx = c → zeroAt p 1 1 = true →
      (takes s.dev 0xC042 p → st ≠ .closed →
        ∃ d : Dev, exec (.shardQuery p) s = .next { s with dev := d } ∧ ended d stOk 0 ∧ only d ∧ d.upd = s.dev.upd
          ∧ fieldAt d.mbx.payload 0 1 = x.state.code ∧ fieldAt d.mbx.payload 8 8 = x.step.toNat)
      ∧ (takes s.dev 0xC041 p → st = .opened ∨ st = .holding ∨ st = .faulted → s.dev.enrol? (fieldAt p 2 2) = none →
        (x.state = .staged → ∃ d : Dev, exec (.shardRelease p) s = .next { s with dev := d } ∧ ended d stBusy 0 ∧ only d
          ∧ d.upd = s.dev.upd)
        ∧ (x.state ≠ .staged → s.dev.exporting (fieldAt p 2 2) = false → s.dev.importing (fieldAt p 2 2) = false →
          ∃ d : Dev, exec (.shardRelease p) s = .next { s with dev := d } ∧ ended d stOk 0 ∧ only d
            ∧ d.upd = { s.dev.upd with shards := s.dev.upd.shards.filter fun e => e.1 != fieldAt p 2 2 })))

/-- RING_SET and OUTCOME_QUERY (R228 to R230, R254): a ring is set from its member list, keeps loss scale and agreed scales, and
answers the membership check; a step state other than IDLE ends it with BUSY and no change. A query answers what R254 says of
a step up to SLC_EPOCH, of SLC_STEP and of one above it, and changes nothing of the sluice unless the step is IN_DOUBT, whose
outcome it asks for (R243). Completes: ringSet, outcomeQuery. CTX_ADOPT and COMMITTED_STATE_READ (R419): an adoption installs
SLC_EPOCH, loss scale and agreed scales of its source, with SLC_STEP one after SLC_EPOCH; a source that is CLOSED gives
BAD_ARG and one that does not answer TIMEOUT, with the sluice as it was. Unit 17 answers a source request with the committed
state, and changes nothing. Completes: ctxAdopt, committedStateRead. -/
def Obligations.RingsAreSetAndStateIsAdopted : Prop :=
  (
    ∀ (s : State) (p : List Byte), fieldAt p 0 1 < 16 →
      let c := ctxOf p
      let st := (s.dev.ctx c).state
      let x := s.dev.slc c
      (takes s.dev 0xC081 p → ringOkPayload p = true → st = .opened ∨ st = .holding →
        let n := fieldAt p 4 4
        let a := fieldAt p 16 8
        let bs := readCells s.dev.mem.cells a (4 * n)
        let tag : W32 := BitVec.ofNat 32 (fieldAt p 12 4)
        s.dev.slowStatus a (4 * n) = stOk →
        (x.stepState ≠ .idle → ∃ d : Dev, exec (.ringSet p) s = .next { s with dev := d } ∧ ended d stBusy 0
          ∧ d = { s.dev with mbx := d.mbx, out := d.out })
        ∧ (x.stepState = .idle → quiet s.dev a (4 * n) → s.dev.membersOk c (fieldAt p 8 4) (memberList n bs) = true →
          ∃ d : Dev, exec (.ringSet p) s = .next { s with dev := d } ∧ ended d stOk 0
            ∧ d = { s.dev with slcs := d.slcs, sip := { s.dev.sip with ready := d.sip.ready }, mbx := d.mbx, out := d.out }
            ∧ (d.slc c).isSet = true ∧ (d.slc c).count = n ∧ (d.slc c).index = fieldAt p 8 4 ∧ (d.slc c).tag = tag
            ∧ (d.slc c).members = memberList n bs ∧ (d.slc c).step = BitVec.ofNat 64 (fieldAt p 24 8)
            ∧ (d.slc c).check = shaCheck (toLe 4 tag.toNat ++ toLe 4 n ++ bs)
            ∧ (d.slc c).ls = x.ls ∧ (d.slc c).scale = x.scale ∧ (d.slc c).epoch = x.epoch
            ∧ fieldAt d.mbx.payload 0 8 = (d.slc c).check.toNat ∧ ∀ q, q ≠ c → d.slc q = s.dev.slc q))
      ∧ (takes s.dev 0xC080 p → zeroAt p 1 7 = true → st ≠ .closed →
        let n : W64 := BitVec.ofNat 64 (fieldAt p 8 8)
        (x.stepState = .inDoubt → n = x.step → ∃ d : Dev, exec (.outcomeQuery p) s = .next { s with dev := d } ∧ ended d stOk 0
          ∧ fieldAt d.mbx.payload 1 1 = 3 ∧ fieldAt d.mbx.payload 8 8 = x.epoch.toNat
          ∧ (d.slc c).queried = (x.queried || decide (1 < x.count)) ∧ (d.slc c).stepState = .inDoubt ∧ d.upd = s.dev.upd ∧ d.mem = s.dev.mem)
        ∧ (x.stepState ≠ .inDoubt ∨ n ≠ x.step → ∃ d : Dev, exec (.outcomeQuery p) s = .next { s with dev := d } ∧ ended d stOk 0
          ∧ d = { s.dev with mbx := d.mbx, out := d.out, free := d.free }
          ∧ fieldAt d.mbx.payload 1 1 = x.stepState.code ∧ fieldAt d.mbx.payload 8 8 = x.epoch.toNat
          ∧ (x.epoch ≠ noStep → n.toNat ≤ x.epoch.toNat → fieldAt d.mbx.payload 0 1 = 1)
          ∧ (x.epoch = noStep ∨ x.epoch.toNat < n.toNat →
            (n = x.step → x.stepState ≠ .idle → fieldAt d.mbx.payload 0 1 = 0 ∧ fieldAt d.mbx.payload 4 4 = x.attempt.toNat)
            ∧ (n = x.step → x.stepState = .idle → x.attempt ≠ 0 →
              fieldAt d.mbx.payload 0 1 = 2 ∧ fieldAt d.mbx.payload 4 4 = x.attempt.toNat - 1)
            ∧ (n = x.step → x.stepState = .idle → x.attempt = 0 → fieldAt d.mbx.payload 0 1 = 0 ∧ fieldAt d.mbx.payload 4 4 = 0)
            ∧ (n ≠ x.step → fieldAt d.mbx.payload 0 1 = 3)))))
  ∧ (
    ∀ (s : State) (p : List Byte), takes s.dev 0xC150 p → fieldAt p 0 1 < 16 → zeroAt p 1 3 = true → zeroAt p 7 1 = true →
      zeroAt p 8 8 = true → (s.dev.ctx (ctxOf p)).state = .opened → fieldAt p 4 4 % 2 ^ 20 ≠ s.dev.fab.id →
      let c := ctxOf p
      (∀ a : AdoptState, ∃ d : Dev, exec (.ctxAdopt p (.state a)) s = .next { s with dev := d } ∧ ended d stOk 0
        ∧ (d.slc c).epoch = a.epoch ∧ (d.slc c).step = a.epoch + 1 ∧ (d.slc c).scale = tableOf a.table
        ∧ (d.slc c).ls = { s := a.lsS, warm := a.lsWarm, clean := a.lsClean }
        ∧ (∀ q, q ≠ c → d.slc q = s.dev.slc q ∧ d.ctx q = s.dev.ctx q) ∧ d.upd = s.dev.upd ∧ d.fab = s.dev.fab)
      ∧ (∀ a st, (a = .closed ∧ st = stBadArg) ∨ (a = .silent ∧ st = stTimeout) →
        ∃ d : Dev, exec (.ctxAdopt p a) s = .next { s with dev := d } ∧ ended d st 0
          ∧ d = { s.dev with mbx := d.mbx, out := d.out })
      ∧ (∀ (src : Nat) (q : Fin 16), exec (.committedStateRead src q) s = .next { s with
          dev := s.dev.emit (.adoptAnswer src q.val (s.dev.committedState q)) }))

/-- TRN_ENROL and TRN_WITHDRAW (R326, R336, R339): an enrolled shard's anchors hold its live W and REM planes, its outer momenta
and feedback planes are zero; nothing outside the turnout area changes. A withdrawal ends the enrolment, or is BUSY while an
outer transaction has the shard staged. Completes: trnEnrol, trnWithdraw. -/
def Obligations.ShardsAreEnrolledAndWithdrawn : Prop :=
  ∀ (s : State) (p : List Byte), fieldAt p 0 1 < 16 →
    let c := ctxOf p
    let st := (s.dev.ctx c).state
    let h := fieldAt p 2 2
    (∀ x, takes s.dev 0xC0C8 p → enrolOkPayload p = true → st = .opened ∨ st = .holding → s.dev.shard? h = some x →
      let ps := partnersOf p
      let a := fieldAt p 8 8
      let l := s.dev.staleOf c
      let n := areaBytes x.size ps.length l
      let sites := ps.map fun q => siteOf q.fid
      let e : Enrol := { handle := h, ctx := c, firstRound := fieldAt p 4 4, area := a, partners := ps }
      x.ctx = c → x.lost = false → x.state = .seeded → s.dev.enrol? h = none → aligned x.cols 32 = true →
      (∀ q ∈ ps, s.dev.sideStatus false [(localOf q.recv, (l + 1) * deltaPitch x.size)] = stOk) →
      siteOf s.dev.fab.id ∉ sites → sites.Nodup → s.dev.areaOk a n = true → unitOf a = x.home → s.dev.areaTaken a n = false →
      n ≤ fieldAt p 16 8 → freeRanges s.dev [(x.liveBase, x.slotSize), (a, n)] → cleanMemory s.dev →
      ∃ d : Dev, exec (.trnEnrol p) s = .next { s with dev := d } ∧ ended d stOk 0
        ∧ d.trn.enrols = s.dev.trn.enrols ++ [e] ∧ fieldAt d.mbx.payload 0 8 = n
        ∧ (∀ i, i < 2 →
          readCells d.mem.cells (e.plane x.size l i) (2 * x.size) = readCells s.dev.mem.cells (x.liveBase + x.planeOff 0) (2 * x.size)
          ∧ readCells d.mem.cells (e.plane x.size l i + alignUp (2 * x.size) 4096) x.size
            = readCells s.dev.mem.cells (x.liveBase + x.planeOff 1) x.size)
        ∧ (∀ i, 2 ≤ i → i < 6 → readCells d.mem.cells (e.plane x.size l i) (2 * x.size) = List.replicate (2 * x.size) 0)
        ∧ (∀ b, b < a ∨ a + n ≤ b → byteAt d.mem.cells b = byteAt s.dev.mem.cells b)
        ∧ d = { s.dev with trn := d.trn, mem := d.mem, mbx := d.mbx, out := d.out })
    ∧ (∀ e, takes s.dev 0xC0C9 p → zeroAt p 1 1 = true → st = .opened ∨ st = .holding ∨ st = .faulted →
      s.dev.enrol? h = some e → e.ctx = c →
      (e.applyStaged = true → ∃ d : Dev, exec (.trnWithdraw p) s = .next { s with dev := d } ∧ ended d stBusy 0
        ∧ d.trn = s.dev.trn ∧ d.upd = s.dev.upd ∧ d.mem = s.dev.mem)
      ∧ (e.applyStaged = false → ∃ d : Dev, exec (.trnWithdraw p) s = .next { s with dev := d } ∧ ended d stOk 0
        ∧ d.enrol? h = none ∧ d.upd = s.dev.upd ∧ d.mem = s.dev.mem))

/-! ### Units of work (chapters 2, 4, 5 and 7) -/

/-- UNIT_DISPATCH (R167): the next unit of an issued command of a RUNNING or DRAINING context goes to an instance that takes it,
that suits it, and whose quadrant admits it; to a memory controller goes the lowest entry that it is home of. Completes:
unitDispatch. -/
def Obligations.UnitsGoToEngines : Prop :=
  ∀ (s : State) (c : Fin 16) (seq : W32) (inst : Nat) (k : Cmd), (s.dev.ctx c).cmd? seq = some k → k.hasUnit = true →
    (s.dev.ctx c).state = .running ∨ (s.dev.ctx c).state = .draining →
    let cls := engineOf k.entry.opcode
    let went (d : Dev) (i : Nat) : Prop := d.dispatched = s.dev.dispatched + 1
      ∧ (d.engine cls inst).units = (s.dev.engine cls inst).units ++ [s.dev.newUnit c seq i cls inst]
    (s.dev.engine cls inst).takes = true → s.dev.admitted cls inst = true →
    (cls < 4 → inst < instances cls → s.dev.suits k cls inst k.takeUnit.1 = true →
      ∃ d : Dev, exec (.unitDispatch c seq inst) s = .next { s with dev := d } ∧ went d k.takeUnit.1
        ∧ (d.ctx c).cmd? seq = some k.takeUnit.2 ∧ d.mem = s.dev.mem ∧ d.upd = s.dev.upd ∧ d.fab = s.dev.fab)
    ∧ (cls = 4 → inst < 16 → k.lastWaits k.takeUnit.1 = false →
      (stageArgs k.args).any (fun a => k.entry.opcode == opStage && a.receive) = false →
      ∃ d : Dev, exec (.unitDispatch c seq inst) s = .next { s with dev := d } ∧ d.dispatched = s.dev.dispatched + 1
        ∧ ((s.dev.engine 4 inst).units ≠ [] → went d k.takeUnit.1 ∧ (d.ctx c).cmd? seq = some k.takeUnit.2
            ∧ d.mem = s.dev.mem ∧ d.upd = s.dev.upd ∧ d.fab = s.dev.fab))
    ∧ (cls = 5 → inst < 16 → ∀ i, s.dev.entryFor c k inst = some i →
      ∃ d : Dev, exec (.unitDispatch c seq inst) s = .next { s with dev := d } ∧ went d i
        ∧ d.mem = s.dev.mem ∧ d.ctxs = s.dev.ctxs ∧ d.upd = s.dev.upd ∧ d.fab = s.dev.fab)

/-- ARRAY_PASS_COMPLETE, FLUME_PASS_COMPLETE and VECTOR_CHUNK_COMPLETE (R41 to R45, R60 to R62, R121, R122), with the operands
read from memory without errors and no saturation on the way: a pass but the last keeps its sums and asks for the next; the
last pass of a tile, a flume's pass and a chunk write their results. A suppressed unit ends with nothing written (R44, R121).
Completes: arrayPassComplete, flumePassComplete, vectorChunkComplete. CULVERT_PIECE_COMPLETE and EXPORT_COMPLETE (R154, R156,
R218): a piece of a MOVE, SIPHON_SAVE, SIPHON_LOAD or SHARD_EXPORT with both sides on this device, whose memory is free and
without errors, writes what the piece builds from what it reads; EXPORT_COMPLETE is that of the descriptor. Completes:
culvertPieceComplete, exportComplete. -/
def Obligations.UnitsWriteTheirResults : Prop :=
  (
    ∀ (s : State) (u : UnitRef) (k : Cmd),
      let runs (cls inst : Nat) : Prop := (s.dev.engine cls inst).units.head? = some u
      let works (cls inst : Nat) : Prop := runs cls inst ∧ u.suppressed = false ∧ (s.dev.ctx u.ctx).cmd? u.seq = some k ∧ goingOn k
        ∧ cleanMemory s.dev
      (∀ a : Fin 64, runs 1 a.val → u.suppressed = true →
        exec (.arrayPassComplete a) s = .next { s with dev := s.dev.popUnit 1 a.val u.ctx })
      ∧ (∀ f : Fin 4, runs 2 f.val → u.suppressed = true →
        exec (.flumePassComplete f) s = .next { s with dev := s.dev.popUnit 2 f.val u.ctx })
      ∧ (∀ e : Fin 16, runs 3 e.val → u.suppressed = true →
        exec (.vectorChunkComplete e) s = .next { s with dev := s.dev.popUnit 3 e.val u.ctx })
      ∧ (∀ (a : Fin 64) (x : ArrayArgs), works 1 a.val → arrayArgs k.args = some x →
        let mode := x.fp (s.dev.ctx u.ctx).mode
        let n := lookupD u.idx 0 k.passes
        let (plane, _, bs) := x.pass n
        let (r, nr, c, nc) := x.tile u.idx
        let last := decide (n + 1 = x.passes)
        let v := viewed s.dev.mem (x.reads plane bs r nr c nc ++ if last then x.eReads r nr c nc else [])
        let (acc, sats) := x.runPass mode v u.idx n k.acc
        let (ws, more) := x.finishTile mode v u.idx acc
        (last = false → sats = 0 → k.allDone = false → ∃ d : Dev, exec (.arrayPassComplete a) s = .next { s with dev := d }
          ∧ d.mem = s.dev.mem ∧ (d.ctx u.ctx).cmd? u.seq = some { k with
              acc := acc, passes := insertKey u.idx (n + 1) k.passes, requeued := u.idx :: k.requeued })
        ∧ (last = true → sats + more = 0 → ∃ d : Dev, exec (.arrayPassComplete a) s = .next { s with dev := d }
          ∧ unitEnded s.dev d 1 a.val u { k.unitDone u.idx with
              acc := acc.filter fun e => e.1 / 32 != u.idx, passes := eraseKey u.idx k.passes } ws))
      ∧ (∀ (f : Fin 4) (x : ArrayArgs), works 2 f.val → arrayArgs k.args = some x →
        let mode := (s.dev.ctx u.ctx).mode
        let m := u.idx / 4
        let (c, nc) := x.flumeCols (u.idx % 4)
        let v := viewed s.dev.mem (x.reads 0 (List.range x.blocks) m 1 c nc ++ x.eReads m 1 c nc)
        let sums := x.addBlocks mode v 0 0 (cellsIn m 1 c nc) none (List.range x.blocks)
        let ts := (sums.zip (List.range nc)).map fun t => x.epilogue mode v 0 m (c + t.2) t.1
        let (ws, n) := x.rowWrites mode 0 m c (ts.map (·.bits))
        n + satsOf ts = 0 → ∃ d : Dev, exec (.flumePassComplete f) s = .next { s with dev := d }
          ∧ unitEnded s.dev d 2 f.val u (k.unitDone u.idx) (ws ++ if u.idx + 1 = 4 * x.m then x.padWrites 0 else []))
      ∧ (∀ (e : Fin 16) (x : VecArgs), works 3 e.val → vecArgs k.args = some x →
        let (ws, sats) := x.chunkWrites (s.dev.ctx u.ctx).mode (viewed s.dev.mem (x.chunkReads u.idx)) u.idx
        sats = 0 → ∃ d : Dev, exec (.vectorChunkComplete e) s = .next { s with dev := d }
          ∧ unitEnded s.dev d 3 e.val u (k.unitDone u.idx) ws))
  ∧ (
    ∀ (s : State) (e : Fin 16) (u : UnitRef) (k : Cmd) (p : Piece),
      (s.dev.engine 4 e.val).units.head? = some u → u.suppressed = false → (s.dev.ctx u.ctx).cmd? u.seq = some k → goingOn k →
      k.entry.opcode = opMove ∨ k.entry.opcode = opSave ∨ k.entry.opcode = opLoad ∨ k.entry.opcode = opExport →
      s.dev.pieceOf u.ctx k u.idx = some p → p.src = none → p.dst = none → cleanMemory s.dev → freeRanges s.dev p.local_ →
      let w := p.build (viewed s.dev.mem p.reads) (viewed s.dev.mem p.own)
      freeRanges s.dev (w.1.map fun x => (x.1, x.2.length)) → w.2 = 0 →
      ∃ d : Dev, exec (.culvertPieceComplete e) s = .next { s with dev := d }
        ∧ unitEnded s.dev d 4 e.val u (k.unitDone u.idx) w.1
        ∧ (k.entry.opcode = opExport → u.idx = k.total →
            (∀ j : Fin 16, j ≠ e → ∀ v, (s.dev.engine 4 j.val).units.head? = some v → v.ctx ≠ u.ctx ∨ v.seq ≠ u.seq) →
            exec (.exportComplete u.ctx u.seq) s = .next { s with dev := d }))

/-- UPDATE_ENTRY_RUN, UPDATE_ENTRY_COMPLETE and SLOW_TIER_STALL (R198, R202, R204, R206, R207, R209): an entry begins once its
gradient has frozen and nobody reads its slot; it writes the staging slot and the local working copies, and its shard is
STAGED with the live slot as it was; a wait past the limit is reported once. Completes: updateEntryRun, updateEntryComplete,
slowTierStall. -/
def Obligations.UpdateEntriesStageTheirShards : Prop :=
  ∀ (s : State),
    (∀ (e : Fin 16) (u : UnitRef) (q : Cmd), s.dev.entryAt e.val = some (u, q) →
      (u.began = false → (s.dev.engine 5 e.val).service = false → s.dev.entryReady u.ctx q u.idx = true →
        ∃ d : Dev, exec (.updateEntryRun e) s = .next { s with dev := d } ∧ d = { s.dev with ctl := d.ctl }
          ∧ (d.engine 5 e.val).units.head? = some { u with began := true, still := 0 })
      ∧ (u.began = true → goingOn q → q.entry.opcode = opUpdate → cleanMemory s.dev →
        ∀ x r, s.dev.shard? (q.handle u.idx) = some x → freeRanges s.dev (s.dev.entryRanges u.ctx q u.idx x) →
          s.dev.entryResult u.ctx q u.idx x = (s.dev, .ok r) → r.sats = 0 → (∀ a ∈ q.dests u.idx, s.dev.isOwn a = true) →
          let m := stores s.dev.mem r.writes
          let wc := readCells m.cells (x.stageBase + x.planeOff 5) (x.planes.getD 5 0)
          ∃ d : Dev, exec (.updateEntryComplete e) s = .next { s with dev := d }
            ∧ unitEnded s.dev d 5 e.val u (q.unitDone u.idx) (r.writes ++ (q.dests u.idx).map fun a => (localOf a, wc))
            ∧ d.shard? (q.handle u.idx) = some { x with
                state := .staged, byImport := false, report := some (r.gradZero, r.noChange) }
            ∧ ∀ h, h ≠ q.handle u.idx → d.shard? h = s.dev.shard? h))
    ∧ (∀ (c : Fin 16) (t : Nat), (s.dev.slc c).slowSince = some t → s.dev.upd.limitMs ≠ 0 → (s.dev.slc c).stallReported = false →
      t + msNs s.dev.upd.limitMs < s.dev.now →
      ∃ d : Dev, exec (.slowTierStall c) s = .next { s with dev := d } ∧ (d.slc c).stallReported = true
        ∧ d.upd.stallCtx = c.val ∧ d.upd.stallNew = true ∧ d.upd.stallMask = siteMask ((s.dev.lateHomes c).map (· - 12))
        ∧ d.upd.shards = s.dev.upd.shards ∧ (∀ q, q ≠ c → d.slc q = s.dev.slc q) ∧ d.fab = s.dev.fab)

/-! ### The cistern (chapter 17) -/

/-- JOURNAL_ENTRY_WRITE, CHECKPOINT_SHARD_WRITTEN, CHECKPOINT_MANIFEST_WRITE and RETENTION_SCRUB (R453 to R460): the oldest queued
entry goes to its ring under the next JSEQ; a captured shard goes to BUF or to flash, whole; a checkpoint is complete with its
manifest, and older ones than KEEP allows are freed; a scrub in its turn that finds nothing only notes when it was. Completes:
journalEntryWrite, checkpointShardWritten, checkpointManifestWrite, retentionScrub. -/
def Obligations.TheCisternWritesInTurn : Prop :=
  ∀ (s : State), s.dev.clk.refLost = false →
    (∀ c body r, s.dev.cis.state = cisReady → s.dev.cis.queue = (c, body) :: r →
      let j := s.dev.cis.jseq.toList.getD c 0
      exec .journalEntryWrite s = .next { s with dev := { s.dev with cis := { s.dev.cis with
        queue := r
        jseq := modVec s.dev.cis.jseq c (· + 1)
        journal := insertKey (65536 * c + j % 65536) (journalEntry j (s.dev.fab.id + 2 ^ 20 * c) body) s.dev.cis.journal } } })
    ∧ (s.dev.cis.queue = [] → exec .journalEntryWrite s = .next s)
    ∧ (∀ (c : Fin 16) (r : CkptRun) (h slot : Nat) (x : Shard) (pay : List Byte), s.dev.cis.runs[c] = some r →
      r.left.head? = some (h, slot) → s.dev.shard? h = some x → s.dev.readPayload x slot = (s.dev, .ok pay) →
      freeRanges s.dev [(x.slotBase slot, x.slotSize)] →
      let head := x.descriptor 0 slot r.ckpt.step (sha384 pay)
      (r.phase = 2 → r.copied = [] → s.dev.cis.state = cisReady → s.dev.flashFull c (head.length + pay.length) = false →
        ∃ (d : Dev) (q : CkptRun), exec (.checkpointShardWritten c) s = .next { s with dev := d }
          ∧ d = { s.dev with cis := d.cis } ∧ d.cis.runs[c] = some q ∧ q.left = r.left.drop 1
          ∧ q.ckpt = { r.ckpt with shards := r.ckpt.shards ++ [{ handle := h, descriptor := head, payload := pay }] }
          ∧ q.phase = if r.left.length ≤ 1 then 3 else 2)
      ∧ (r.phase = 1 → freeRanges s.dev [(r.buf + r.bufOff, (head ++ pay).length)] → cleanMemory s.dev →
        ∃ (d : Dev) (q : CkptRun), exec (.checkpointShardWritten c) s = .next { s with dev := d }
          ∧ d.mem = s.dev.mem.store (r.buf + r.bufOff) (head ++ pay) ∧ d.cis.runs[c] = some q ∧ q.left = r.left.drop 1
          ∧ q.copied = r.copied ++ [(h, (head ++ pay).length)] ∧ q.ckpt = r.ckpt ∧ q.phase = if r.left.length ≤ 1 then 2 else 1))
    ∧ (∀ (c : Fin 16) (r : CkptRun), s.dev.cis.runs[c] = some r → r.phase = 3 → s.dev.cis.state = cisReady →
      ∃ d : Dev, exec (.checkpointManifestWrite c) s = .next { s with dev := d } ∧ d.cis.runs[c] = none
        ∧ d.cis.ckpts = keepNewest r.ckpt.owner s.dev.cis.keep[c]
            ((s.dev.cis.ckpts.filter fun q => !(q.owner == r.ckpt.owner && q.step == r.ckpt.step)) ++ [r.ckpt])
        ∧ d.upd = s.dev.upd ∧ d.cis.journal = s.dev.cis.journal)
    ∧ (s.dev.cis.days ≠ 0 → s.dev.cis.state ≠ 0 → s.dev.passed s.dev.cis.scrubAt (s.dev.cis.days * 86400 * 1000000000) = true →
      exec (.retentionScrub [] []) s = .next { s with dev := { s.dev with cis := { s.dev.cis with scrubAt := s.dev.now } } }
      ∧ ∀ page, ∃ d : Dev, exec (.retentionScrub [page] []) s = .next { s with dev := d }
          ∧ d.cis.ueNew = true ∧ d.cis.uePage = bitsOf page 8 32 ∧ d.cis.ueChannel = bitsOf page 0 2
          ∧ d.cis.scrubAt = s.dev.now ∧ d.cis.queue = s.dev.cis.queue)

/-- CIS_INFO, CIS_FORMAT, CIS_CHECKPOINT, CIS_LIST, CIS_DISCARD, CIS_FETCH and CIS_JOURNAL_READ (R452, R455, R457, R459, R461):
what each answers, writes to the memory it was given, and changes of the cistern. The free space that CIS_INFO answers is a
free value no greater than the total (log 18). Completes: cisInfo, cisFormat, cisCheckpoint, cisList, cisDiscard, cisFetch,
cisJournalRead. -/
def Obligations.CisternCommands : Prop :=
  ∀ (s : State) (p : List Byte),
    let c := ctxOf p
    let placed (d : Dev) (a : Nat) (bs : List Byte) : Prop := ended d stOk 0 ∧ readCells d.mem.cells a bs.length = bs
      ∧ (∀ b, b < a ∨ a + bs.length ≤ b → byteAt d.mem.cells b = byteAt s.dev.mem.cells b)
      ∧ d = { s.dev with mem := d.mem, mbx := d.mbx, out := d.out }
    let free (a n : Nat) : Prop := freeRanges s.dev [(a, n)] ∧ s.dev.mem.marked a n = false
    (takes s.dev 0xC200 p → fieldAt p 0 1 < 16 → zeroAt p 1 3 = true →
      ∃ d : Dev, exec (.cisInfo p) s = .next { s with dev := d } ∧ ended d stOk 0
        ∧ d = { s.dev with mbx := d.mbx, out := d.out, free := s.dev.free + 1 }
        ∧ d.mbx.payload.take 8 = toLe 8 s.dev.cis.totalMib ∧ fieldAt d.mbx.payload 8 8 ≤ s.dev.cis.totalMib
        ∧ (d.mbx.payload.drop 16).take 8 = toLe 8 (s.dev.captureSize c))
    ∧ (takes s.dev 0xC201 p → fieldAt p 0 4 = 1 → (∀ q : Fin 16, s.dev.cis.runs[q] = none) → s.dev.cis.state ≠ 0 →
      s.dev.clk.refLost = false →
      ∃ d : Dev, exec (.cisFormat p) s = .next { s with dev := d } ∧ ended d stOk 0
        ∧ d = { s.dev with cis := d.cis, mbx := d.mbx, out := d.out }
        ∧ d.cis.journal = [] ∧ d.cis.ckpts = [] ∧ d.cis.jseq = Vector.replicate 16 0
        ∧ d.cis.state = if s.dev.cis.state = 3 then 3 else cisReady)
    ∧ (takes s.dev 0xC202 p → fieldAt p 0 1 < 16 → zeroAt p 1 7 = true → aligned (fieldAt p 8 8) 4096 = true → fidOf (fieldAt p 8 8) = 0 →
      fieldAt p 16 8 = 0 ∨ (s.dev.captureSize c ≤ fieldAt p 16 8 ∧ s.dev.slowStatus (fieldAt p 8 8) (fieldAt p 16 8) = stOk) →
      (s.dev.ctx c).state ≠ .closed → (s.dev.ctx c).state ≠ .faulted → (s.dev.slc c).epoch ≠ noStep → s.dev.shardsOf c ≠ [] →
      (∀ e ∈ s.dev.shardsOf c, e.2.state ≠ .unseeded ∧ e.2.lost = false) → s.dev.cis.runs[c] = none → s.dev.cis.state = cisReady →
      ∃ (d : Dev) (r : CkptRun), exec (.cisCheckpoint p) s = .next { s with dev := d } ∧ ended d stOk 0
        ∧ d.cis.runs[c] = some r ∧ r.phase = (if fieldAt p 16 8 = 0 then 2 else 1) ∧ r.left = (s.dev.shardsOf c).map (fun e => (e.1, e.2.live))
        ∧ r.ckpt.owner = s.dev.owner c ∧ r.ckpt.step = (s.dev.slc c).epoch ∧ r.ckpt.shards = []
        ∧ d.cis.ckpts = s.dev.cis.ckpts ∧ d.upd = s.dev.upd ∧ d.mem = s.dev.mem)
    ∧ (takes s.dev 0xC203 p → ownerOkPayload p = true → fidOf (fieldAt p 8 8) = 0 →
      let ks := sortBy (fun k => k.step.toNat) (s.dev.cis.ckpts.filter fun k => k.owner == s.dev.ownerOf p && !k.bad)
      let bs := (ks.take (fieldAt p 16 8 / 16)).flatMap fun k => toLe 8 k.step.toNat ++ toLe 8 k.bytes
      fieldAt p 16 8 = 0 ∨ s.dev.rangeStatus (fieldAt p 8 8) (fieldAt p 16 8) = stOk → free (fieldAt p 8 8) bs.length →
      ∃ d : Dev, exec (.cisList p) s = .next { s with dev := d } ∧ placed d (fieldAt p 8 8) bs
        ∧ d.mbx.payload.take 4 = toLe 4 ks.length)
    ∧ (takes s.dev 0xC204 p → ownerOkPayload p = true →
      let mine (k : Ckpt) : Bool := k.owner == s.dev.ownerOf p && k.step == BitVec.ofNat 64 (fieldAt p 8 8)
      s.dev.cis.ckpts.any mine = true → s.dev.clk.refLost = false →
        ∃ d : Dev, exec (.cisDiscard p) s = .next { s with dev := d } ∧ ended d stOk 0
        ∧ d = { s.dev with
            cis := { s.dev.cis with ckpts := s.dev.cis.ckpts.filter fun k => !mine k }
            mbx := d.mbx
            out := d.out })
    ∧ (takes s.dev 0xC205 p → ownerOkPayload p = true → zeroAt p 20 4 = true →
      ∀ k x, s.dev.ckpt? (s.dev.ownerOf p) (BitVec.ofNat 64 (fieldAt p 8 8)) = some k → k.shards[fieldAt p 16 4]? = some x →
        let bs := x.descriptor ++ x.payload
        bs.length ≤ fieldAt p 32 8 → s.dev.rangeStatus (fieldAt p 24 8) bs.length = stOk → free (fieldAt p 24 8) bs.length →
        (sha384 x.payload = (x.descriptor.drop 80).take 48 →
          ∃ d : Dev, exec (.cisFetch p) s = .next { s with dev := d } ∧ placed d (fieldAt p 24 8) bs)
        ∧ (sha384 x.payload ≠ (x.descriptor.drop 80).take 48 →
          ∃ d : Dev, exec (.cisFetch p) s = .next { s with dev := d } ∧ ended d stAuthFail 0 ∧ d.mem = s.dev.mem))
    ∧ (takes s.dev 0xC206 p → fieldAt p 0 1 < 16 → zeroAt p 1 3 = true → fieldAt p 4 4 ≠ 0 →
      fidOf (fieldAt p 16 8) = 0 →
      let n := min 65536 (fieldAt p 4 4)
      s.dev.rangeStatus (fieldAt p 16 8) (8192 * n) = stOk →
      let bs := s.dev.journalRead (fieldAt p 0 1) (fieldAt p 8 8) n
      free (fieldAt p 16 8) bs.length →
      ∃ d : Dev, exec (.cisJournalRead p) s = .next { s with dev := d } ∧ placed d (fieldAt p 16 8) bs)

/-- ROLLBACK (R252, R253): an OPEN context with a complete checkpoint of its own that holds every shard of it, verified, gets that
checkpoint's committed state: SLC_EPOCH, the step after it, the loss scale, and every shard SEEDED with that step's slot live.
Completes: rollback. -/
def Obligations.RollbackRestoresACheckpoint : Prop :=
  ∀ (s : State) (p : List Byte) (k : Ckpt),
    let c := ctxOf p
    let xs := s.dev.shardsOf c
    let slot := (k.step.toNat + 1) % 2
    takes s.dev 0xC082 p → fieldAt p 0 1 < 16 → zeroAt p 1 7 = true → (s.dev.ctx c).state = .opened →
    (s.dev.slc c).stepState = .idle ∨ (s.dev.slc c).stepState = .inDoubt → s.dev.cis.runs[c] = none → cisReady ≤ s.dev.cis.state →
    s.dev.ckpt? (s.dev.owner c) (BitVec.ofNat 64 (fieldAt p 8 8)) = some k →
    (∀ e ∈ xs, e.2.lost = false ∧ ∃ y g, k.match? e.2 = some y ∧ descriptorOf y.descriptor = some g
      ∧ s.dev.checkSource c e.1 false { e.2 with state := .unseeded, outBoxes := [] } g = stOk ∧ g.set = 0 ∧ g.len = y.payload.length) →
    k.verified (xs.filterMap fun e => k.match? e.2) = true →
    freeRanges s.dev (xs.map fun e => (e.2.slotBase slot, e.2.slotSize)) → cleanMemory s.dev →
    ∃ d : Dev, exec (.rollback p) s = .next { s with dev := d } ∧ ended d stOk 0
      ∧ (d.slc c).epoch = k.step ∧ (d.slc c).step = k.step + 1 ∧ (d.slc c).attempt = 0 ∧ (d.slc c).stepState = .idle
      ∧ (d.slc c).scale = mapOf k.table ∧ (d.slc c).lastRecord = some k.record ∧ (d.slc c).ls.s = fieldAt k.record 13 1
      ∧ (∀ e ∈ d.upd.shards, e.2.ctx = c → e.2.state = .seeded ∧ e.2.live = slot ∧ e.2.step = k.step)
      ∧ (∀ e ∈ d.trn.enrols, e.ctx ≠ c) ∧ (∀ q, q ≠ c → d.slc q = s.dev.slc q) ∧ d.cis.ckpts = s.dev.cis.ckpts

/-! ### The sluice and the end of a context's work (chapters 8 and 15) -/

/-- READY_MARK and TOKEN (R235, R239, R240): a device that meets every condition of R235 (a command that has ended is no longer an
outstanding one) is ready and its staging frozen; a ring of one commits at once, the warden of a larger one makes a token; a
member keeps a token until it is ready, then counts its vote and passes it on; the warden that has every vote proposes commit
to its deputy; a token of a later attempt is kept, and the outcome of the own one asked for (R244). Completes: readyMark,
token. QUERY, and the timers VOTE_TIMEOUT, QUERY_REPEAT, DECIDE_REPEAT and DEPUTY_SELF_ABORT (R240 to R243). A query for an
earlier attempt that no record is kept of is discarded (R244). Completes: query, voteTimeout, queryRepeat, decideRepeat,
deputySelfAbort. -/
def Obligations.ReadyVotesAndTheirTimers : Prop :=
  (
    ∀ (s : State) (c : Fin 16),
      let x := s.dev.slc c
      let req := s.dev.requirements c
      (s.dev.readyOk c = true ↔ x.stepState = .active ∧ x.stepEnded = true
        ∧ (∀ k ∈ (s.dev.ctx c).cmds, (s.dev.ctx c).spanPos k.index ≠ some 0) ∧ x.overflow = false ∧ x.ownAbort = none
        ∧ (∀ e ∈ s.dev.shardsOf c, e.2.imported = true → e.2.state = .staged)
        ∧ (∀ j ∈ s.dev.red.jobs, j.ctx = c → j.step = x.step → j.attempt = x.attempt → j.finished = true ∧ j.closed = false)
        ∧ ((s.dev.ctx c).state = .running ∨ (s.dev.ctx c).state = .draining))
      ∧ (s.dev.readyOk c = false → exec (.readyMark c) s = .next s)
      ∧ (s.dev.readyOk c = true → x.index = 0 → x.count ≤ 1 → x.proposal = none → nothingWithheld s.dev c →
        ∃ d : Dev, exec (.readyMark c) s = .next { s with dev := d }
          ∧ committedBy s.dev d c (x.outcome true false false 0 0 (BitVec.allOnes 32) req))
      ∧ (s.dev.readyOk c = true → x.index = 0 → 1 < x.count → ∃ d e : Dev, exec (.readyMark c) s = .next { s with dev := d }
          ∧ d = e.sendMember c 1 msgToken { e.message c with votes := 1, map := req }
          ∧ e = { s.dev with slcs := e.slcs } ∧ (e.slc c).stepState = .voted ∧ (e.slc c).frozen = true
          ∧ (e.slc c).readyAt = some s.dev.now ∧ (e.slc c).require = req ∧ ∀ q, q ≠ c → e.slc q = s.dev.slc q)
      ∧ (s.dev.readyOk c = true → x.index ≠ 0 → x.token = none → ∃ d : Dev, exec (.readyMark c) s = .next { s with dev := d }
          ∧ d = { s.dev with slcs := d.slcs } ∧ (d.slc c).stepState = .voted ∧ (d.slc c).frozen = true
          ∧ (d.slc c).readyAt = some s.dev.now ∧ (d.slc c).require = req)
      ∧ ∀ m, x.accepts m = true →
        (x.when m = .own → x.stepState = .idle ∨ x.stepState = .active →
          exec (.token c m) s = .next { s with dev := s.dev.modSlc c fun y => { y with token := some m } })
        ∧ (x.when m = .later → exec (.token c m) s = .next { s with
            dev := (s.dev.modSlc c fun y => { y with token := some m }).askNow c })
        ∧ (x.when m = .own → x.stepState = .repeatWait → exec (.token c m) s = .next s)
        ∧ (x.when m = .earlier → exec (.token c m) s = .next s)
        ∧ (x.when m = .own → votedReady s.dev c → x.index ≠ 0 → exec (.token c m) s = .next { s with
            dev := (s.dev.modSlc c fun y => { y with token := none }).sendMember c ((x.index + 1) % x.count) msgToken
              { s.dev.message c with votes := m.votes + 1, map := combine m.map x.require } })
        ∧ (x.when m = .own → votedReady s.dev c → x.index = 0 → m.votes = x.count → 1 < x.count → x.proposal = none →
          (∀ t, x.readyAt = some t → s.dev.passed t (msNs x.voteNow) = false) →
          ∃ d : Dev, exec (.token c m) s = .next { s with dev := d }
            ∧ (d.slc c).proposal = some (x.outcome true false false 0 0 (BitVec.allOnes 32) m.map)
            ∧ (d.slc c).deciding = true ∧ (d.slc c).decideAt = s.dev.now + msNs x.queryNow
            ∧ d.upd = s.dev.upd ∧ d.ctxs = s.dev.ctxs ∧ d.mem = s.dev.mem))
  ∧ (
    ∀ (s : State) (c : Fin 16),
      let x := s.dev.slc c
      let mine := x.outcome false x.overflow true 7 stOk (BitVec.allOnes 32) []
      (∀ m, x.accepts m = true → x.index ≤ 1 → m.sender < x.count →
        (∀ r, x.record? m.step m.attempt = some r →
          exec (.query c m) s = .next { s with dev := s.dev.sendMember c m.sender msgOutcome (s.dev.recordMessage c r) })
        ∧ (x.record? m.step m.attempt = none → x.index = 1 → x.when m = .own → ¬ votedReady s.dev c →
          ∃ d : Dev, exec (.query c m) s = .next { s with dev := d } ∧ abortedBy s.dev d c mine)
        ∧ (x.record? m.step m.attempt = none → x.when m = .earlier → exec (.query c m) s = .next s)
        ∧ (x.record? m.step m.attempt = none → x.when m ≠ .earlier → x.index = 0 ∨ x.when m ≠ .own ∨ votedReady s.dev c →
          exec (.query c m) s = .next { s with
            dev := s.dev.sendMember c m.sender msgUndecided { s.dev.message c with step := m.step, attempt := m.attempt } }))
      ∧ (∀ t, x.readyAt = some t → x.stepState = .voted → s.dev.passed t (msNs x.voteNow) = true →
        (x.index = 0 → 1 < x.count → x.proposal = none → ∃ d : Dev, exec (.voteTimeout c) s = .next { s with dev := d }
          ∧ (d.slc c).proposal = some (x.outcome false false false 6 stOk (BitVec.allOnes 32) []) ∧ (d.slc c).deciding = true
          ∧ d.upd = s.dev.upd ∧ d.ctxs = s.dev.ctxs)
        ∧ (x.index ≠ 0 → ∃ d : Dev, exec (.voteTimeout c) s = .next { s with dev := d } ∧ (d.slc c).stepState = .inDoubt
          ∧ (d.slc c).frozen = x.frozen ∧ (d.slc c).queryAt = some (s.dev.now + msNs x.queryNow) ∧ (d.slc c).queried = true
          ∧ d.upd = s.dev.upd))
      ∧ (∀ t, x.readyAt = some t → s.dev.passed t (msNs x.voteNow) = false → exec (.voteTimeout c) s = .next s)
      ∧ (∀ t, x.queryAt = some t → t ≤ s.dev.now → x.stepState = .inDoubt ∨ x.stepState = .repeatWait → x.index ≠ 0 →
        ∃ d : Dev, exec (.queryRepeat c) s = .next { s with dev := d } ∧ (d.slc c).queryAt = some (s.dev.now + msNs x.queryNow)
          ∧ (d.slc c).queryDeputy = !x.queryDeputy ∧ (d.slc c).stepState = x.stepState ∧ d.upd = s.dev.upd ∧ d.ctxs = s.dev.ctxs)
      ∧ (∀ r, x.proposal = some r → x.decideAt ≤ s.dev.now → exec (.decideRepeat c) s = .next { s with
          dev := (s.dev.modSlc c fun y => { y with decideAt := s.dev.now + msNs y.queryNow }).sendMember c 1 msgDecide (s.dev.recordMessage c r) })
      ∧ (∀ t, x.readyAt = some t → x.index = 1 → x.record? x.step x.attempt = none → s.dev.passed t (2 * msNs x.voteNow) = true →
        ∃ d : Dev, exec (.deputySelfAbort c) s = .next { s with dev := d } ∧ abortedBy s.dev d c mine))

/-- ABORT_VOTE, DECIDE, DECIDED and OUTCOME (R240 to R242, R246 to R248): the warden decides abort on the first abort vote; the
deputy's first record is final and answers every DECIDE; the warden applies what DECIDED carries; every member applies the
outcome of its own attempt. A message that is not of the ring changes nothing of the sluice (R237). Completes: token,
abortVote, decide, decided, outcome, query, undecided. -/
def Obligations.MembersApplyTheRecordedOutcome : Prop :=
  ∀ (s : State) (c : Fin 16) (m : SluiceMsg),
    let x := s.dev.slc c
    let r := recordOf m
    (x.accepts m = false →
      let t : State := { s with dev := s.dev.eventAt c 0 0x0013 0 m.step (packFields [(0, m.src), (24, 1)]) }
      exec (.token c m) s = .next t ∧ exec (.abortVote c m) s = .next t ∧ exec (.decide c m) s = .next t
        ∧ exec (.decided c m) s = .next t ∧ exec (.outcome c m) s = .next t ∧ exec (.query c m) s = .next t
        ∧ exec (.undecided c m) s = .next t)
    ∧ (x.accepts m = true →
      (x.index = 0 → x.when m = .own → x.proposal = none →
        let o := x.outcome false (m.overflow || x.overflow) false m.cause m.status (BitVec.ofNat 32 m.sender) []
        (1 < x.count → ∃ d : Dev, exec (.abortVote c m) s = .next { s with dev := d }
          ∧ (d.slc c).proposal = some o ∧ (d.slc c).deciding = true ∧ d.upd = s.dev.upd ∧ d.ctxs = s.dev.ctxs)
        ∧ (x.count ≤ 1 → ∃ d : Dev, exec (.abortVote c m) s = .next { s with dev := d } ∧ abortedBy s.dev d c o))
      ∧ (x.index = 1 → ∀ q, x.record? m.step m.attempt = some q →
        exec (.decide c m) s = .next { s with dev := s.dev.sendMember c 0 msgDecided (s.dev.recordMessage c q) })
      ∧ (x.index = 1 → x.record? m.step m.attempt = none → x.when m = .own →
        (m.commit = true → votedReady s.dev c → nothingWithheld s.dev c →
          ∃ d : Dev, exec (.decide c m) s = .next { s with dev := d } ∧ committedBy s.dev d c r)
        ∧ (m.commit = false → ∃ d : Dev, exec (.decide c m) s = .next { s with dev := d } ∧ abortedBy s.dev d c r))
      ∧ (x.index = 0 → ∀ q, x.proposal = some q → q.step = m.step → q.attempt = m.attempt →
        (m.commit = true → votedReady s.dev c → nothingWithheld s.dev c →
          ∃ d : Dev, exec (.decided c m) s = .next { s with dev := d } ∧ committedBy s.dev d c r)
        ∧ (m.commit = false → ∃ d : Dev, exec (.decided c m) s = .next { s with dev := d } ∧ abortedBy s.dev d c r))
      ∧ (x.when m = .own →
        (m.commit = true → votedReady s.dev c → nothingWithheld s.dev c →
          ∃ d : Dev, exec (.outcome c m) s = .next { s with dev := d } ∧ committedBy s.dev d c r)
        ∧ (m.commit = false → ∃ d : Dev, exec (.outcome c m) s = .next { s with dev := d } ∧ abortedBy s.dev d c r))
      ∧ (x.when m = .earlier → exec (.outcome c m) s = .next s)
      ∧ exec (.undecided c m) s = .next s)

/-- WATCHDOG_EXPIRY (R400): the context is FAULTED with cause 5; where its queue has room in memory that is there and no event is
held (R146, R186, R389, R390) the watchdog event stands behind that of the state change, with the SEQ of the oldest command
that has a running unit; and no unit of the context is left but running ones with their writes suppressed (R401). Completes:
watchdogExpiry. -/
def Obligations.AnExpiredWatchdogFaultsTheContext : Prop :=
  ∀ (s : State) (c : Fin 16),
    let x := s.dev.ctx c
    let runs (cls inst : Nat) (u : UnitRef) : Prop := (cls, inst) ∈ allEngines ∧ (s.dev.engine cls inst).units.head? = some u ∧ u.ctx = c
    x.watched = true → s.dev.hasUnit c = true → msNs x.watchdogMs ≤ x.watchdogNs →
    ∀ cls inst u, runs cls inst u →
    (∀ cls' inst' v, runs cls' inst' v → (u.seq - (x.lastSeq + 1)).toNat ≤ (v.seq - (x.lastSeq + 1)).toNat) →
    ∃ d : Dev, exec (.watchdogExpiry c) s = .next { s with dev := d }
      ∧ (d.ctx c).state = .faulted ∧ (d.ctx c).cause = 5 ∧ (d.ctx c).removing = true
      ∧ (let a := x.eqBase + 32 * ((x.eqTail + 1).toNat % 2 ^ x.eqLog2)
         s.dev.clk.refLost = false → s.dev.clk.heldEvents = [] → (x.eqTail - x.eqHead).toNat + 2 ≤ 2 ^ x.eqLog2 → x.eqLog2 ≤ 16 →
         s.dev.inRemoved a 32 = false →
         let e := readCells d.mem.cells a 32
         fieldAt e 8 4 = u.seq.toNat ∧ fieldAt e 12 1 = 0x50)
      ∧ ∀ p ∈ allEngines, ∀ v ∈ (d.engine p.1 p.2).units, v.ctx = c →
          v.suppressed = true ∧ (d.engine p.1 p.2).units.head? = some v

/-- DRAIN_COMPLETE and CONTEXT_WORK_REMOVED (R181, R189, R401): a drained context is OPEN at its first entry not issued; the
removal of a context's work ends with no unit of it left: its commands have ended, and the CTX_RESET in the mailbox with OK.
Completes: drainComplete, contextWorkRemoved. -/
def Obligations.DrainsAndRemovalsComplete : Prop :=
  ∀ (s : State) (c : Fin 16),
    let x := s.dev.ctx c
    (x.state = .draining → x.working = false → (s.dev.slc c).stepState = .idle →
      ∃ d : Dev, exec (.drainComplete c) s = .next { s with dev := d } ∧ (d.ctx c).state = .opened ∧ (d.ctx c).cause = 7
        ∧ (d.ctx c).cmds = [] ∧ (d.ctx c).readIdx = x.firstUnissued ∧ (d.ctx c).nextSeq = x.expected x.firstUnissued
        ∧ (d.ctx c).lastSeq = x.lastSeq ∧ d.upd = s.dev.upd ∧ d.slcs = s.dev.slcs)
    ∧ (x.working = true → exec (.drainComplete c) s = .next s)
    ∧ (x.removing = true → s.dev.unitsOf c = [] → s.dev.underReplay c = false →
      ∃ d : Dev, exec (.contextWorkRemoved c) s = .next { s with dev := d } ∧ (d.ctx c).removing = false
        ∧ (∀ k ∈ (d.ctx c).cmds, k.ended ≠ none) ∧ (d.ctx c).cmds.length = x.cmds.length ∧ (d.ctx c).state = x.state
        ∧ (s.dev.mbx.resetting = some c → ended d stOk 0 ∧ d.mbx.resetting = none))
    ∧ (s.dev.unitsOf c ≠ [] → exec (.contextWorkRemoved c) s = .next s)

/-! ### Reduction, stages and the turnout (chapters 10, 11 and 12) -/

/-- JOB_OPEN, REDUCE_COMPLETE and CONTRIBUTION_DEADLINE (R299, R304 to R306): a free slot opens the job of an issued REDUCE with a
clear arrival map, and the job does what it can; with every piece complete and delivered the REDUCE completes and the slot is
free; past its deadline it ends with TIMEOUT and the device votes abort. Completes: jobOpen, reduceComplete,
contributionDeadline. ACCUM and RING_PIECE_FORWARD (R300 to R302): a packet for no open job is answered BUSY, one of an
earlier attempt ABORTED, a piece that has arrived DUPLICATE; a good piece is added to its slots once, with the residues
checked, and answered OK; in RING the own blocks are then added and the piece goes to the next member, or stays with its
owner. Completes: accum, ringPieceForward. -/
def Obligations.ReductionJobsAddEachPieceOnce : Prop :=
  (
    ∀ (s : State) (c : Fin 16) (seq : W32) (k : Cmd) (x : ReduceArgs), (s.dev.ctx c).cmd? seq = some k → goingOn k →
      k.entry.opcode = opReduce → reduceArgs k.args = some x →
      (∀ i, (List.range 64).find? (fun i => (s.dev.red.slots.toList.getD i none).isNone) = some i → s.dev.job? c x.job = none →
        let j := { s.dev.jobOf c k x with slot := some i }
        let map := (j.region + j.mapOff, alignUp (ceilDiv j.mapBits 8) 32)
        freeRanges s.dev [map] → s.dev.removedIn [(j.region, j.regionBytes)] = false → ∃ d e : Dev, exec (.jobOpen c seq) s = .next { s with dev := d } ∧ d = e.pushJob c x.job
          ∧ e = { s.dev with mem := e.mem, red := e.red, slcs := e.slcs }
          ∧ e.mem = s.dev.mem.store map.1 (List.replicate map.2 0)
          ∧ e.red.jobs = j :: s.dev.red.jobs.filter (fun q => q.ctx != c || q.job != x.job)
          ∧ e.red.slots.toList.getD i none = some (c, x.job))
      ∧ (∀ j, s.dev.jobOfCmd c seq = some j → s.dev.job? c j.job = some j →
        (j.scanned = true → j.complete = true → j.delivered = true → j.probe = false →
          ∃ d : Dev, exec (.reduceComplete c seq) s = .next { s with dev := d } ∧ (d.ctx c).cmd? seq = none
            ∧ (d.ctx c).lastSeq = ((s.dev.ctx c).complete [seq]).lastSeq
            ∧ d.job? c j.job = some { j with finished := true, slot := none }
            ∧ (∀ o ∈ d.red.slots.toList, o ≠ some (c, j.job)) ∧ d.fab = s.dev.fab ∧ d.upd.shards = s.dev.upd.shards)
        ∧ (j.scanned = false ∨ j.complete = false ∨ j.delivered = false →
          exec (.reduceComplete c seq) s = .next { s with dev := s.dev.pushJob c j.job }))
      ∧ (s.dev.reduceDeadline c k x ≤ s.dev.now → k.step ≠ none → k.spec = false →
        (s.dev.slc c).stepState = .active → 1 < (s.dev.slc c).count → (s.dev.slc c).index ≠ 0 →
        ∃ d : Dev, exec (.contributionDeadline c seq) s = .next { s with dev := d } ∧ (d.ctx c).cmd? seq = none
          ∧ d.red.failJob = x.job ∧ d.red.failCtx = c.val ∧ d.red.failKind = 2 ∧ d.red.failNew = true
          ∧ (d.slc c).stepState = .repeatWait ∧ (d.slc c).ownAbort = some (2, stTimeout))
      ∧ (s.dev.now < s.dev.reduceDeadline c k x → exec (.contributionDeadline c seq) s = .next s))
  ∧ (
    ∀ (s : State),
      (∀ (p : Packet), p.type = .accum → p.dest = s.dev.fab.id → s.dev.clk.refLost = false → s.dev.link.lines = [] →
        s.dev.unitStatus p = stOk →
        let n := bitsOf p.spec 0 12
        let c : Fin 16 := Fin.ofNat 16 (bitsOf p.spec 12 4)
        let source := bitsOf p.spec 16 12
        let chunk := bitsOf p.spec 28 12
        let piece := bitsOf p.spec 40 16
        let step : W64 := BitVec.ofNat 64 (fieldAt p.data 0 8)
        let attempt : W32 := BitVec.ofNat 32 (fieldAt p.data 8 4)
        (s.dev.job? c n = none → exec (.accum p) s = .next { s with dev := s.dev.reply p stBusy })
        ∧ (∀ j, s.dev.job? c n = some j → s.dev.removedIn [(j.region, j.regionBytes)] = false →
          (attemptLater step attempt j.step j.attempt = true → exec (.accum p) s = .next { s with dev := s.dev.reply p stBusy })
          ∧ (attemptLater j.step j.attempt step attempt = true → attemptLater step attempt j.step j.attempt = false →
            exec (.accum p) s = .next { s with dev := s.dev.reply p stAborted })
          ∧ (step = j.step → attempt = j.attempt → j.closed = false → j.pieceBad p source chunk piece = false →
            j.pieceAstray source chunk = false →
            let b := j.arrivalBit source chunk piece
            let ps := wireBlocks ((List.range (fieldAt p.data 28 1)).map fun i => bitsOf (fieldAt p.data 20 8) (2 * i) 2) (p.data.drop 36)
            (j.arrived.contains b = true → exec (.accum p) s = .next { s with dev := s.dev.reply p stDuplicate })
            ∧ (j.arrived.contains b = false → ∀ qs rs, Dev.readSlots j chunk piece (List.range ps.length) s.dev = (s.dev, some qs) →
              addAll ps qs = some rs → (∀ r ∈ rs, r.2 = 0) → cleanMemory s.dev →
              let bs := rs.map fun r => RedBlock.settleSpill j.probe r.1
              ∃ d e : Dev, exec (.accum p) s = .next { s with dev := d }
                ∧ d = (if j.ring then e else e.ownerPiece c n piece bs).reply p stOk
                ∧ e = (s.dev.writeSlots j chunk piece [b] bs).1
                ∧ (s.dev.writeSlots j chunk piece [b] bs).2 = true))))
      ∧ (∀ (c : Fin 16) (n chunk piece : Nat) (j : Job), s.dev.job? c n = some j → j.closed = false → j.ring = true → j.scanned = true →
        chunk < j.count → piece < j.piecesIn chunk → j.starter chunk ≠ j.index →
        let b := j.arrivalBit 0 chunk piece
        (j.arrived.contains b = true → j.arrived.contains (b + 1) = false →
          freeRanges s.dev [(j.src, 4 * j.n), (j.region, j.regionBytes)] → cleanMemory s.dev →
          ∀ own qs rs, s.dev.ownBlocks j chunk piece = (s.dev, .ok own) →
          Dev.readSlots j chunk piece (List.range own.length) s.dev = (s.dev, some qs) → addAll (withResidue own) qs = some rs →
          (∀ r ∈ rs, r.2 = 0) →
          let bs := rs.map fun r => RedBlock.settleSpill j.probe r.1
          let e := (s.dev.writeSlots j chunk piece [b + 1] bs).1
          let f := if chunk = j.index then e.ownerPiece c n piece bs
            else (e.weir c n bs).sendPiece c n { toMember := (j.index + 1) % j.count, chunk := chunk, piece := piece }
          exec (.ringPieceForward c n chunk piece) s = .next { s with dev := f })
        ∧ (j.arrived.contains (b + 1) = true → exec (.ringPieceForward c n chunk piece) s = .next s)))

/-- What an adder makes of a block, and of its residues (R301): the exact sums, each saturated to 32 bits, SPILL and SRC_SAT
carried on; none where the residues do not agree, or one is 8,191, which is never valid (R73). -/
def Obligations.BlocksAddWithTheirResidues : Prop :=
  ∀ (p q : RedBlock × Nat),
    let cs := List.zipWith (· + ·) p.1.elems q.1.elems
    (residue cs ≠ (p.2 + q.2) % 8191 ∨ p.2 = 8191 ∨ q.2 = 8191 → addBlocks p q = none)
    ∧ (p.2 ≠ 8191 → q.2 ≠ 8191 → residue cs = (p.2 + q.2) % 8191 → (∀ a ∈ cs, -(2 ^ 31 - 1) ≤ a ∧ a ≤ 2 ^ 31 - 1) →
      addBlocks p q = some (⟨cs, p.1.spill || q.1.spill, p.1.sat || q.1.sat⟩, 0))
    ∧ (∀ r n, addBlocks p q = some (r, n) → (∀ a ∈ r.elems, -(2 ^ 31 - 1) ≤ a ∧ a ≤ 2 ^ 31 - 1) ∧ r.elems.length = cs.length)

/-- READY (R346, R347): a READY of an earlier attempt is dropped; one of the own attempt is held in order, and one that answers a
waiting receive of the same length completes it; for one of a later attempt the outcome of the own is asked for; with 64 held
it is lost and an event placed. Completes: ready. -/
def Obligations.ReadyMessagesAnswerReceives : Prop :=
  ∀ (s : State) (c : Fin 16) (m : ReadyMsg),
    let x := s.dev.slc c
    let held := s.dev.readyTable c
    (x.past m = true → exec (.ready c m) s = .next s)
    ∧ (m.step = x.step → m.attempt = x.attempt → held.length < 64 →
      ((∀ k ∈ (s.dev.ctx c).cmds, k.entry.opcode ≠ opStage) →
        exec (.ready c m) s = .next { s with dev := s.dev.setReady c (held ++ [m]) })
      ∧ (∀ k a, (s.dev.ctx c).cmds = [k] → goingOn k → k.entry.opcode = opStage → stageArgs k.args = some a → a.receive = true →
        readyMatches m a k x = true → m.bytes = a.bytes → held = [] →
        ∃ d : Dev, exec (.ready c m) s = .next { s with dev := d } ∧ (d.ctx c).cmds = [] ∧ d.readyTable c = []
          ∧ (d.ctx c).lastSeq = ((s.dev.ctx c).complete [k.entry.seq]).lastSeq))
    ∧ (x.past m = false → 64 ≤ held.length → exec (.ready c m) s = .next { s with
        dev := s.dev.event c 0 0x000E 0 (packFields [(0, m.channel.toNat), (32, m.senderFid)]) })
    ∧ (attemptLater m.step m.attempt x.step x.attempt = true → held.length < 64 → exec (.ready c m) s = .next { s with
        dev := (s.dev.setReady c (held ++ [m])).askNow c })

/-- TRANSMIT_DELTA and DELTA_WRITE_REISSUE (R331): with every WRITE of a delta answered OK, DONE goes to the partner and its next
round is up; before that a delta of one WRITE goes out, or, where R25 refuses it, waits 1 ms; a WRITE that failed is judged
and issued again 1 ms later. Completes: transmitDelta, deltaWriteReissue. DONE, RELEASE and APPLY_FREEZE (R332 to R334): a
DONE in its turn makes the partner's delta of its round count for an APPLY to come; a RELEASE frees the partner's buffer of
its round; an APPLY that need wait no longer freezes its set of contributions. Completes: done, release, applyFreeze. -/
def Obligations.TheTurnoutSendsAndFreezes : Prop :=
  (
    ∀ (s : State),
      (∀ (h : W16) (e : Enrol) (x : Shard) (i : Nat) (p : Partner) (k : Nat) (rest : List Nat), s.dev.enrol? h.toNat = some e →
        s.dev.shard? h.toNat = some x → e.partners[i]? = some p → p.sending = k :: rest → s.dev.bufferFree x.ctx p k = true →
        (∀ j q, j ≠ i → e.partners[j]? = some q → q.sending = []) →
        (s.dev.deltaSent x p k = true → exec (.transmitDelta h) s = .next { s with
            dev := (s.dev.modPartner h.toNat i fun q => { q with sending := rest, acked := [] }).turnoutMessage p 1 k x.coordCheck })
        ∧ (∀ w q, s.dev.deltaCuts x p k = [w] → p.acked = [] → s.dev.fab.entries = [] →
          let src := e.plane x.size (s.dev.staleOf x.ctx) 7 + (w.1 - p.buffer (s.dev.staleOf x.ctx) x.size k)
          freeRanges s.dev [(src, w.2)] → s.dev.mem.marked src w.2 = false →
          writePackets (fidOf p.recv) 0 w.1 (readCells s.dev.mem.cells src w.2) = [q] →
          (s.dev.judgeRemote (fidOf p.recv) = stOk → ∃ d : Dev, exec (.transmitDelta h) s = .next { s with dev := d }
            ∧ d = (s.dev.request (.delta h.toNat i k) q).getD s.dev ∧ d.trn = s.dev.trn ∧ d.mem = s.dev.mem)
          ∧ (s.dev.judgeRemote (fidOf p.recv) ≠ stOk → ∃ d : Dev, exec (.transmitDelta h) s = .next { s with dev := d }
            ∧ d = (s.dev.park (.delta h.toNat i k) q (s.dev.now + msNs 1) 3).getD s.dev ∧ d.trn = s.dev.trn ∧ d.mem = s.dev.mem)))
      ∧ (∀ (h : W16), s.dev.enrol? h.toNat = none → exec (.transmitDelta h) s = .next s)
      ∧ (∀ (i : Nat) (e : Outst) (t h n k : Nat), s.dev.fab.entries.find? (fun q => q.1 == i) = some (i, e) → e.owner = .delta h n k →
        e.waitUntil = some t → e.waitFor = 3 → e.discard = false →
        let st := s.dev.judgeRemote e.packet.dest
        (t ≤ s.dev.now → st = stOk → exec (.deltaWriteReissue i) s = .next { s with dev := s.dev.reissue i })
        ∧ (t ≤ s.dev.now → st ≠ stOk → exec (.deltaWriteReissue i) s = .next { s with dev := s.dev.deltaAnswer i e h n k st })
        ∧ (s.dev.now < t → exec (.deltaWriteReissue i) s = .next s)))
  ∧ (
    ∀ (s : State),
      (∀ (p : Packet) (e : Enrol) (x : Shard) (i : Nat) (q : Partner), p.type = .msg → p.tc = 6 → p.dest = s.dev.fab.id →
        let m := p.data.take 36
        let h := fieldAt m 8 2
        let r := s.dev.peer p.src
        s.dev.fab.service.toList.getD 2 false = false → r.held = [] → fieldAt m 4 4 = r.expected → s.dev.enrol? h = some e →
        s.dev.shard? h = some x → e.partners.findIdx? (fun a => a.fid == p.src) = some i → e.partners[i]? = some q →
        (bitsOf p.spec 0 8 = 1 → fieldAt m 12 8 = x.coordCheck.toNat → e.firstRound ≤ fieldAt m 0 4 → fieldAt m 0 4 ∉ q.seen →
          (∀ a, e.lastFrozen = some a → a < fieldAt m 0 4 + s.dev.staleOf x.ctx) →
          ∃ (d : Dev) (e' : Enrol) (q' : Partner), exec (.done p) s = .next { s with dev := d } ∧ d = { s.dev with trn := d.trn }
            ∧ d.enrol? h = some e' ∧ e'.partners[i]? = some q' ∧ q'.deltas = insertAsc (fieldAt m 0 4) q.deltas
            ∧ q'.seen = fieldAt m 0 4 :: q.seen ∧ (d.peer p.src).expected = (r.expected + 1) % 2 ^ 32)
        ∧ (bitsOf p.spec 0 8 = 2 → q.sending = [] →
          ∃ (d : Dev) (e' : Enrol) (q' : Partner), exec (.release p) s = .next { s with dev := d } ∧ d = { s.dev with trn := d.trn }
            ∧ d.enrol? h = some e' ∧ e'.partners[i]? = some q' ∧ q'.released = max q.released (fieldAt m 0 4 + 1)
            ∧ q'.deltas = q.deltas ∧ (d.peer p.src).expected = (r.expected + 1) % 2 ^ 32))
      ∧ (∀ (h : W16) (k : Cmd) (n : Nat) (e : Enrol), s.dev.applyOf h.toNat = some (k, n) → s.dev.enrol? h.toNat = some e →
        let r := (outerHead k.args).round
        (e.frozenSet.map (·.1) ≠ some r → e.sendDone = true → s.dev.mayFreeze e r = true →
          ∃ (d : Dev) (e' : Enrol), exec (.applyFreeze h) s = .next { s with dev := d } ∧ d.enrol? h.toNat = some e'
            ∧ e'.lastFrozen = some r ∧ e'.frozenSet = some (r, s.dev.contributions e.ctx e r)
            ∧ (d.trn.trns[e.ctx]).round = r ∧ (d.trn.trns[e.ctx]).isNew = true ∧ d.upd = s.dev.upd ∧ d.slcs = s.dev.slcs)
        ∧ (s.dev.mayFreeze e r = false → exec (.applyFreeze h) s = .next s)))

/-! ### Live service (chapters 2, 5, 6 and 15) -/

/-- ARRAY_RETIREMENT and ARRAY_RECALIBRATION (R57, R58): nothing runs on the array and its quadrant's flume: the array is retired,
or takes the smallest passing code plus 2, and its generation goes up by one; no passing code retires it, but the last good
array, which is kept at code 15. While a pass runs, the array takes no new one and the service goes on. Completes:
arrayRetirement, arrayRecalibration. PERIODIC_RECALIBRATION (R59): before its interval is over nothing happens; then the array
whose turn it is is re-calibrated and the turn goes to the next; one in service keeps its turn. Completes:
periodicRecalibration. -/
def Obligations.ArraysAreRetiredAndRecalibrated : Prop :=
  (
    ∀ (s : State) (a : Fin 64) (i : Fin 8), (s.dev.engine 1 a.val).replay = none → s.dev.arrayGone a.val = false →
      s.dev.mxa.draining ≠ some a.val → s.dev.mxa.judging.contains a.val = false →
      let idle := (s.dev.engine 1 a.val).units = [] ∧ (s.dev.engine 2 (a.val / 16)).units = []
      let gen := ((s.dev.engine 1 a.val).gen + 1) % 256
      let served (d : Dev) (rest : Dev) : Prop := (d.mbx.slots[i]).phase = 3 ∧ (d.mbx.slots[i]).status = stOk
        ∧ (d.engine 1 a.val).service = false ∧ (d.engine 1 a.val).gen = gen
        ∧ (∀ b, b ≠ a.val → d.engine 1 b = rest.engine 1 b) ∧ d.slcs = rest.slcs ∧ d.upd = rest.upd ∧ d.fab = rest.fab
      (s.dev.serviceSlot 0xC010 a.val = some i → s.dev.serviceFor 0xC011 a.val = false → 1 < s.dev.goodArrays →
        (idle → ∃ d : Dev, exec (.arrayRetirement a) s = .next { s with dev := d } ∧ served d s.dev
          ∧ d.mxa.retired = s.dev.mxa.retired ||| (1#64 <<< a.val) ∧ (s.dev.clk.refLost = false → d.ldg.next = (s.dev.ldg.next + 1) % 2 ^ 64))
        ∧ (∀ u rest, (s.dev.engine 1 a.val).units = u :: rest → ∃ d : Dev, exec (.arrayRetirement a) s = .next { s with dev := d }
          ∧ (d.engine 1 a.val).units = [u] ∧ (d.engine 1 a.val).service = true ∧ d.mxa.retired = s.dev.mxa.retired
          ∧ (d.mbx.slots[i]).phase = 2
          ∧ ∀ v ∈ rest, v.suppressed = false → ∀ k ∈ (d.ctx v.ctx).cmds, k.entry.seq = v.seq → v.idx ∈ k.requeued))
      ∧ (∀ (r : CalResult), s.dev.serviceSlot 0xC011 a.val = some i → s.dev.quadrantBusy a.val = false → idle →
        (∀ k, r.wrong = false → k < 14 → r.pass.getLsbD k = true → (∀ j, j < k → r.pass.getLsbD j = false) →
          ∃ d : Dev, exec (.arrayRecalibration a r) s = .next { s with dev := d } ∧ served d s.dev
            ∧ d.mxa.retired = s.dev.mxa.retired ∧ d.mxa.code = s.dev.mxa.code.set a (k + 2)
            ∧ d.mxa.lastArray = a.val ∧ d.mxa.lastCode = k + 2 ∧ d.mxa.kept = false)
        ∧ (r.wrong = true ∨ (∀ j, j < 14 → r.pass.getLsbD j = false) →
          ∃ d : Dev, exec (.arrayRecalibration a r) s = .next { s with dev := d } ∧ served d s.dev ∧ d.mxa.lastResult = 3
            ∧ (1 < s.dev.goodArrays → d.mxa.retired = s.dev.mxa.retired ||| (1#64 <<< a.val) ∧ d.mxa.kept = false)
            ∧ (s.dev.goodArrays = 1 → d.mxa.retired = s.dev.mxa.retired ∧ d.mxa.code = s.dev.mxa.code.set a 15 ∧ d.mxa.kept = true))))
  ∧ (
    ∀ (s : State) (r : CalResult) (a : Fin 64), s.dev.mxa.draining = none → s.dev.mxa.intervalH ≠ 0 → s.dev.boot.arrays = true →
      s.dev.mxa.turn = a.val → s.dev.goodArray a.val = true →
      let due := s.dev.mxa.turnAt + s.dev.mxa.intervalH * 3600000000000
      (s.dev.now < due → exec (.periodicRecalibration r) s = .next s)
      ∧ (due ≤ s.dev.now → (s.dev.engine 1 a.val).service = true → exec (.periodicRecalibration r) s = .next { s with
          dev := { s.dev with mxa := { s.dev.mxa with turnAt := s.dev.now } } })
      ∧ (∀ k, due ≤ s.dev.now → (s.dev.engine 1 a.val).service = false → s.dev.quadrantBusy a.val = false →
        (s.dev.engine 1 a.val).replay = none → (s.dev.engine 1 a.val).units = [] → (s.dev.engine 2 (a.val / 16)).units = [] →
        r.wrong = false → k < 14 → r.pass.getLsbD k = true → (∀ j, j < k → r.pass.getLsbD j = false) →
        ∃ d : Dev, exec (.periodicRecalibration r) s = .next { s with dev := d } ∧ d = { s.dev with mxa := d.mxa }
          ∧ d.mxa.turn = (a.val + 1) % 64 ∧ d.mxa.turnAt = s.dev.now ∧ d.mxa.draining = none ∧ d.mxa.retired = s.dev.mxa.retired
          ∧ d.mxa.code = s.dev.mxa.code.set a (k + 2)
          ∧ (d.engine 1 a.val).gen = ((s.dev.engine 1 a.val).gen + 1) % 256 ∧ (d.engine 1 a.val).service = false
          ∧ ∀ b, b ≠ a.val → d.engine 1 b = s.dev.engine 1 b))

/-- PC_RETIREMENT (R144 to R146, R196): with no step in flight, no unit on its controller and no request accepted there, the
pseudo-channel is retired, one more window of its stack is removed, and the shards with a slot in that window are lost. While
a RUNNING context has a step open and its watchdog time has not passed, it waits. Two retirements do not go on at once (log
20). Completes: pcRetirement. MICROCODE_RELOAD for a UCODE_LOAD (R409, R414): an instance that runs nothing takes the running
image's microcode and a new generation, and the request's slot ends with OK; one that runs a unit drains first. Completes:
microcodeReload. -/
def Obligations.PseudoChannelsRetireAndMicrocodeReloads : Prop :=
  (
    ∀ (s : State) (st : Fin 12) (pc : Fin 32) (i : Fin 8), s.dev.rsv.retiring = none →
      s.dev.serviceSlot 0xC012 (256 * st.val + pc.val) = some i →
      let lo := hbmBase + st.val * stackBytes + (34 - 2 * s.dev.rsv.windows[st]) * gib
      let hit (x : Shard) : Bool := overlaps x.slot0 x.slotSize lo (2 * gib) || overlaps x.slot1 x.slotSize lo (2 * gib)
      ((∀ c, (s.dev.ctx c).state = .running → s.dev.stepOpen c = false) → (s.dev.engine 5 st.val).units = [] → cleanMemory s.dev →
        (∀ p ∈ s.dev.fab.stalled, p.unit ≠ st.val) →
        s.dev.rsv.windows[st] < 4 →
        ∃ d : Dev, exec (.pcRetirement st pc) s = .next { s with dev := d }
          ∧ d.rsv.retiredPc = s.dev.rsv.retiredPc.set st (s.dev.rsv.retiredPc[st] ||| (1#32 <<< pc.val))
          ∧ d.rsv.windows = s.dev.rsv.windows.set st (s.dev.rsv.windows[st] + 1) ∧ d.rsv.retiring = none
          ∧ (d.engine 5 st.val).service = false ∧ (d.engine 5 st.val).gen = ((s.dev.engine 5 st.val).gen + 1) % 256
          ∧ (d.mbx.slots[i]).phase = 3 ∧ (d.mbx.slots[i]).status = stOk
          ∧ (∀ h x, s.dev.shard? h = some x → d.shard? h = some (if hit x then { x with lost := true } else x))
          ∧ d.slcs = s.dev.slcs ∧ d.fab = s.dev.fab ∧ d.mxa = s.dev.mxa)
      ∧ (∀ c, (s.dev.ctx c).state = .running → s.dev.stepOpen c = true → 0 < (s.dev.ctx c).watchdogMs →
        ∃ d : Dev, exec (.pcRetirement st pc) s = .next { s with dev := d }
          ∧ d = { s.dev with mbx := d.mbx, rsv := { s.dev.rsv with retiring := some (st.val, pc.val, s.dev.now) } }
          ∧ (d.mbx.slots[i]).phase = 2))
  ∧ (
    ∀ (s : State) (cls inst : Nat) (i : Fin 8), cls = 3 ∨ cls = 4 → inst < 16 → s.dev.serviceSlot 0xC148 (256 * cls + inst) = some i →
      (s.dev.engine cls inst).replay = none → (s.dev.engine cls inst).dead = false → s.dev.reloadingBeside cls inst = false →
      s.dev.sec.activating ≠ some 4 →
      ((s.dev.engine cls inst).units = [] → ∃ d : Dev, exec (.microcodeReload cls inst) s = .next { s with dev := d }
        ∧ (d.engine cls inst).ucode = s.dev.sec.runVersion ∧ (d.engine cls inst).gen = ((s.dev.engine cls inst).gen + 1) % 256
        ∧ (d.engine cls inst).service = false ∧ (d.mbx.slots[i]).phase = 3 ∧ (d.mbx.slots[i]).status = stOk
        ∧ d.sec = s.dev.sec ∧ d.mxa = s.dev.mxa ∧ d.slcs = s.dev.slcs ∧ d.upd = s.dev.upd)
      ∧ (∀ u rest, (s.dev.engine cls inst).units = u :: rest → ∃ d : Dev, exec (.microcodeReload cls inst) s = .next { s with dev := d }
        ∧ (d.engine cls inst).units = [u] ∧ (d.engine cls inst).service = true
        ∧ (d.engine cls inst).ucode = (s.dev.engine cls inst).ucode ∧ (d.mbx.slots[i]).phase = 2))

/-- The Furrow code finds and corrects any one wrong symbol of a codeword, whichever of its 36 symbols it is (R136, R137).
PATROL_SCRUB (R137, R139, R141): before a tier's interval is over only the errors that arise are added; a scrub corrects a
granule with one wrong symbol where it stands, and an uncorrectable one is shown in RSV_UE_LAST with source 2, and is
poisoned. Completes: patrolScrub. -/
def Obligations.TheScrubberCorrectsOneSymbol : Prop :=
  (
    ∀ (j : Fin 36) (v : Byte), v ≠ 0 → furrowDecode [(j.val, v)] = .single j.val v)
  ∧ (
    ∀ (s : State) (tier : Fin 3) (g : Nat), s.dev.clk.refLost = false → tierOf g = some tier.val → s.dev.inRemoved (32 * g) 32 = false →
      s.dev.mem.hard = [] → s.dev.mem.poison = [] →
      let h := s.dev.rsv.hours tier.val
      let due := s.dev.rsv.scrubbedAt[tier] + h * 3600000000000
      (∀ us, h = 0 ∨ s.dev.now < due → exec (.patrolScrub tier us) s = .next { s with dev := us.foldl Dev.upset s.dev })
      ∧ (∀ (j : Fin 36) (v : Byte), h ≠ 0 → due ≤ s.dev.now → v ≠ 0 → s.dev.mem.errs = [(g, [(j.val, v)])] →
        exec (.patrolScrub tier []) s = .next { s with
          dev := { s.dev with
            mem := { s.dev.mem with errs := [] }
            rsv := { s.dev.rsv with scrubbedAt := s.dev.rsv.scrubbedAt.set tier s.dev.now } } })
      ∧ (∀ q, h ≠ 0 → due ≤ s.dev.now → s.dev.mem.errs = [(g, q)] → furrowDecode (s.dev.mem.pattern g) = .uncorrectable →
        ∃ d : Dev, exec (.patrolScrub tier []) s = .next { s with dev := d }
          ∧ d.rsv.ueAddr = 32 * g ∧ d.rsv.ueSource = srcScrub ∧ d.rsv.ueNew = true ∧ d.slcs = s.dev.slcs ∧ d.upd = s.dev.upd
          ∧ (tier.val ≠ 1 → s.dev.boot.rsvStack < 12 → (∀ c, (s.dev.ctx c).state = .closed) → d.mem.poisoned g = true)))

/-- CORE_HEARTBEAT_MISS (R158, R408): core 0 or 1 faults the contexts it serves with cause 5, core 2 those with a step open; core
3 ends the mailbox command and the service requests with TIMEOUT. No other context changes its state. Completes:
coreHeartbeatMiss. -/
def Obligations.RestartedCoresFaultTheirContexts : Prop :=
  ∀ (s : State) (core : Fin 4),
    (core ≠ 3 → ∃ d : Dev, exec (.coreHeartbeatMiss core) s = .next { s with dev := d }
      ∧ ∀ c, let hit := if core = 2 then s.dev.stepOpen c else c.val % 2 == core.val
        let st := (s.dev.ctx c).state
        (hit = true → st ≠ .closed → st ≠ .faulted → (d.ctx c).state = .faulted ∧ (d.ctx c).cause = 5)
        ∧ (hit = false ∨ st = .closed ∨ st = .faulted → (d.ctx c).state = st))
    ∧ (core = 3 → s.dev.link.waiting = [] → s.dev.fab.stalled = [] → s.dev.ldg.running = none →
      ∃ d : Dev, exec (.coreHeartbeatMiss core) s = .next { s with dev := d }
        ∧ (s.dev.mbx.doorbell = true → ended d stTimeout 0)
        ∧ (∀ i : Fin 8, let x := s.dev.mbx.slots[i]
          (x.phase = 1 ∨ x.phase = 2 → d.mbx.slots[i] = { x with phase := 3, status := stTimeout })
          ∧ (x.phase ≠ 1 → x.phase ≠ 2 → d.mbx.slots[i] = x))
        ∧ (∀ c, (d.ctx c).state = (s.dev.ctx c).state) ∧ d.slcs = s.dev.slcs ∧ d.upd = s.dev.upd)

/-- ENGINE_HANG and ISOLATED_REPLAY (R402 to R407): an instance that is not hung is left alone; one that is hung has its
generation raised, and is in service as long as its replay goes on; a memory controller is in service for 20 µs and starts its
entries again. A suspect that hangs again while others are left is FAULTED with cause 6; after the last suspect's units have
completed the instance is back. Completes: engineHang, isolatedReplay. -/
def Obligations.HungInstancesAreReset : Prop :=
  ∀ (s : State) (cls inst : Nat), 1 ≤ cls → cls ≤ 5 → inst < instances cls →
    let e := s.dev.engine cls inst
    (e.replay = none → s.dev.hung cls inst = false → exec (.engineHang cls inst) s = .next s)
    ∧ (e.replay = none → s.dev.hung cls inst = true → cls ≠ 5 →
      ∃ d : Dev, exec (.engineHang cls inst) s = .next { s with dev := d } ∧ (d.engine cls inst).gen = (e.gen + 1) % 256
        ∧ (d.engine cls inst).service = (d.engine cls inst).replay.isSome
        ∧ ∀ u ∈ (d.engine cls inst).units, ∃ v ∈ e.units, v.ctx = u.ctx ∧ v.seq = u.seq ∧ v.idx = u.idx)
    ∧ (e.replay = none → s.dev.hung cls inst = true → cls = 5 →
      ∃ d : Dev, exec (.engineHang cls inst) s = .next { s with dev := d } ∧ (d.engine cls inst).gen = (e.gen + 1) % 256
        ∧ (d.engine cls inst).service = true ∧ (d.engine cls inst).resetEnds = some (s.dev.now + 20000)
        ∧ ∀ u ∈ (d.engine cls inst).units, u.began = false)
    ∧ (∀ ok cal r c, cls ≠ 5 → e.replay = some r → r.current = some c →
      (s.dev.hung cls inst = true → r.hungInRow = 0 → (∃ q ∈ r.suspects, q ∉ r.gone) → c ∉ r.gone →
        (s.dev.ctx c).watched = true → c ∉ r.suspects →
        ∃ d : Dev, exec (.isolatedReplay cls inst true ok cal) s = .next { s with dev := d }
          ∧ (d.ctx c).state = .faulted ∧ (d.ctx c).cause = 6 ∧ (d.engine cls inst).gen = (e.gen + 1) % 256)
      ∧ (let d1 := Dev.runHeld e.units.length cls inst s.dev
        (d1.engine cls inst).units = [] → (d1.replayOf cls inst).suspects = [] → (d1.engine cls inst).replay ≠ none →
        ∃ d : Dev, exec (.isolatedReplay cls inst false ok cal) s = .next { s with dev := d }
          ∧ (d.engine cls inst).replay = none ∧ (d.engine cls inst).service = false ∧ d.slcs = d1.slcs ∧ d.upd = d1.upd))
    ∧ (∀ ok cal, cls ≠ 5 → s.dev.hung cls inst = false → exec (.isolatedReplay cls inst true ok cal) s = .next s)
    ∧ (∀ hung ok cal, cls ≠ 5 → (s.dev.replayOf cls inst).current = none →
      exec (.isolatedReplay cls inst hung ok cal) s = .next s)

/-! ### Registers, events, the ledger and numbers (chapters 1, 3, 4, 6 and 12) -/

/-- R7: a write at another width than the register's, or at an address not aligned to its width, is ignored, and such a read
returns 0. CLK_TB_SET, which is write-only, is named by its offset. R28: offsets from 0x2800000 on, and those of a window that
its chapter does not define, read 0 and ignore writes. -/
def Obligations.WrongAccessesAreIgnored : Prop :=
  (
    ∀ (s : State) (off width : Nat) (v : W64),
      (∀ bar, off % (width / 8) ≠ 0 → exec (.registerWrite bar off width v) s = .next s)
      ∧ (off % (width / 8) ≠ 0 ∨ (s.dev.readBar0 off).1 ≠ width → s.dev.readReg off width = (s.dev, 0))
      ∧ ((s.dev.readBar0 off).1 ≠ 0 → (s.dev.readBar0 off).1 ≠ width → exec (.registerWrite 0 off width v) s = .next s)
      ∧ (off = 0x2000048 → width ≠ 64 → exec (.registerWrite 0 off width v) s = .next s)
      ∧ (width ≠ 32 → exec (.registerWrite 2 off width v) s = .next s)
      ∧ (0x11000 ≤ off → off < 0x12020 → (s.dev.readMbx (off - 0x11000)).1 ≠ width →
        exec (.registerWrite 4 off width v) s = .next s))
  ∧ (
    ∀ (s : State) (off width : Nat) (v : W64), off ≠ 0x2000048 →
      (0x2800000 ≤ off → off < 0x4000000 → (s.dev.readBar0 off).1 = 0)
      ∧ ((s.dev.readBar0 off).1 = 0 → exec (.registerWrite 0 off width v) s = .next s ∧ s.dev.readReg off width = (s.dev, 0)))

/-- REGISTER_WRITE (R8): RW fields take the value written, W1C bits that are written as 1 clear, and the rest of the block stays;
a write of an event queue's HEAD moves it up to TAIL and no further. Completes: registerWrite. -/
def Obligations.RegisterWritesSetTheirFields : Prop :=
  ∀ (s : State) (v : W64) (c : Fin 16),
    exec (.registerWrite 0 0x400060 32 v) s
      = .next { s with dev := { s.dev with mxa := { s.dev.mxa with intervalH := bitsOf v.toNat 0 8 } } }
    ∧ exec (.registerWrite 0 0x400090 32 v) s
      = .next { s with dev := { s.dev with mxa := { s.dev.mxa with sat := s.dev.mxa.sat &&& ~~~(v.setWidth 16) } } }
    ∧ exec (.registerWrite 0 0x600020 32 v) s
      = .next { s with dev := { s.dev with vxe := { s.dev.vxe with sat := s.dev.vxe.sat &&& ~~~(v.setWidth 16) } } }
    ∧ exec (.registerWrite 0 0x1200018 32 v) s
      = .next { s with dev := { s.dev with red := { s.dev.red with sat := s.dev.red.sat &&& ~~~(v.setWidth 16) } } }
    ∧ exec (.registerWrite 0 0xE00010 32 v) s
      = .next { s with dev := { s.dev with upd := { s.dev.upd with limitMs := bitsOf v.toNat 0 16 } } }
    ∧ exec (.registerWrite 0 0x1C00018 64 v) s
      = .next { s with dev := { s.dev with ldg := { s.dev.ldg with first := v.toNat } } }
    ∧ exec (.registerWrite 0 (0x10000 * c.val + 0x44) 32 v) s
      = .next { s with dev := s.dev.modCtx c fun x => { x with irq := bitOf v.toNat 0 } }
    ∧ exec (.registerWrite 0 (0x10000 * c.val + 0x38) 64 v) s
      = .next { s with dev := s.dev.modCtx c fun x =>
          if (BitVec.ofNat 32 (v.toNat / 2 ^ 32) - x.eqHead).toNat ≤ (x.eqTail - x.eqHead).toNat
          then { x with eqHead := BitVec.ofNat 32 (v.toNat / 2 ^ 32) } else x }
    ∧ (s.dev.mbx.doorbell = true → exec (.registerWrite 0 0x200008 64 v) s = .next s)
    ∧ (s.dev.fab.enable = true → exec (.registerWrite 0 0x1400008 32 v) s = .next s)
    ∧ (s.dev.fab.enable = false → exec (.registerWrite 0 0x1400008 32 v) s
      = .next { s with dev := { s.dev with fab := { s.dev.fab with id := bitsOf v.toNat 0 20 } } })

/-- An event (R184, R186): in a full queue it is only counted, LOST saturating; else its 32 bytes stand at TAIL, PHASE 1 on the
first pass and inverted on each later one, TAIL moves on by one, and vector c goes out where the context asks for it. While no
event is held (R389, R390) and the place is in memory that is there (R146). -/
def Obligations.EventsFillTheirQueueInOrder : Prop :=
  ∀ (d : Dev) (c : Fin 16) (seq : W32) (type status : Nat) (step : W64) (detail : Nat),
    let x := d.ctx c
    let size := 2 ^ x.eqLog2
    x.state ≠ .closed → d.clk.refLost = false → d.clk.heldEvents = [] →
    d.inRemoved (x.eqBase + 32 * (x.eqTail.toNat % size)) 32 = false → type < 0x8000 → status < 256 →
    (size ≤ (x.eqTail - x.eqHead).toNat → d.eventAt c seq type status step detail
      = d.modCtx c fun x => { x with overflow := true, lost := min 0xFFFF (x.lost + 1) })
    ∧ ((x.eqTail - x.eqHead).toNat < size → ∃ e : Dev, d.eventAt c seq type status step detail = e
      ∧ e = { d with ctxs := d.ctxs.set c { x with eqTail := x.eqTail + 1 }, mem := e.mem, out := e.out }
      ∧ e.out = d.out ++ (if x.irq then [.msix c.val] else [])
      ∧ (let a := x.eqBase + 32 * (x.eqTail.toNat % size)
         let b := readCells e.mem.cells a 32
         fieldAt b 0 8 = d.tbNs % 2 ^ 64 ∧ fieldAt b 8 4 = seq.toNat
         ∧ fieldAt b 12 2 = type + (if x.eqTail.toNat / size % 2 = 0 then 0x8000 else 0) ∧ fieldAt b 14 1 = status
         ∧ fieldAt b 15 1 = x.state.code ∧ fieldAt b 16 8 = step.toNat ∧ fieldAt b 24 8 = detail % 2 ^ 64
         ∧ ∀ i, i < a ∨ a + 32 ≤ i → byteAt e.mem.cells i = byteAt d.mem.cells i))

/-- LDG_COPY_START (R358): without START only COUNT is stored; a bad destination ends at once with BAD_ARG; records before the one
that is written next are copied to the destination in order. Completes: ldgCopyStart. -/
def Obligations.LedgerRecordsAreCopied : Prop :=
  ∀ (s : State) (v : W32),
    let n := bitsOf v.toNat 0 17
    let l := s.dev.ldg
    (bitOf v.toNat 17 = false ∨ l.running.isSome = true → exec (.ldgCopyStart v) s = .next { s with
        dev := { s.dev with ldg := { l with count := n } } })
    ∧ (bitOf v.toNat 17 = true → l.running = none →
      (n = 0 ∨ 65536 < n ∨ aligned l.dst 256 = false ∨ s.dev.slowStatus l.dst (256 * n) ≠ stOk →
        exec (.ldgCopyStart v) s = .next { s with
          dev := { s.dev with ldg := { l with count := n, copied := 0, result := stBadArg } } })
      ∧ (1 ≤ n → n ≤ 65536 → aligned l.dst 256 = true → s.dev.slowStatus l.dst (256 * n) = stOk →
        freeRanges s.dev [(l.dst, 256 * n), (s.dev.reservedBase, 256 * 65536)] → cleanMemory s.dev →
        (∀ e ∈ l.records, e.2.length = 256) → (∀ k, k < n → (l.first + k) % 65536 ≠ l.next % 65536) →
        ∃ d : Dev, exec (.ldgCopyStart v) s = .next { s with dev := d }
          ∧ d = { s.dev with mem := d.mem, ldg := { l with count := n, running := none, copied := n, result := stOk } }
          ∧ (∀ k, k < n → readCells d.mem.cells (l.dst + 256 * k) 256
              = lookupD ((l.first + k) % 65536) (List.replicate 256 0) l.records)
          ∧ ∀ a, a < l.dst ∨ l.dst + 256 * n ≤ a → byteAt d.mem.cells a = byteAt s.dev.mem.cells a))

/-- R116: MAX and MIN, in stages and in reductions, give the canonical NaN where either operand is NaN, and of the two zeros +0
and −0, in either order. -/
def Obligations.MaxAndMinOfNanAndZeros : Prop :=
  ∀ (mode : FpMode) (p : Nat) (a b c : W32),
    (isNan a = true ∨ isNan b = true → (VecOp.apply .max mode p a b c).bits = canonNan mode
      ∧ (VecOp.apply .min mode p a b c).bits = canonNan mode
      ∧ ∀ m n, (VecOp.combine .redMax mode ⟨a, m⟩ ⟨b, n⟩).bits = canonNan mode
        ∧ (VecOp.combine .redMin mode ⟨a, m⟩ ⟨b, n⟩).bits = canonNan mode)
    ∧ (∀ z y, (z = 0 ∧ y = 0x80000000#32) ∨ (z = 0x80000000#32 ∧ y = 0) →
      (VecOp.apply .max mode p z y c).bits = 0 ∧ (VecOp.apply .min mode p z y c).bits = 0x80000000#32
      ∧ ∀ m n, (VecOp.combine .redMax mode ⟨z, m⟩ ⟨y, n⟩).bits = 0
        ∧ (VecOp.combine .redMin mode ⟨z, m⟩ ⟨y, n⟩).bits = 0x80000000#32)
end

