-- ==== Sys2Proof/Laws/State.lean ====
section
/-! SUPPORT. Small laws of the updates of the device's record: one for each field that an update leaves alone, and what it makes
of the field it changes. Every one is true by unfolding, so that no later proof unfolds a record update. -/

namespace Sys2Proof.Machine

open Sys2Proof

variable (d : Dev)

/-! ### Dev.emit -/

@[simp] theorem Dev.emit_mem (o : Output) : (d.emit o).mem = d.mem := rfl
@[simp] theorem Dev.emit_rsv (o : Output) : (d.emit o).rsv = d.rsv := rfl
@[simp] theorem Dev.emit_mxa (o : Output) : (d.emit o).mxa = d.mxa := rfl
@[simp] theorem Dev.emit_flm (o : Output) : (d.emit o).flm = d.flm := rfl
@[simp] theorem Dev.emit_vxe (o : Output) : (d.emit o).vxe = d.vxe := rfl
@[simp] theorem Dev.emit_clv (o : Output) : (d.emit o).clv = d.clv := rfl
@[simp] theorem Dev.emit_ctl (o : Output) : (d.emit o).ctl = d.ctl := rfl
@[simp] theorem Dev.emit_ctxs (o : Output) : (d.emit o).ctxs = d.ctxs := rfl
@[simp] theorem Dev.emit_mbx (o : Output) : (d.emit o).mbx = d.mbx := rfl
@[simp] theorem Dev.emit_upd (o : Output) : (d.emit o).upd = d.upd := rfl
@[simp] theorem Dev.emit_slcs (o : Output) : (d.emit o).slcs = d.slcs := rfl
@[simp] theorem Dev.emit_fab (o : Output) : (d.emit o).fab = d.fab := rfl
@[simp] theorem Dev.emit_red (o : Output) : (d.emit o).red = d.red := rfl
@[simp] theorem Dev.emit_lat (o : Output) : (d.emit o).lat = d.lat := rfl
@[simp] theorem Dev.emit_trn (o : Output) : (d.emit o).trn = d.trn := rfl
@[simp] theorem Dev.emit_sip (o : Output) : (d.emit o).sip = d.sip := rfl
@[simp] theorem Dev.emit_ldg (o : Output) : (d.emit o).ldg = d.ldg := rfl
@[simp] theorem Dev.emit_hg (o : Output) : (d.emit o).hg = d.hg := rfl
@[simp] theorem Dev.emit_clk (o : Output) : (d.emit o).clk = d.clk := rfl
@[simp] theorem Dev.emit_boot (o : Output) : (d.emit o).boot = d.boot := rfl
@[simp] theorem Dev.emit_sec (o : Output) : (d.emit o).sec = d.sec := rfl
@[simp] theorem Dev.emit_link (o : Output) : (d.emit o).link = d.link := rfl
@[simp] theorem Dev.emit_cis (o : Output) : (d.emit o).cis = d.cis := rfl
@[simp] theorem Dev.emit_meter (o : Output) : (d.emit o).meter = d.meter := rfl
@[simp] theorem Dev.emit_dispatched (o : Output) : (d.emit o).dispatched = d.dispatched := rfl
@[simp] theorem Dev.emit_free (o : Output) : (d.emit o).free = d.free := rfl

/-! ### Dev.emitAll -/

@[simp] theorem Dev.emitAll_mem (os : List Output) : (d.emitAll os).mem = d.mem := rfl
@[simp] theorem Dev.emitAll_rsv (os : List Output) : (d.emitAll os).rsv = d.rsv := rfl
@[simp] theorem Dev.emitAll_mxa (os : List Output) : (d.emitAll os).mxa = d.mxa := rfl
@[simp] theorem Dev.emitAll_flm (os : List Output) : (d.emitAll os).flm = d.flm := rfl
@[simp] theorem Dev.emitAll_vxe (os : List Output) : (d.emitAll os).vxe = d.vxe := rfl
@[simp] theorem Dev.emitAll_clv (os : List Output) : (d.emitAll os).clv = d.clv := rfl
@[simp] theorem Dev.emitAll_ctl (os : List Output) : (d.emitAll os).ctl = d.ctl := rfl
@[simp] theorem Dev.emitAll_ctxs (os : List Output) : (d.emitAll os).ctxs = d.ctxs := rfl
@[simp] theorem Dev.emitAll_mbx (os : List Output) : (d.emitAll os).mbx = d.mbx := rfl
@[simp] theorem Dev.emitAll_upd (os : List Output) : (d.emitAll os).upd = d.upd := rfl
@[simp] theorem Dev.emitAll_slcs (os : List Output) : (d.emitAll os).slcs = d.slcs := rfl
@[simp] theorem Dev.emitAll_fab (os : List Output) : (d.emitAll os).fab = d.fab := rfl
@[simp] theorem Dev.emitAll_red (os : List Output) : (d.emitAll os).red = d.red := rfl
@[simp] theorem Dev.emitAll_lat (os : List Output) : (d.emitAll os).lat = d.lat := rfl
@[simp] theorem Dev.emitAll_trn (os : List Output) : (d.emitAll os).trn = d.trn := rfl
@[simp] theorem Dev.emitAll_sip (os : List Output) : (d.emitAll os).sip = d.sip := rfl
@[simp] theorem Dev.emitAll_ldg (os : List Output) : (d.emitAll os).ldg = d.ldg := rfl
@[simp] theorem Dev.emitAll_hg (os : List Output) : (d.emitAll os).hg = d.hg := rfl
@[simp] theorem Dev.emitAll_clk (os : List Output) : (d.emitAll os).clk = d.clk := rfl
@[simp] theorem Dev.emitAll_boot (os : List Output) : (d.emitAll os).boot = d.boot := rfl
@[simp] theorem Dev.emitAll_sec (os : List Output) : (d.emitAll os).sec = d.sec := rfl
@[simp] theorem Dev.emitAll_link (os : List Output) : (d.emitAll os).link = d.link := rfl
@[simp] theorem Dev.emitAll_cis (os : List Output) : (d.emitAll os).cis = d.cis := rfl
@[simp] theorem Dev.emitAll_meter (os : List Output) : (d.emitAll os).meter = d.meter := rfl
@[simp] theorem Dev.emitAll_dispatched (os : List Output) : (d.emitAll os).dispatched = d.dispatched := rfl
@[simp] theorem Dev.emitAll_free (os : List Output) : (d.emitAll os).free = d.free := rfl

/-! ### Dev.modCtx -/

@[simp] theorem Dev.modCtx_mem (c : Fin 16) (f : Ctx → Ctx) : (d.modCtx c f).mem = d.mem := rfl
@[simp] theorem Dev.modCtx_rsv (c : Fin 16) (f : Ctx → Ctx) : (d.modCtx c f).rsv = d.rsv := rfl
@[simp] theorem Dev.modCtx_mxa (c : Fin 16) (f : Ctx → Ctx) : (d.modCtx c f).mxa = d.mxa := rfl
@[simp] theorem Dev.modCtx_flm (c : Fin 16) (f : Ctx → Ctx) : (d.modCtx c f).flm = d.flm := rfl
@[simp] theorem Dev.modCtx_vxe (c : Fin 16) (f : Ctx → Ctx) : (d.modCtx c f).vxe = d.vxe := rfl
@[simp] theorem Dev.modCtx_clv (c : Fin 16) (f : Ctx → Ctx) : (d.modCtx c f).clv = d.clv := rfl
@[simp] theorem Dev.modCtx_ctl (c : Fin 16) (f : Ctx → Ctx) : (d.modCtx c f).ctl = d.ctl := rfl
@[simp] theorem Dev.modCtx_mbx (c : Fin 16) (f : Ctx → Ctx) : (d.modCtx c f).mbx = d.mbx := rfl
@[simp] theorem Dev.modCtx_upd (c : Fin 16) (f : Ctx → Ctx) : (d.modCtx c f).upd = d.upd := rfl
@[simp] theorem Dev.modCtx_slcs (c : Fin 16) (f : Ctx → Ctx) : (d.modCtx c f).slcs = d.slcs := rfl
@[simp] theorem Dev.modCtx_fab (c : Fin 16) (f : Ctx → Ctx) : (d.modCtx c f).fab = d.fab := rfl
@[simp] theorem Dev.modCtx_red (c : Fin 16) (f : Ctx → Ctx) : (d.modCtx c f).red = d.red := rfl
@[simp] theorem Dev.modCtx_lat (c : Fin 16) (f : Ctx → Ctx) : (d.modCtx c f).lat = d.lat := rfl
@[simp] theorem Dev.modCtx_trn (c : Fin 16) (f : Ctx → Ctx) : (d.modCtx c f).trn = d.trn := rfl
@[simp] theorem Dev.modCtx_sip (c : Fin 16) (f : Ctx → Ctx) : (d.modCtx c f).sip = d.sip := rfl
@[simp] theorem Dev.modCtx_ldg (c : Fin 16) (f : Ctx → Ctx) : (d.modCtx c f).ldg = d.ldg := rfl
@[simp] theorem Dev.modCtx_hg (c : Fin 16) (f : Ctx → Ctx) : (d.modCtx c f).hg = d.hg := rfl
@[simp] theorem Dev.modCtx_clk (c : Fin 16) (f : Ctx → Ctx) : (d.modCtx c f).clk = d.clk := rfl
@[simp] theorem Dev.modCtx_boot (c : Fin 16) (f : Ctx → Ctx) : (d.modCtx c f).boot = d.boot := rfl
@[simp] theorem Dev.modCtx_sec (c : Fin 16) (f : Ctx → Ctx) : (d.modCtx c f).sec = d.sec := rfl
@[simp] theorem Dev.modCtx_link (c : Fin 16) (f : Ctx → Ctx) : (d.modCtx c f).link = d.link := rfl
@[simp] theorem Dev.modCtx_cis (c : Fin 16) (f : Ctx → Ctx) : (d.modCtx c f).cis = d.cis := rfl
@[simp] theorem Dev.modCtx_meter (c : Fin 16) (f : Ctx → Ctx) : (d.modCtx c f).meter = d.meter := rfl
@[simp] theorem Dev.modCtx_out (c : Fin 16) (f : Ctx → Ctx) : (d.modCtx c f).out = d.out := rfl
@[simp] theorem Dev.modCtx_dispatched (c : Fin 16) (f : Ctx → Ctx) : (d.modCtx c f).dispatched = d.dispatched := rfl
@[simp] theorem Dev.modCtx_free (c : Fin 16) (f : Ctx → Ctx) : (d.modCtx c f).free = d.free := rfl

/-! ### Dev.modSlc -/

@[simp] theorem Dev.modSlc_mem (c : Fin 16) (f : Slc → Slc) : (d.modSlc c f).mem = d.mem := rfl
@[simp] theorem Dev.modSlc_rsv (c : Fin 16) (f : Slc → Slc) : (d.modSlc c f).rsv = d.rsv := rfl
@[simp] theorem Dev.modSlc_mxa (c : Fin 16) (f : Slc → Slc) : (d.modSlc c f).mxa = d.mxa := rfl
@[simp] theorem Dev.modSlc_flm (c : Fin 16) (f : Slc → Slc) : (d.modSlc c f).flm = d.flm := rfl
@[simp] theorem Dev.modSlc_vxe (c : Fin 16) (f : Slc → Slc) : (d.modSlc c f).vxe = d.vxe := rfl
@[simp] theorem Dev.modSlc_clv (c : Fin 16) (f : Slc → Slc) : (d.modSlc c f).clv = d.clv := rfl
@[simp] theorem Dev.modSlc_ctl (c : Fin 16) (f : Slc → Slc) : (d.modSlc c f).ctl = d.ctl := rfl
@[simp] theorem Dev.modSlc_ctxs (c : Fin 16) (f : Slc → Slc) : (d.modSlc c f).ctxs = d.ctxs := rfl
@[simp] theorem Dev.modSlc_mbx (c : Fin 16) (f : Slc → Slc) : (d.modSlc c f).mbx = d.mbx := rfl
@[simp] theorem Dev.modSlc_upd (c : Fin 16) (f : Slc → Slc) : (d.modSlc c f).upd = d.upd := rfl
@[simp] theorem Dev.modSlc_fab (c : Fin 16) (f : Slc → Slc) : (d.modSlc c f).fab = d.fab := rfl
@[simp] theorem Dev.modSlc_red (c : Fin 16) (f : Slc → Slc) : (d.modSlc c f).red = d.red := rfl
@[simp] theorem Dev.modSlc_lat (c : Fin 16) (f : Slc → Slc) : (d.modSlc c f).lat = d.lat := rfl
@[simp] theorem Dev.modSlc_trn (c : Fin 16) (f : Slc → Slc) : (d.modSlc c f).trn = d.trn := rfl
@[simp] theorem Dev.modSlc_sip (c : Fin 16) (f : Slc → Slc) : (d.modSlc c f).sip = d.sip := rfl
@[simp] theorem Dev.modSlc_ldg (c : Fin 16) (f : Slc → Slc) : (d.modSlc c f).ldg = d.ldg := rfl
@[simp] theorem Dev.modSlc_hg (c : Fin 16) (f : Slc → Slc) : (d.modSlc c f).hg = d.hg := rfl
@[simp] theorem Dev.modSlc_clk (c : Fin 16) (f : Slc → Slc) : (d.modSlc c f).clk = d.clk := rfl
@[simp] theorem Dev.modSlc_boot (c : Fin 16) (f : Slc → Slc) : (d.modSlc c f).boot = d.boot := rfl
@[simp] theorem Dev.modSlc_sec (c : Fin 16) (f : Slc → Slc) : (d.modSlc c f).sec = d.sec := rfl
@[simp] theorem Dev.modSlc_link (c : Fin 16) (f : Slc → Slc) : (d.modSlc c f).link = d.link := rfl
@[simp] theorem Dev.modSlc_cis (c : Fin 16) (f : Slc → Slc) : (d.modSlc c f).cis = d.cis := rfl
@[simp] theorem Dev.modSlc_meter (c : Fin 16) (f : Slc → Slc) : (d.modSlc c f).meter = d.meter := rfl
@[simp] theorem Dev.modSlc_out (c : Fin 16) (f : Slc → Slc) : (d.modSlc c f).out = d.out := rfl
@[simp] theorem Dev.modSlc_dispatched (c : Fin 16) (f : Slc → Slc) : (d.modSlc c f).dispatched = d.dispatched := rfl
@[simp] theorem Dev.modSlc_free (c : Fin 16) (f : Slc → Slc) : (d.modSlc c f).free = d.free := rfl

/-! ### Dev.modMeters -/

@[simp] theorem Dev.modMeters_mem (c : Fin 16) (f : Meters → Meters) : (d.modMeters c f).mem = d.mem := rfl
@[simp] theorem Dev.modMeters_rsv (c : Fin 16) (f : Meters → Meters) : (d.modMeters c f).rsv = d.rsv := rfl
@[simp] theorem Dev.modMeters_mxa (c : Fin 16) (f : Meters → Meters) : (d.modMeters c f).mxa = d.mxa := rfl
@[simp] theorem Dev.modMeters_flm (c : Fin 16) (f : Meters → Meters) : (d.modMeters c f).flm = d.flm := rfl
@[simp] theorem Dev.modMeters_vxe (c : Fin 16) (f : Meters → Meters) : (d.modMeters c f).vxe = d.vxe := rfl
@[simp] theorem Dev.modMeters_clv (c : Fin 16) (f : Meters → Meters) : (d.modMeters c f).clv = d.clv := rfl
@[simp] theorem Dev.modMeters_ctl (c : Fin 16) (f : Meters → Meters) : (d.modMeters c f).ctl = d.ctl := rfl
@[simp] theorem Dev.modMeters_ctxs (c : Fin 16) (f : Meters → Meters) : (d.modMeters c f).ctxs = d.ctxs := rfl
@[simp] theorem Dev.modMeters_mbx (c : Fin 16) (f : Meters → Meters) : (d.modMeters c f).mbx = d.mbx := rfl
@[simp] theorem Dev.modMeters_upd (c : Fin 16) (f : Meters → Meters) : (d.modMeters c f).upd = d.upd := rfl
@[simp] theorem Dev.modMeters_fab (c : Fin 16) (f : Meters → Meters) : (d.modMeters c f).fab = d.fab := rfl
@[simp] theorem Dev.modMeters_red (c : Fin 16) (f : Meters → Meters) : (d.modMeters c f).red = d.red := rfl
@[simp] theorem Dev.modMeters_lat (c : Fin 16) (f : Meters → Meters) : (d.modMeters c f).lat = d.lat := rfl
@[simp] theorem Dev.modMeters_trn (c : Fin 16) (f : Meters → Meters) : (d.modMeters c f).trn = d.trn := rfl
@[simp] theorem Dev.modMeters_sip (c : Fin 16) (f : Meters → Meters) : (d.modMeters c f).sip = d.sip := rfl
@[simp] theorem Dev.modMeters_ldg (c : Fin 16) (f : Meters → Meters) : (d.modMeters c f).ldg = d.ldg := rfl
@[simp] theorem Dev.modMeters_hg (c : Fin 16) (f : Meters → Meters) : (d.modMeters c f).hg = d.hg := rfl
@[simp] theorem Dev.modMeters_clk (c : Fin 16) (f : Meters → Meters) : (d.modMeters c f).clk = d.clk := rfl
@[simp] theorem Dev.modMeters_boot (c : Fin 16) (f : Meters → Meters) : (d.modMeters c f).boot = d.boot := rfl
@[simp] theorem Dev.modMeters_sec (c : Fin 16) (f : Meters → Meters) : (d.modMeters c f).sec = d.sec := rfl
@[simp] theorem Dev.modMeters_link (c : Fin 16) (f : Meters → Meters) : (d.modMeters c f).link = d.link := rfl
@[simp] theorem Dev.modMeters_cis (c : Fin 16) (f : Meters → Meters) : (d.modMeters c f).cis = d.cis := rfl
@[simp] theorem Dev.modMeters_meter (c : Fin 16) (f : Meters → Meters) : (d.modMeters c f).meter = d.meter := rfl
@[simp] theorem Dev.modMeters_out (c : Fin 16) (f : Meters → Meters) : (d.modMeters c f).out = d.out := rfl
@[simp] theorem Dev.modMeters_dispatched (c : Fin 16) (f : Meters → Meters) : (d.modMeters c f).dispatched = d.dispatched := rfl
@[simp] theorem Dev.modMeters_free (c : Fin 16) (f : Meters → Meters) : (d.modMeters c f).free = d.free := rfl

/-! ### Dev.setShard -/

@[simp] theorem Dev.setShard_mem (h : Nat) (x : Shard) : (d.setShard h x).mem = d.mem := rfl
@[simp] theorem Dev.setShard_rsv (h : Nat) (x : Shard) : (d.setShard h x).rsv = d.rsv := rfl
@[simp] theorem Dev.setShard_mxa (h : Nat) (x : Shard) : (d.setShard h x).mxa = d.mxa := rfl
@[simp] theorem Dev.setShard_flm (h : Nat) (x : Shard) : (d.setShard h x).flm = d.flm := rfl
@[simp] theorem Dev.setShard_vxe (h : Nat) (x : Shard) : (d.setShard h x).vxe = d.vxe := rfl
@[simp] theorem Dev.setShard_clv (h : Nat) (x : Shard) : (d.setShard h x).clv = d.clv := rfl
@[simp] theorem Dev.setShard_ctl (h : Nat) (x : Shard) : (d.setShard h x).ctl = d.ctl := rfl
@[simp] theorem Dev.setShard_ctxs (h : Nat) (x : Shard) : (d.setShard h x).ctxs = d.ctxs := rfl
@[simp] theorem Dev.setShard_mbx (h : Nat) (x : Shard) : (d.setShard h x).mbx = d.mbx := rfl
@[simp] theorem Dev.setShard_slcs (h : Nat) (x : Shard) : (d.setShard h x).slcs = d.slcs := rfl
@[simp] theorem Dev.setShard_fab (h : Nat) (x : Shard) : (d.setShard h x).fab = d.fab := rfl
@[simp] theorem Dev.setShard_red (h : Nat) (x : Shard) : (d.setShard h x).red = d.red := rfl
@[simp] theorem Dev.setShard_lat (h : Nat) (x : Shard) : (d.setShard h x).lat = d.lat := rfl
@[simp] theorem Dev.setShard_trn (h : Nat) (x : Shard) : (d.setShard h x).trn = d.trn := rfl
@[simp] theorem Dev.setShard_sip (h : Nat) (x : Shard) : (d.setShard h x).sip = d.sip := rfl
@[simp] theorem Dev.setShard_ldg (h : Nat) (x : Shard) : (d.setShard h x).ldg = d.ldg := rfl
@[simp] theorem Dev.setShard_hg (h : Nat) (x : Shard) : (d.setShard h x).hg = d.hg := rfl
@[simp] theorem Dev.setShard_clk (h : Nat) (x : Shard) : (d.setShard h x).clk = d.clk := rfl
@[simp] theorem Dev.setShard_boot (h : Nat) (x : Shard) : (d.setShard h x).boot = d.boot := rfl
@[simp] theorem Dev.setShard_sec (h : Nat) (x : Shard) : (d.setShard h x).sec = d.sec := rfl
@[simp] theorem Dev.setShard_link (h : Nat) (x : Shard) : (d.setShard h x).link = d.link := rfl
@[simp] theorem Dev.setShard_cis (h : Nat) (x : Shard) : (d.setShard h x).cis = d.cis := rfl
@[simp] theorem Dev.setShard_meter (h : Nat) (x : Shard) : (d.setShard h x).meter = d.meter := rfl
@[simp] theorem Dev.setShard_out (h : Nat) (x : Shard) : (d.setShard h x).out = d.out := rfl
@[simp] theorem Dev.setShard_dispatched (h : Nat) (x : Shard) : (d.setShard h x).dispatched = d.dispatched := rfl
@[simp] theorem Dev.setShard_free (h : Nat) (x : Shard) : (d.setShard h x).free = d.free := rfl

/-! ### Dev.modShard -/

@[simp] theorem Dev.modShard_mem (h : Nat) (f : Shard → Shard) : (d.modShard h f).mem = d.mem := rfl
@[simp] theorem Dev.modShard_rsv (h : Nat) (f : Shard → Shard) : (d.modShard h f).rsv = d.rsv := rfl
@[simp] theorem Dev.modShard_mxa (h : Nat) (f : Shard → Shard) : (d.modShard h f).mxa = d.mxa := rfl
@[simp] theorem Dev.modShard_flm (h : Nat) (f : Shard → Shard) : (d.modShard h f).flm = d.flm := rfl
@[simp] theorem Dev.modShard_vxe (h : Nat) (f : Shard → Shard) : (d.modShard h f).vxe = d.vxe := rfl
@[simp] theorem Dev.modShard_clv (h : Nat) (f : Shard → Shard) : (d.modShard h f).clv = d.clv := rfl
@[simp] theorem Dev.modShard_ctl (h : Nat) (f : Shard → Shard) : (d.modShard h f).ctl = d.ctl := rfl
@[simp] theorem Dev.modShard_ctxs (h : Nat) (f : Shard → Shard) : (d.modShard h f).ctxs = d.ctxs := rfl
@[simp] theorem Dev.modShard_mbx (h : Nat) (f : Shard → Shard) : (d.modShard h f).mbx = d.mbx := rfl
@[simp] theorem Dev.modShard_slcs (h : Nat) (f : Shard → Shard) : (d.modShard h f).slcs = d.slcs := rfl
@[simp] theorem Dev.modShard_fab (h : Nat) (f : Shard → Shard) : (d.modShard h f).fab = d.fab := rfl
@[simp] theorem Dev.modShard_red (h : Nat) (f : Shard → Shard) : (d.modShard h f).red = d.red := rfl
@[simp] theorem Dev.modShard_lat (h : Nat) (f : Shard → Shard) : (d.modShard h f).lat = d.lat := rfl
@[simp] theorem Dev.modShard_trn (h : Nat) (f : Shard → Shard) : (d.modShard h f).trn = d.trn := rfl
@[simp] theorem Dev.modShard_sip (h : Nat) (f : Shard → Shard) : (d.modShard h f).sip = d.sip := rfl
@[simp] theorem Dev.modShard_ldg (h : Nat) (f : Shard → Shard) : (d.modShard h f).ldg = d.ldg := rfl
@[simp] theorem Dev.modShard_hg (h : Nat) (f : Shard → Shard) : (d.modShard h f).hg = d.hg := rfl
@[simp] theorem Dev.modShard_clk (h : Nat) (f : Shard → Shard) : (d.modShard h f).clk = d.clk := rfl
@[simp] theorem Dev.modShard_boot (h : Nat) (f : Shard → Shard) : (d.modShard h f).boot = d.boot := rfl
@[simp] theorem Dev.modShard_sec (h : Nat) (f : Shard → Shard) : (d.modShard h f).sec = d.sec := rfl
@[simp] theorem Dev.modShard_link (h : Nat) (f : Shard → Shard) : (d.modShard h f).link = d.link := rfl
@[simp] theorem Dev.modShard_cis (h : Nat) (f : Shard → Shard) : (d.modShard h f).cis = d.cis := rfl
@[simp] theorem Dev.modShard_meter (h : Nat) (f : Shard → Shard) : (d.modShard h f).meter = d.meter := rfl
@[simp] theorem Dev.modShard_out (h : Nat) (f : Shard → Shard) : (d.modShard h f).out = d.out := rfl
@[simp] theorem Dev.modShard_dispatched (h : Nat) (f : Shard → Shard) : (d.modShard h f).dispatched = d.dispatched := rfl
@[simp] theorem Dev.modShard_free (h : Nat) (f : Shard → Shard) : (d.modShard h f).free = d.free := rfl

/-! ### Dev.modShards -/

@[simp] theorem Dev.modShards_mem (p : Shard → Bool) (f : Shard → Shard) : (d.modShards p f).mem = d.mem := rfl
@[simp] theorem Dev.modShards_rsv (p : Shard → Bool) (f : Shard → Shard) : (d.modShards p f).rsv = d.rsv := rfl
@[simp] theorem Dev.modShards_mxa (p : Shard → Bool) (f : Shard → Shard) : (d.modShards p f).mxa = d.mxa := rfl
@[simp] theorem Dev.modShards_flm (p : Shard → Bool) (f : Shard → Shard) : (d.modShards p f).flm = d.flm := rfl
@[simp] theorem Dev.modShards_vxe (p : Shard → Bool) (f : Shard → Shard) : (d.modShards p f).vxe = d.vxe := rfl
@[simp] theorem Dev.modShards_clv (p : Shard → Bool) (f : Shard → Shard) : (d.modShards p f).clv = d.clv := rfl
@[simp] theorem Dev.modShards_ctl (p : Shard → Bool) (f : Shard → Shard) : (d.modShards p f).ctl = d.ctl := rfl
@[simp] theorem Dev.modShards_ctxs (p : Shard → Bool) (f : Shard → Shard) : (d.modShards p f).ctxs = d.ctxs := rfl
@[simp] theorem Dev.modShards_mbx (p : Shard → Bool) (f : Shard → Shard) : (d.modShards p f).mbx = d.mbx := rfl
@[simp] theorem Dev.modShards_slcs (p : Shard → Bool) (f : Shard → Shard) : (d.modShards p f).slcs = d.slcs := rfl
@[simp] theorem Dev.modShards_fab (p : Shard → Bool) (f : Shard → Shard) : (d.modShards p f).fab = d.fab := rfl
@[simp] theorem Dev.modShards_red (p : Shard → Bool) (f : Shard → Shard) : (d.modShards p f).red = d.red := rfl
@[simp] theorem Dev.modShards_lat (p : Shard → Bool) (f : Shard → Shard) : (d.modShards p f).lat = d.lat := rfl
@[simp] theorem Dev.modShards_trn (p : Shard → Bool) (f : Shard → Shard) : (d.modShards p f).trn = d.trn := rfl
@[simp] theorem Dev.modShards_sip (p : Shard → Bool) (f : Shard → Shard) : (d.modShards p f).sip = d.sip := rfl
@[simp] theorem Dev.modShards_ldg (p : Shard → Bool) (f : Shard → Shard) : (d.modShards p f).ldg = d.ldg := rfl
@[simp] theorem Dev.modShards_hg (p : Shard → Bool) (f : Shard → Shard) : (d.modShards p f).hg = d.hg := rfl
@[simp] theorem Dev.modShards_clk (p : Shard → Bool) (f : Shard → Shard) : (d.modShards p f).clk = d.clk := rfl
@[simp] theorem Dev.modShards_boot (p : Shard → Bool) (f : Shard → Shard) : (d.modShards p f).boot = d.boot := rfl
@[simp] theorem Dev.modShards_sec (p : Shard → Bool) (f : Shard → Shard) : (d.modShards p f).sec = d.sec := rfl
@[simp] theorem Dev.modShards_link (p : Shard → Bool) (f : Shard → Shard) : (d.modShards p f).link = d.link := rfl
@[simp] theorem Dev.modShards_cis (p : Shard → Bool) (f : Shard → Shard) : (d.modShards p f).cis = d.cis := rfl
@[simp] theorem Dev.modShards_meter (p : Shard → Bool) (f : Shard → Shard) : (d.modShards p f).meter = d.meter := rfl
@[simp] theorem Dev.modShards_out (p : Shard → Bool) (f : Shard → Shard) : (d.modShards p f).out = d.out := rfl
@[simp] theorem Dev.modShards_dispatched (p : Shard → Bool) (f : Shard → Shard) : (d.modShards p f).dispatched = d.dispatched := rfl
@[simp] theorem Dev.modShards_free (p : Shard → Bool) (f : Shard → Shard) : (d.modShards p f).free = d.free := rfl

/-! ### Dev.modPort -/

@[simp] theorem Dev.modPort_mem (p : Fin 96) (f : Port → Port) : (d.modPort p f).mem = d.mem := rfl
@[simp] theorem Dev.modPort_rsv (p : Fin 96) (f : Port → Port) : (d.modPort p f).rsv = d.rsv := rfl
@[simp] theorem Dev.modPort_mxa (p : Fin 96) (f : Port → Port) : (d.modPort p f).mxa = d.mxa := rfl
@[simp] theorem Dev.modPort_flm (p : Fin 96) (f : Port → Port) : (d.modPort p f).flm = d.flm := rfl
@[simp] theorem Dev.modPort_vxe (p : Fin 96) (f : Port → Port) : (d.modPort p f).vxe = d.vxe := rfl
@[simp] theorem Dev.modPort_clv (p : Fin 96) (f : Port → Port) : (d.modPort p f).clv = d.clv := rfl
@[simp] theorem Dev.modPort_ctl (p : Fin 96) (f : Port → Port) : (d.modPort p f).ctl = d.ctl := rfl
@[simp] theorem Dev.modPort_ctxs (p : Fin 96) (f : Port → Port) : (d.modPort p f).ctxs = d.ctxs := rfl
@[simp] theorem Dev.modPort_mbx (p : Fin 96) (f : Port → Port) : (d.modPort p f).mbx = d.mbx := rfl
@[simp] theorem Dev.modPort_upd (p : Fin 96) (f : Port → Port) : (d.modPort p f).upd = d.upd := rfl
@[simp] theorem Dev.modPort_slcs (p : Fin 96) (f : Port → Port) : (d.modPort p f).slcs = d.slcs := rfl
@[simp] theorem Dev.modPort_red (p : Fin 96) (f : Port → Port) : (d.modPort p f).red = d.red := rfl
@[simp] theorem Dev.modPort_lat (p : Fin 96) (f : Port → Port) : (d.modPort p f).lat = d.lat := rfl
@[simp] theorem Dev.modPort_trn (p : Fin 96) (f : Port → Port) : (d.modPort p f).trn = d.trn := rfl
@[simp] theorem Dev.modPort_sip (p : Fin 96) (f : Port → Port) : (d.modPort p f).sip = d.sip := rfl
@[simp] theorem Dev.modPort_ldg (p : Fin 96) (f : Port → Port) : (d.modPort p f).ldg = d.ldg := rfl
@[simp] theorem Dev.modPort_hg (p : Fin 96) (f : Port → Port) : (d.modPort p f).hg = d.hg := rfl
@[simp] theorem Dev.modPort_clk (p : Fin 96) (f : Port → Port) : (d.modPort p f).clk = d.clk := rfl
@[simp] theorem Dev.modPort_boot (p : Fin 96) (f : Port → Port) : (d.modPort p f).boot = d.boot := rfl
@[simp] theorem Dev.modPort_sec (p : Fin 96) (f : Port → Port) : (d.modPort p f).sec = d.sec := rfl
@[simp] theorem Dev.modPort_link (p : Fin 96) (f : Port → Port) : (d.modPort p f).link = d.link := rfl
@[simp] theorem Dev.modPort_cis (p : Fin 96) (f : Port → Port) : (d.modPort p f).cis = d.cis := rfl
@[simp] theorem Dev.modPort_meter (p : Fin 96) (f : Port → Port) : (d.modPort p f).meter = d.meter := rfl
@[simp] theorem Dev.modPort_out (p : Fin 96) (f : Port → Port) : (d.modPort p f).out = d.out := rfl
@[simp] theorem Dev.modPort_dispatched (p : Fin 96) (f : Port → Port) : (d.modPort p f).dispatched = d.dispatched := rfl
@[simp] theorem Dev.modPort_free (p : Fin 96) (f : Port → Port) : (d.modPort p f).free = d.free := rfl

/-! ### Dev.modLat -/

@[simp] theorem Dev.modLat_mem (p : Fin 96) (f : Lat → Lat) : (d.modLat p f).mem = d.mem := rfl
@[simp] theorem Dev.modLat_rsv (p : Fin 96) (f : Lat → Lat) : (d.modLat p f).rsv = d.rsv := rfl
@[simp] theorem Dev.modLat_mxa (p : Fin 96) (f : Lat → Lat) : (d.modLat p f).mxa = d.mxa := rfl
@[simp] theorem Dev.modLat_flm (p : Fin 96) (f : Lat → Lat) : (d.modLat p f).flm = d.flm := rfl
@[simp] theorem Dev.modLat_vxe (p : Fin 96) (f : Lat → Lat) : (d.modLat p f).vxe = d.vxe := rfl
@[simp] theorem Dev.modLat_clv (p : Fin 96) (f : Lat → Lat) : (d.modLat p f).clv = d.clv := rfl
@[simp] theorem Dev.modLat_ctl (p : Fin 96) (f : Lat → Lat) : (d.modLat p f).ctl = d.ctl := rfl
@[simp] theorem Dev.modLat_ctxs (p : Fin 96) (f : Lat → Lat) : (d.modLat p f).ctxs = d.ctxs := rfl
@[simp] theorem Dev.modLat_mbx (p : Fin 96) (f : Lat → Lat) : (d.modLat p f).mbx = d.mbx := rfl
@[simp] theorem Dev.modLat_upd (p : Fin 96) (f : Lat → Lat) : (d.modLat p f).upd = d.upd := rfl
@[simp] theorem Dev.modLat_slcs (p : Fin 96) (f : Lat → Lat) : (d.modLat p f).slcs = d.slcs := rfl
@[simp] theorem Dev.modLat_fab (p : Fin 96) (f : Lat → Lat) : (d.modLat p f).fab = d.fab := rfl
@[simp] theorem Dev.modLat_red (p : Fin 96) (f : Lat → Lat) : (d.modLat p f).red = d.red := rfl
@[simp] theorem Dev.modLat_trn (p : Fin 96) (f : Lat → Lat) : (d.modLat p f).trn = d.trn := rfl
@[simp] theorem Dev.modLat_sip (p : Fin 96) (f : Lat → Lat) : (d.modLat p f).sip = d.sip := rfl
@[simp] theorem Dev.modLat_ldg (p : Fin 96) (f : Lat → Lat) : (d.modLat p f).ldg = d.ldg := rfl
@[simp] theorem Dev.modLat_hg (p : Fin 96) (f : Lat → Lat) : (d.modLat p f).hg = d.hg := rfl
@[simp] theorem Dev.modLat_clk (p : Fin 96) (f : Lat → Lat) : (d.modLat p f).clk = d.clk := rfl
@[simp] theorem Dev.modLat_boot (p : Fin 96) (f : Lat → Lat) : (d.modLat p f).boot = d.boot := rfl
@[simp] theorem Dev.modLat_sec (p : Fin 96) (f : Lat → Lat) : (d.modLat p f).sec = d.sec := rfl
@[simp] theorem Dev.modLat_link (p : Fin 96) (f : Lat → Lat) : (d.modLat p f).link = d.link := rfl
@[simp] theorem Dev.modLat_cis (p : Fin 96) (f : Lat → Lat) : (d.modLat p f).cis = d.cis := rfl
@[simp] theorem Dev.modLat_meter (p : Fin 96) (f : Lat → Lat) : (d.modLat p f).meter = d.meter := rfl
@[simp] theorem Dev.modLat_out (p : Fin 96) (f : Lat → Lat) : (d.modLat p f).out = d.out := rfl
@[simp] theorem Dev.modLat_dispatched (p : Fin 96) (f : Lat → Lat) : (d.modLat p f).dispatched = d.dispatched := rfl
@[simp] theorem Dev.modLat_free (p : Fin 96) (f : Lat → Lat) : (d.modLat p f).free = d.free := rfl

/-! ### Dev.modTrn -/

@[simp] theorem Dev.modTrn_mem (c : Fin 16) (f : Trn → Trn) : (d.modTrn c f).mem = d.mem := rfl
@[simp] theorem Dev.modTrn_rsv (c : Fin 16) (f : Trn → Trn) : (d.modTrn c f).rsv = d.rsv := rfl
@[simp] theorem Dev.modTrn_mxa (c : Fin 16) (f : Trn → Trn) : (d.modTrn c f).mxa = d.mxa := rfl
@[simp] theorem Dev.modTrn_flm (c : Fin 16) (f : Trn → Trn) : (d.modTrn c f).flm = d.flm := rfl
@[simp] theorem Dev.modTrn_vxe (c : Fin 16) (f : Trn → Trn) : (d.modTrn c f).vxe = d.vxe := rfl
@[simp] theorem Dev.modTrn_clv (c : Fin 16) (f : Trn → Trn) : (d.modTrn c f).clv = d.clv := rfl
@[simp] theorem Dev.modTrn_ctl (c : Fin 16) (f : Trn → Trn) : (d.modTrn c f).ctl = d.ctl := rfl
@[simp] theorem Dev.modTrn_ctxs (c : Fin 16) (f : Trn → Trn) : (d.modTrn c f).ctxs = d.ctxs := rfl
@[simp] theorem Dev.modTrn_mbx (c : Fin 16) (f : Trn → Trn) : (d.modTrn c f).mbx = d.mbx := rfl
@[simp] theorem Dev.modTrn_upd (c : Fin 16) (f : Trn → Trn) : (d.modTrn c f).upd = d.upd := rfl
@[simp] theorem Dev.modTrn_slcs (c : Fin 16) (f : Trn → Trn) : (d.modTrn c f).slcs = d.slcs := rfl
@[simp] theorem Dev.modTrn_fab (c : Fin 16) (f : Trn → Trn) : (d.modTrn c f).fab = d.fab := rfl
@[simp] theorem Dev.modTrn_red (c : Fin 16) (f : Trn → Trn) : (d.modTrn c f).red = d.red := rfl
@[simp] theorem Dev.modTrn_lat (c : Fin 16) (f : Trn → Trn) : (d.modTrn c f).lat = d.lat := rfl
@[simp] theorem Dev.modTrn_sip (c : Fin 16) (f : Trn → Trn) : (d.modTrn c f).sip = d.sip := rfl
@[simp] theorem Dev.modTrn_ldg (c : Fin 16) (f : Trn → Trn) : (d.modTrn c f).ldg = d.ldg := rfl
@[simp] theorem Dev.modTrn_hg (c : Fin 16) (f : Trn → Trn) : (d.modTrn c f).hg = d.hg := rfl
@[simp] theorem Dev.modTrn_clk (c : Fin 16) (f : Trn → Trn) : (d.modTrn c f).clk = d.clk := rfl
@[simp] theorem Dev.modTrn_boot (c : Fin 16) (f : Trn → Trn) : (d.modTrn c f).boot = d.boot := rfl
@[simp] theorem Dev.modTrn_sec (c : Fin 16) (f : Trn → Trn) : (d.modTrn c f).sec = d.sec := rfl
@[simp] theorem Dev.modTrn_link (c : Fin 16) (f : Trn → Trn) : (d.modTrn c f).link = d.link := rfl
@[simp] theorem Dev.modTrn_cis (c : Fin 16) (f : Trn → Trn) : (d.modTrn c f).cis = d.cis := rfl
@[simp] theorem Dev.modTrn_meter (c : Fin 16) (f : Trn → Trn) : (d.modTrn c f).meter = d.meter := rfl
@[simp] theorem Dev.modTrn_out (c : Fin 16) (f : Trn → Trn) : (d.modTrn c f).out = d.out := rfl
@[simp] theorem Dev.modTrn_dispatched (c : Fin 16) (f : Trn → Trn) : (d.modTrn c f).dispatched = d.dispatched := rfl
@[simp] theorem Dev.modTrn_free (c : Fin 16) (f : Trn → Trn) : (d.modTrn c f).free = d.free := rfl

/-! ### Dev.writeRecord and Dev.ledger -/

@[simp] theorem Dev.writeRecord_rsv (b : List Byte) : (d.writeRecord b).rsv = d.rsv := rfl
@[simp] theorem Dev.writeRecord_mxa (b : List Byte) : (d.writeRecord b).mxa = d.mxa := rfl
@[simp] theorem Dev.writeRecord_flm (b : List Byte) : (d.writeRecord b).flm = d.flm := rfl
@[simp] theorem Dev.writeRecord_vxe (b : List Byte) : (d.writeRecord b).vxe = d.vxe := rfl
@[simp] theorem Dev.writeRecord_clv (b : List Byte) : (d.writeRecord b).clv = d.clv := rfl
@[simp] theorem Dev.writeRecord_ctl (b : List Byte) : (d.writeRecord b).ctl = d.ctl := rfl
@[simp] theorem Dev.writeRecord_ctxs (b : List Byte) : (d.writeRecord b).ctxs = d.ctxs := rfl
@[simp] theorem Dev.writeRecord_mbx (b : List Byte) : (d.writeRecord b).mbx = d.mbx := rfl
@[simp] theorem Dev.writeRecord_upd (b : List Byte) : (d.writeRecord b).upd = d.upd := rfl
@[simp] theorem Dev.writeRecord_slcs (b : List Byte) : (d.writeRecord b).slcs = d.slcs := rfl
@[simp] theorem Dev.writeRecord_fab (b : List Byte) : (d.writeRecord b).fab = d.fab := rfl
@[simp] theorem Dev.writeRecord_red (b : List Byte) : (d.writeRecord b).red = d.red := rfl
@[simp] theorem Dev.writeRecord_lat (b : List Byte) : (d.writeRecord b).lat = d.lat := rfl
@[simp] theorem Dev.writeRecord_trn (b : List Byte) : (d.writeRecord b).trn = d.trn := rfl
@[simp] theorem Dev.writeRecord_sip (b : List Byte) : (d.writeRecord b).sip = d.sip := rfl
@[simp] theorem Dev.writeRecord_hg (b : List Byte) : (d.writeRecord b).hg = d.hg := rfl
@[simp] theorem Dev.writeRecord_clk (b : List Byte) : (d.writeRecord b).clk = d.clk := rfl
@[simp] theorem Dev.writeRecord_boot (b : List Byte) : (d.writeRecord b).boot = d.boot := rfl
@[simp] theorem Dev.writeRecord_sec (b : List Byte) : (d.writeRecord b).sec = d.sec := rfl
@[simp] theorem Dev.writeRecord_link (b : List Byte) : (d.writeRecord b).link = d.link := rfl
@[simp] theorem Dev.writeRecord_cis (b : List Byte) : (d.writeRecord b).cis = d.cis := rfl
@[simp] theorem Dev.writeRecord_meter (b : List Byte) : (d.writeRecord b).meter = d.meter := rfl
@[simp] theorem Dev.writeRecord_out (b : List Byte) : (d.writeRecord b).out = d.out := rfl
@[simp] theorem Dev.writeRecord_dispatched (b : List Byte) : (d.writeRecord b).dispatched = d.dispatched := rfl
@[simp] theorem Dev.writeRecord_free (b : List Byte) : (d.writeRecord b).free = d.free := rfl

@[simp] theorem Dev.ledger_rsv (b : List Byte) : (d.ledger b).rsv = d.rsv := by
  unfold Dev.ledger; split <;> rfl
@[simp] theorem Dev.ledger_mxa (b : List Byte) : (d.ledger b).mxa = d.mxa := by
  unfold Dev.ledger; split <;> rfl
@[simp] theorem Dev.ledger_flm (b : List Byte) : (d.ledger b).flm = d.flm := by
  unfold Dev.ledger; split <;> rfl
@[simp] theorem Dev.ledger_vxe (b : List Byte) : (d.ledger b).vxe = d.vxe := by
  unfold Dev.ledger; split <;> rfl
@[simp] theorem Dev.ledger_clv (b : List Byte) : (d.ledger b).clv = d.clv := by
  unfold Dev.ledger; split <;> rfl
@[simp] theorem Dev.ledger_ctl (b : List Byte) : (d.ledger b).ctl = d.ctl := by
  unfold Dev.ledger; split <;> rfl
@[simp] theorem Dev.ledger_ctxs (b : List Byte) : (d.ledger b).ctxs = d.ctxs := by
  unfold Dev.ledger; split <;> rfl
@[simp] theorem Dev.ledger_mbx (b : List Byte) : (d.ledger b).mbx = d.mbx := by
  unfold Dev.ledger; split <;> rfl
@[simp] theorem Dev.ledger_upd (b : List Byte) : (d.ledger b).upd = d.upd := by
  unfold Dev.ledger; split <;> rfl
@[simp] theorem Dev.ledger_slcs (b : List Byte) : (d.ledger b).slcs = d.slcs := by
  unfold Dev.ledger; split <;> rfl
@[simp] theorem Dev.ledger_fab (b : List Byte) : (d.ledger b).fab = d.fab := by
  unfold Dev.ledger; split <;> rfl
@[simp] theorem Dev.ledger_red (b : List Byte) : (d.ledger b).red = d.red := by
  unfold Dev.ledger; split <;> rfl
@[simp] theorem Dev.ledger_lat (b : List Byte) : (d.ledger b).lat = d.lat := by
  unfold Dev.ledger; split <;> rfl
@[simp] theorem Dev.ledger_trn (b : List Byte) : (d.ledger b).trn = d.trn := by
  unfold Dev.ledger; split <;> rfl
@[simp] theorem Dev.ledger_sip (b : List Byte) : (d.ledger b).sip = d.sip := by
  unfold Dev.ledger; split <;> rfl
@[simp] theorem Dev.ledger_hg (b : List Byte) : (d.ledger b).hg = d.hg := by
  unfold Dev.ledger; split <;> rfl
@[simp] theorem Dev.ledger_boot (b : List Byte) : (d.ledger b).boot = d.boot := by
  unfold Dev.ledger; split <;> rfl
@[simp] theorem Dev.ledger_sec (b : List Byte) : (d.ledger b).sec = d.sec := by
  unfold Dev.ledger; split <;> rfl
@[simp] theorem Dev.ledger_link (b : List Byte) : (d.ledger b).link = d.link := by
  unfold Dev.ledger; split <;> rfl
@[simp] theorem Dev.ledger_cis (b : List Byte) : (d.ledger b).cis = d.cis := by
  unfold Dev.ledger; split <;> rfl
@[simp] theorem Dev.ledger_meter (b : List Byte) : (d.ledger b).meter = d.meter := by
  unfold Dev.ledger; split <;> rfl
@[simp] theorem Dev.ledger_out (b : List Byte) : (d.ledger b).out = d.out := by
  unfold Dev.ledger; split <;> rfl
@[simp] theorem Dev.ledger_dispatched (b : List Byte) : (d.ledger b).dispatched = d.dispatched := by
  unfold Dev.ledger; split <;> rfl
@[simp] theorem Dev.ledger_free (b : List Byte) : (d.ledger b).free = d.free := by
  unfold Dev.ledger; split <;> rfl

/-! ### What the updates change -/

@[simp] theorem Dev.emit_out (o : Output) : (d.emit o).out = d.out ++ [o] := rfl
@[simp] theorem Dev.emitAll_out (os : List Output) : (d.emitAll os).out = d.out ++ os := rfl

@[simp] theorem Dev.ctx_modCtx_same (c : Fin 16) (f : Ctx → Ctx) : (d.modCtx c f).ctx c = f (d.ctx c) := by
  simp [Dev.ctx, Dev.modCtx]

theorem Dev.ctx_modCtx_other (c e : Fin 16) (f : Ctx → Ctx) (h : e ≠ c) : (d.modCtx c f).ctx e = d.ctx e := by
  have : c.val ≠ e.val := fun x => h (Fin.ext x.symm)
  simp [Dev.ctx, Dev.modCtx, this]

@[simp] theorem Dev.slc_modSlc_same (c : Fin 16) (f : Slc → Slc) : (d.modSlc c f).slc c = f (d.slc c) := by
  simp [Dev.slc, Dev.modSlc]

theorem Dev.slc_modSlc_other (c e : Fin 16) (f : Slc → Slc) (h : e ≠ c) : (d.modSlc c f).slc e = d.slc e := by
  have : c.val ≠ e.val := fun x => h (Fin.ext x.symm)
  simp [Dev.slc, Dev.modSlc, this]

@[simp] theorem Dev.slc_modCtx (c e : Fin 16) (f : Ctx → Ctx) : (d.modCtx c f).slc e = d.slc e := rfl
@[simp] theorem Dev.ctx_modSlc (c e : Fin 16) (f : Slc → Slc) : (d.modSlc c f).ctx e = d.ctx e := rfl
@[simp] theorem Dev.ctx_emit (o : Output) (c : Fin 16) : (d.emit o).ctx c = d.ctx c := rfl
@[simp] theorem Dev.slc_emit (o : Output) (c : Fin 16) : (d.emit o).slc c = d.slc c := rfl

/-! ### Dev.modEngine -/

@[simp] theorem Dev.modEngine_mem (k i : Nat) (f : Engine → Engine) : (d.modEngine k i f).mem = d.mem := by
  unfold Dev.modEngine; split <;> rfl
@[simp] theorem Dev.modEngine_rsv (k i : Nat) (f : Engine → Engine) : (d.modEngine k i f).rsv = d.rsv := by
  unfold Dev.modEngine; split <;> rfl
@[simp] theorem Dev.modEngine_ctxs (k i : Nat) (f : Engine → Engine) : (d.modEngine k i f).ctxs = d.ctxs := by
  unfold Dev.modEngine; split <;> rfl
@[simp] theorem Dev.modEngine_mbx (k i : Nat) (f : Engine → Engine) : (d.modEngine k i f).mbx = d.mbx := by
  unfold Dev.modEngine; split <;> rfl
@[simp] theorem Dev.modEngine_upd (k i : Nat) (f : Engine → Engine) : (d.modEngine k i f).upd = d.upd := by
  unfold Dev.modEngine; split <;> rfl
@[simp] theorem Dev.modEngine_slcs (k i : Nat) (f : Engine → Engine) : (d.modEngine k i f).slcs = d.slcs := by
  unfold Dev.modEngine; split <;> rfl
@[simp] theorem Dev.modEngine_fab (k i : Nat) (f : Engine → Engine) : (d.modEngine k i f).fab = d.fab := by
  unfold Dev.modEngine; split <;> rfl
@[simp] theorem Dev.modEngine_red (k i : Nat) (f : Engine → Engine) : (d.modEngine k i f).red = d.red := by
  unfold Dev.modEngine; split <;> rfl
@[simp] theorem Dev.modEngine_lat (k i : Nat) (f : Engine → Engine) : (d.modEngine k i f).lat = d.lat := by
  unfold Dev.modEngine; split <;> rfl
@[simp] theorem Dev.modEngine_trn (k i : Nat) (f : Engine → Engine) : (d.modEngine k i f).trn = d.trn := by
  unfold Dev.modEngine; split <;> rfl
@[simp] theorem Dev.modEngine_sip (k i : Nat) (f : Engine → Engine) : (d.modEngine k i f).sip = d.sip := by
  unfold Dev.modEngine; split <;> rfl
@[simp] theorem Dev.modEngine_ldg (k i : Nat) (f : Engine → Engine) : (d.modEngine k i f).ldg = d.ldg := by
  unfold Dev.modEngine; split <;> rfl
@[simp] theorem Dev.modEngine_hg (k i : Nat) (f : Engine → Engine) : (d.modEngine k i f).hg = d.hg := by
  unfold Dev.modEngine; split <;> rfl
@[simp] theorem Dev.modEngine_clk (k i : Nat) (f : Engine → Engine) : (d.modEngine k i f).clk = d.clk := by
  unfold Dev.modEngine; split <;> rfl
@[simp] theorem Dev.modEngine_boot (k i : Nat) (f : Engine → Engine) : (d.modEngine k i f).boot = d.boot := by
  unfold Dev.modEngine; split <;> rfl
@[simp] theorem Dev.modEngine_sec (k i : Nat) (f : Engine → Engine) : (d.modEngine k i f).sec = d.sec := by
  unfold Dev.modEngine; split <;> rfl
@[simp] theorem Dev.modEngine_link (k i : Nat) (f : Engine → Engine) : (d.modEngine k i f).link = d.link := by
  unfold Dev.modEngine; split <;> rfl
@[simp] theorem Dev.modEngine_cis (k i : Nat) (f : Engine → Engine) : (d.modEngine k i f).cis = d.cis := by
  unfold Dev.modEngine; split <;> rfl
@[simp] theorem Dev.modEngine_meter (k i : Nat) (f : Engine → Engine) : (d.modEngine k i f).meter = d.meter := by
  unfold Dev.modEngine; split <;> rfl
@[simp] theorem Dev.modEngine_out (k i : Nat) (f : Engine → Engine) : (d.modEngine k i f).out = d.out := by
  unfold Dev.modEngine; split <;> rfl
@[simp] theorem Dev.modEngine_dispatched (k i : Nat) (f : Engine → Engine) : (d.modEngine k i f).dispatched = d.dispatched := by
  unfold Dev.modEngine; split <;> rfl
@[simp] theorem Dev.modEngine_free (k i : Nat) (f : Engine → Engine) : (d.modEngine k i f).free = d.free := by
  unfold Dev.modEngine; split <;> rfl

end Sys2Proof.Machine
end

