-- ==== Sys2Proof/Laws/Memory.lean ====
section
/-! SUPPORT. Laws of the tiers' memory: what a written address reads as, and that every operation that writes keeps the
canonical form (log 1). -/

namespace Sys2Proof.Machine

open Sys2Proof

/-! ### What an address reads as -/

theorem byteAt_append (p q : List Host.Cell) (x : Nat) :
    byteAt (p ++ q) x = if p.any (fun c => c.1 == x) then byteAt p x else byteAt q x := by
  induction p with
  | nil => simp
  | cons h t ih =>
    obtain ⟨k, b⟩ := h
    by_cases e : k = x
    · simp [byteAt, e]
    · simp [byteAt, e, ih]

theorem byteAt_missing (p : List Host.Cell) (x : Nat) (h : p.any (fun c => c.1 == x) = false) : byteAt p x = 0 := by
  induction p with
  | nil => rfl
  | cons a t ih =>
    obtain ⟨k, b⟩ := a
    simp only [List.any_cons, Bool.or_eq_false_iff, beq_eq_false_iff_ne] at h
    simp [byteAt, h.1, ih h.2]

theorem byteAt_filter (p : List Host.Cell) (f : Nat → Bool) (x : Nat) :
    byteAt (p.filter fun c => f c.1) x = if f x then byteAt p x else 0 := by
  induction p with
  | nil => simp [byteAt]
  | cons a t ih =>
    obtain ⟨k, b⟩ := a
    by_cases e : k = x <;> by_cases g : f k
    · subst e; simp [byteAt, g]
    · subst e; simp [g, ih]
    · simp [byteAt, g, e, ih]
    · simp [byteAt, g, e, ih]

theorem cellsOf_zero (r : List Byte) (a : Nat) : cellsOf a (0#8 :: r) = cellsOf (a + 1) r := rfl

theorem cellsOf_cons (b : Byte) (r : List Byte) (a : Nat) (h : b ≠ 0#8) :
    cellsOf a (b :: r) = (a, b) :: cellsOf (a + 1) r := if_neg h

theorem byteAt_cellsOf (bs : List Byte) (a x : Nat) :
    byteAt (cellsOf a bs) x = if a ≤ x ∧ x < a + bs.length then bs.getD (x - a) 0 else 0 := by
  induction bs generalizing a with
  | nil =>
    have n : ¬ (a ≤ x ∧ x < a + ([] : List Byte).length) := by simp
    rw [if_neg n]; rfl
  | cons b r ih =>
    by_cases e : x = a
    · subst e
      have p : x ≤ x ∧ x < x + (b :: r).length := by simp
      rw [if_pos p]
      by_cases z : b = 0#8
      · subst z
        have n : ¬ (x + 1 ≤ x ∧ x < x + 1 + r.length) := by omega
        rw [cellsOf_zero, ih, if_neg n]; simp
      · rw [cellsOf_cons b r x z]; simp [byteAt]
    · have step : (if a + 1 ≤ x ∧ x < a + 1 + r.length then r.getD (x - (a + 1)) 0 else 0)
          = (if a ≤ x ∧ x < a + (b :: r).length then (b :: r).getD (x - a) 0 else 0) := by
        by_cases i : a + 1 ≤ x ∧ x < a + 1 + r.length
        · have j : a ≤ x ∧ x < a + (b :: r).length := by simp; omega
          have k : x - a = (x - (a + 1)) + 1 := by omega
          rw [if_pos i, if_pos j, k, List.getD_cons_succ]
        · have j : ¬ (a ≤ x ∧ x < a + (b :: r).length) := by simp; omega
          rw [if_neg i, if_neg j]
      by_cases z : b = 0#8
      · subst z; rw [cellsOf_zero, ih]; exact step
      · rw [cellsOf_cons b r a z]
        have e' : ¬ a = x := fun h => e h.symm
        simp only [byteAt, e', ↓reduceIte, ih]; exact step

theorem any_key_filter (p : List Host.Cell) (f : Nat → Bool) (x : Nat) (h : f x = false) :
    (p.filter fun c => f c.1).any (fun c => c.1 == x) = false := by
  simp only [List.any_eq_false, List.mem_filter, beq_iff_eq, and_imp]
  intro c _ hf e
  simp [e, h] at hf

theorem any_key_cellsOf (bs : List Byte) (a x : Nat) (h : x < a ∨ a + bs.length ≤ x) :
    (cellsOf a bs).any (fun c => c.1 == x) = false := by
  induction bs generalizing a with
  | nil => rfl
  | cons b r ih =>
    have i := ih (a + 1) (by simp at h; omega)
    have e : (a == x) = false := by simp; simp at h; omega
    by_cases z : b = 0#8
    · subst z; rw [cellsOf_zero]; exact i
    · rw [cellsOf_cons b r a z, List.any_cons, i]; simp [e]

/-- Read after write: the bytes written read back, and every other address reads as before. -/
theorem byteAt_writeCells (cells : List Host.Cell) (a : Nat) (bs : List Byte) (x : Nat) :
    byteAt (writeCells cells a bs) x =
      if a ≤ x ∧ x < a + bs.length then bs.getD (x - a) 0 else byteAt cells x := by
  have f1 := byteAt_filter cells (fun k => decide (k < a)) x
  have f2 := byteAt_filter cells (fun k => decide (a + bs.length ≤ k)) x
  have c := byteAt_cellsOf bs a x
  unfold writeCells
  rw [List.append_assoc, byteAt_append]
  by_cases lo : x < a
  · have n : ¬ (a ≤ x ∧ x < a + bs.length) := by omega
    rw [if_neg n]
    by_cases any : (cells.filter fun c => decide (c.1 < a)).any (fun c => c.1 == x) = true
    · rw [if_pos any, f1]; simp [lo]
    · rw [if_neg any, byteAt_append, any_key_cellsOf bs a x (.inl lo)]
      have hi : ¬ a + bs.length ≤ x := by omega
      simp only [Bool.false_eq_true, ↓reduceIte, f2, hi, decide_false]
      have m := byteAt_missing _ x (Bool.not_eq_true _ ▸ any)
      rw [f1] at m; simpa [lo] using m.symm
  · have any := any_key_filter cells (fun k => decide (k < a)) x (by simp; omega)
    simp only [any, Bool.false_eq_true, ↓reduceIte]
    rw [byteAt_append]
    by_cases hi : x < a + bs.length
    · have p : a ≤ x ∧ x < a + bs.length := by omega
      rw [if_pos p]
      by_cases any2 : (cellsOf a bs).any (fun c => c.1 == x) = true
      · rw [if_pos any2, c, if_pos p]
      · have m := byteAt_missing _ x (Bool.not_eq_true _ ▸ any2)
        rw [c, if_pos p] at m
        rw [if_neg any2, f2, m]; simp; omega
    · rw [any_key_cellsOf bs a x (.inr (by omega))]
      have q : a + bs.length ≤ x := by omega
      simp [f2, q, show ¬ (a ≤ x ∧ x < a + bs.length) by omega]

/-! ### The canonical form -/

theorem wfFrom_weaken (cells : List Host.Cell) (lo hi : Nat) (h : lo ≤ hi) (w : wfFrom hi cells = true) :
    wfFrom lo cells = true := by
  cases cells with
  | nil => rfl
  | cons a t =>
    obtain ⟨k, b⟩ := a
    simp only [wfFrom, Bool.and_eq_true, decide_eq_true_eq] at w ⊢
    exact ⟨⟨by omega, w.1.2⟩, w.2⟩

theorem wfFrom_filter (cells : List Host.Cell) (f : Host.Cell → Bool) (lo : Nat) (w : wfFrom lo cells = true) :
    wfFrom lo (cells.filter f) = true := by
  induction cells generalizing lo with
  | nil => rfl
  | cons a t ih =>
    obtain ⟨k, b⟩ := a
    simp [wfFrom] at w
    by_cases g : f (k, b) = true
    · simp [List.filter, g, wfFrom, w, ih (k + 1) w.2]
    · simp [List.filter, g]
      exact wfFrom_weaken _ lo (k + 1) (by omega) (ih (k + 1) w.2)

theorem wfFrom_append (p q : List Host.Cell) (lo hi : Nat) (hp : wfFrom lo p = true) (hq : wfFrom hi q = true) (le : lo ≤ hi)
    (below : p.all (fun c => decide (c.1 < hi)) = true) : wfFrom lo (p ++ q) = true := by
  induction p generalizing lo with
  | nil => exact wfFrom_weaken q lo hi le hq
  | cons a t ih =>
    obtain ⟨k, b⟩ := a
    simp [wfFrom] at hp
    simp only [List.all_cons, Bool.and_eq_true, decide_eq_true_eq] at below
    simp [wfFrom, hp, ih (k + 1) hp.2 (by omega) below.2]

theorem wfFrom_cellsOf (bs : List Byte) (a : Nat) : wfFrom a (cellsOf a bs) = true := by
  induction bs generalizing a with
  | nil => rfl
  | cons b r ih =>
    by_cases z : b = 0#8
    · subst z; rw [cellsOf_zero]; exact wfFrom_weaken _ a (a + 1) (by omega) (ih (a + 1))
    · rw [cellsOf_cons b r a z]; simp [wfFrom, ih, z]

theorem cellsOf_below (bs : List Byte) (a : Nat) : (cellsOf a bs).all (fun c => decide (c.1 < a + bs.length)) = true := by
  induction bs generalizing a with
  | nil => rfl
  | cons b r ih =>
    have e : a + (b :: r).length = a + 1 + r.length := by simp; omega
    rw [e]
    by_cases z : b = 0#8
    · subst z; rw [cellsOf_zero]; exact ih (a + 1)
    · rw [cellsOf_cons b r a z, List.all_cons, ih (a + 1)]; simp; omega

theorem wfFrom_high (cells : List Host.Cell) (lo hi : Nat) (w : wfFrom lo cells = true) :
    wfFrom hi (cells.filter fun c => decide (hi ≤ c.1)) = true := by
  induction cells generalizing lo with
  | nil => rfl
  | cons a t ih =>
    obtain ⟨k, b⟩ := a
    simp [wfFrom] at w
    by_cases g : hi ≤ k
    · simp [List.filter, g, wfFrom, w]
      exact wfFrom_filter t _ (k + 1) w.2
    · simpa [List.filter, g] using ih (k + 1) w.2

/-- A write keeps the canonical form. -/
theorem memWf_writeCells (cells : List Host.Cell) (a : Nat) (bs : List Byte) (w : memWf cells = true) :
    memWf (writeCells cells a bs) = true := by
  unfold memWf writeCells at *
  have high := wfFrom_high cells 0 (a + bs.length) w
  have mid := wfFrom_append (cellsOf a bs) _ a (a + bs.length) (wfFrom_cellsOf bs a) high (by omega) (cellsOf_below bs a)
  rw [List.append_assoc]
  refine wfFrom_append _ _ 0 a (wfFrom_filter cells _ 0 w) mid (by omega) ?_
  simp

@[simp] theorem Mem.store_cells (m : Mem) (a : Nat) (bs : List Byte) : (m.store a bs).cells = writeCells m.cells a bs := rfl
@[simp] theorem Mem.store_hard (m : Mem) (a : Nat) (bs : List Byte) : (m.store a bs).hard = m.hard := rfl
@[simp] theorem Mem.poisonGranule_cells (m : Mem) (g : Nat) :
    (m.poisonGranule g).cells = writeCells m.cells (32 * g) (List.replicate 32 0) := rfl
@[simp] theorem Mem.poisonGranule_hard (m : Mem) (g : Nat) : (m.poisonGranule g).hard = m.hard := rfl

/-- A plain write keeps the canonical form. -/
theorem Mem.store_wf (m : Mem) (a : Nat) (bs : List Byte) (w : memWf m.cells = true) : memWf (m.store a bs).cells = true :=
  memWf_writeCells _ _ _ w

/-- Poisoning a granule keeps it. -/
theorem Mem.poisonGranule_wf (m : Mem) (g : Nat) (w : memWf m.cells = true) : memWf (m.poisonGranule g).cells = true :=
  memWf_writeCells _ _ _ w

/-- A codeword's store keeps it. -/
theorem Mem.storeCodeword_wf (m : Mem) (g : Nat) (cw : List Byte) (w : memWf m.cells = true) :
    memWf (m.storeCodeword g cw).cells = true := by
  unfold Mem.storeCodeword
  dsimp only
  split <;> exact memWf_writeCells _ _ _ w

end Sys2Proof.Machine
end

