-- ==== Sys2Proof/Laws/Ops.lean ====
section
/-! SUPPORT. What the shared operations can do, said once: events, the mailbox's handling of a command, access to memory that
is free, engines. -/

namespace Sys2Proof.Machine

open Sys2Proof

/-! ### Events (R184 to R186) -/

/-- Between `d` and `e` nothing but events has been placed: marks of the event queues, memory, outputs and held events. -/
def EventsOnly (d e : Dev) : Prop :=
  e = { d with ctxs := e.ctxs, mem := e.mem, out := e.out, clk := { d.clk with heldEvents := e.clk.heldEvents } }
    ∧ (∀ q, e.ctx q = { d.ctx q with eqTail := (e.ctx q).eqTail, overflow := (e.ctx q).overflow, lost := (e.ctx q).lost })
    ∧ (memWf d.mem.cells = true → memWf e.mem.cells = true) ∧ e.mem.hard = d.mem.hard

theorem EventsOnly.refl (d : Dev) : EventsOnly d d := ⟨rfl, fun _ => rfl, id, rfl⟩

theorem EventsOnly.trans {d e f : Dev} (h : EventsOnly d e) (k : EventsOnly e f) : EventsOnly d f := by
  obtain ⟨h1, h2, h3, h4⟩ := h
  obtain ⟨k1, k2, k3, k4⟩ := k
  refine ⟨?_, fun q => ?_, fun w => k3 (h3 w), k4.trans h4⟩
  · rw [k1, h1]
  · rw [k2 q, h2 q]

/-- A store that a condition leaves out keeps the memory's form and its damage. -/
theorem Mem.store_unless (m : Mem) (b : Bool) (a : Nat) (bs : List Byte) :
    (memWf m.cells = true → memWf (if b = true then m else m.store a bs).cells = true)
      ∧ (if b = true then m else m.store a bs).hard = m.hard := by
  cases b
  · exact ⟨fun w => Mem.store_wf m a bs w, rfl⟩
  · exact ⟨id, rfl⟩

theorem Dev.writeEvent_only (d : Dev) (c : Fin 16) (b : List Byte) : EventsOnly d (d.writeEvent c b) := by
  have set_ctx : ∀ (x : Ctx) (q : Fin 16), (d.ctxs.set c x)[q] = if c = q then x else d.ctxs[q] := by
    intro x q
    simp [Vector.getElem_set, Fin.ext_iff]
  unfold Dev.writeEvent
  dsimp only
  split
  · refine ⟨rfl, fun q => ?_, id, rfl⟩
    simp only [Dev.modCtx, Dev.ctx, set_ctx]
    split <;> simp_all
  · refine ⟨?_, fun q => ?_, ?_, ?_⟩
    · split <;> rfl
    · split <;> simp only [Dev.emit, Dev.modCtx, Dev.ctx, set_ctx] <;> split <;> simp_all
    · intro w
      split <;> exact (Mem.store_unless _ _ _ _).1 w
    · split <;> exact (Mem.store_unless _ _ _ _).2

theorem Dev.eventAt_only (d : Dev) (c : Fin 16) (seq : W32) (type status : Nat) (step : W64) (detail : Nat) :
    EventsOnly d (d.eventAt c seq type status step detail) := by
  unfold Dev.eventAt
  split
  · exact EventsOnly.refl d
  · split
    · exact ⟨rfl, fun _ => rfl, id, rfl⟩
    · exact Dev.writeEvent_only d c _

theorem Dev.event_only (d : Dev) (c : Fin 16) (seq : W32) (type status detail : Nat) :
    EventsOnly d (d.event c seq type status detail) := Dev.eventAt_only d c seq type status _ detail

/-- A fold of steps that only place events only places events. -/
theorem EventsOnly.fold {α : Type} (f : Dev → α → Dev) (h : ∀ d a, EventsOnly d (f d a)) :
    ∀ (l : List α) (d : Dev), EventsOnly d (l.foldl f d)
  | [], d => EventsOnly.refl d
  | a :: r, d => EventsOnly.trans (h d a) (EventsOnly.fold f h r (f d a))

theorem Dev.eventAll_only (d : Dev) (type detail : Nat) : EventsOnly d (d.eventAll type detail) :=
  EventsOnly.fold _ (fun d c => Dev.event_only d c 0 type 0 detail) allCtx d

theorem Dev.eventAllNoStep_only (d : Dev) (type detail : Nat) : EventsOnly d (d.eventAllNoStep type detail) :=
  EventsOnly.fold _ (fun d c => Dev.eventAt_only d c 0 type 0 noStep detail) allCtx d

/-- What placing events leaves of a context. -/
theorem EventsOnly.state {d e : Dev} (h : EventsOnly d e) (q : Fin 16) : (e.ctx q).state = (d.ctx q).state := by rw [h.2.1 q]
theorem EventsOnly.cmds {d e : Dev} (h : EventsOnly d e) (q : Fin 16) : (e.ctx q).cmds = (d.ctx q).cmds := by rw [h.2.1 q]
theorem EventsOnly.lastSeq {d e : Dev} (h : EventsOnly d e) (q : Fin 16) : (e.ctx q).lastSeq = (d.ctx q).lastSeq := by rw [h.2.1 q]
theorem EventsOnly.slcs {d e : Dev} (h : EventsOnly d e) : e.slcs = d.slcs := by rw [h.1]
theorem EventsOnly.upd {d e : Dev} (h : EventsOnly d e) : e.upd = d.upd := by rw [h.1]
theorem EventsOnly.fab {d e : Dev} (h : EventsOnly d e) : e.fab = d.fab := by rw [h.1]
theorem EventsOnly.mxa {d e : Dev} (h : EventsOnly d e) : e.mxa = d.mxa := by rw [h.1]
theorem EventsOnly.mbx {d e : Dev} (h : EventsOnly d e) : e.mbx = d.mbx := by rw [h.1]
theorem EventsOnly.rsv {d e : Dev} (h : EventsOnly d e) : e.rsv = d.rsv := by rw [h.1]
theorem EventsOnly.sec {d e : Dev} (h : EventsOnly d e) : e.sec = d.sec := by rw [h.1]

/-- A change of a context's state is that change, the end of a pending hold, and an event. -/
theorem Dev.setState_only (d : Dev) (c : Fin 16) (st : CtxState) (cause : Nat) :
    EventsOnly (d.modCtx c fun x => { x with state := st, cause := cause, holdPending := false }) (d.setState c st cause) := Dev.event_only _ _ _ _ _ _

/-- The record of a context after a change of one. -/
theorem Dev.ctx_modCtx (d : Dev) (c q : Fin 16) (f : Ctx → Ctx) : (d.modCtx c f).ctx q = if c = q then f (d.ctx c) else d.ctx q := by
  simp [Dev.ctx, Dev.modCtx, Vector.getElem_set, Fin.ext_iff]

/-- The sluice record of a context after a change of one. -/
theorem Dev.slc_modSlc (d : Dev) (c q : Fin 16) (f : Slc → Slc) : (d.modSlc c f).slc q = if c = q then f (d.slc c) else d.slc q := by
  simp [Dev.slc, Dev.modSlc, Vector.getElem_set, Fin.ext_iff]

/-! ### Memory that is free (R139, R275, R389, R427) -/

theorem cleanMemory.marked {d : Dev} (h : cleanMemory d) (a n : Nat) : d.mem.marked a n = false := by
  simp [Mem.marked, h.1, h.2.1, h.2.2]

theorem Dev.readBytes_unmarked (d : Dev) (src a n : Nat) (h : d.mem.marked a n = false) :
    d.readBytes src a n = (d, some (readCells d.mem.cells a n)) := by
  unfold Dev.readBytes
  by_cases hn : n = 0
  · simp [hn, readCells]
  · simp [hn, h]

theorem Dev.writeBytes_unmarked (d : Dev) (a : Nat) (bs : List Byte) (h : d.mem.marked a bs.length = false) :
    d.writeBytes a bs = ({ d with mem := d.mem.store a bs }, true) := by
  simp [Dev.writeBytes, h]

theorem Dev.snoop_free (d : Dev) (a n : Nat) (h : d.linesIn a n = []) : d.snoop a n = (d, false) := by
  simp [Dev.snoop, h]

theorem Dev.snoopAll_free (d : Dev) (rs : List (Nat × Nat)) (h : ∀ r ∈ rs, d.linesIn r.1 r.2 = []) :
    d.snoopAll rs = (d, false) := by
  unfold Dev.snoopAll
  induction rs with
  | nil => rfl
  | cons r t ih =>
    have hr := h r (by simp)
    have ht := ih fun q hq => h q (by simp [hq])
    simp only [List.foldl_cons, Dev.snoop_free d r.1 r.2 hr]
    exact ht

theorem Dev.accessBy_free (d : Dev) (unit : Nat) (rs : List (Nat × Nat)) (h : freeRanges d rs) : d.accessBy unit rs = (d, true) := by
  obtain ⟨h1, -, h2, h3⟩ := h
  have hs : d.stalled rs = false := by simp [Dev.stalled, h1]
  have hu : (unitsOfRanges rs).any (fun u => u != unit && d.unitInService u) = false := by
    rw [List.any_eq_false] at h2 ⊢
    intro u hu
    simp [h2 u hu]
  simp [Dev.accessBy, hs, hu, Dev.snoopAll_free d rs h3]

theorem Dev.access_free (d : Dev) (rs : List (Nat × Nat)) (h : freeRanges d rs) : d.access rs = (d, true) :=
  Dev.accessBy_free d 32 rs h

theorem Dev.whenFree_free (d : Dev) (rs : List (Nat × Nat)) (f : Dev → Dev × Option Answer) (h : freeRanges d rs) :
    d.whenFree rs f = f d := by
  simp [Dev.whenFree, Dev.access_free d rs h]

/-! ### The mailbox (R162, R189) -/

/-- The block once a command has been put into its mailbox and DOORBELL is set. -/
def Dev.offered (d : Dev) (op : Nat) (p : List Byte) : Dev :=
  { d with mbx := { d.mbx with
      opcode := op, len := p.length, payload := splice d.mbx.payload 0 p, doorbell := true, waiting := false } }

/-- How a command's answer ends it. -/
def Dev.answered (d : Dev) (a : Answer) : Dev :=
  let e := (d.respond a.resp).mbxEnd a.status a.vendor
  match a.reset with
  | some cause => e.deviceReset cause
  | none => e

/-- A command that is taken runs on the payload it came with. -/
theorem Dev.submit_taken (d : Dev) (op : Nat) (p : List Byte) (f : Command) (h : takes d op p) :
    d.submit op p f = match f (d.offered op p) p with
      | (e, none) => e
      | (e, some a) => e.answered a := by
  obtain ⟨h1, h2, h3⟩ := h
  have ht : p.take 4096 = p := List.take_of_length_le h2
  have hp : (splice d.mbx.payload 0 p).take p.length = p := by simp [splice]
  have hg : ∀ m : Mbx, Dev.gate { d with mbx := m } op = .run := fun m => h3
  have hl : ¬ 4096 < p.length := by omega
  simp only [Dev.submit, Dev.runCommand, h1, ht, hp, hg, hl, Dev.offered, Dev.answered]
  rfl

/-- A context command on a context in a state that allows it does its own work. -/
theorem ctxCommand_legal (op : Nat) (ok : List Byte → Bool) (legal : List CtxState) (f : Fin 16 → Command) (d : Dev) (p : List Byte)
    (h1 : fieldAt p 0 1 < 16) (h2 : ok p = true) (h3 : legal.contains (d.ctx (ctxOf p)).state = true) :
    ctxCommand op ok legal f d p = f (ctxOf p) d p := by
  have h4 : (d.ctx (ctxOf p)).state ∈ legal := by simpa using h3
  simp [ctxCommand, ctxByteOk, h1, h2, Dev.inState, h4]

/-- What the end of a mailbox command shows. -/
theorem Dev.mbxEnd_ended (d : Dev) (status vendor : Nat) : ended (d.mbxEnd status vendor) status vendor := by
  unfold Dev.mbxEnd ended
  dsimp only
  split <;> exact ⟨rfl, rfl, rfl⟩

/-- A service request that ends leaves its slot in phase 3 with the status, and events. -/
theorem Dev.serviceEnd_only (d : Dev) (i : Fin 8) (status : Nat) :
    EventsOnly { d with mbx := { d.mbx with slots := d.mbx.slots.set i { d.mbx.slots[i] with phase := 3, status := status } } }
      (d.serviceEnd i status) := Dev.eventAll_only _ _ _

/-! ### Outcomes -/

@[simp] theorem done_same (s : State) : done s s.dev = .next s := rfl

/-! ### Engines -/

@[simp] theorem Dev.giveBack_nil (d : Dev) : d.giveBack [] = d := rfl

theorem modVec_eq {α : Type} {n : Nat} (v : Vector α n) (i : Fin n) (f : α → α) : modVec v i.val f = v.set i (f v[i]) := by
  simp [modVec]

theorem modVec_get {α : Type} {n : Nat} (v : Vector α n) (i j : Nat) (f : α → α) (hj : j < n) :
    (modVec v i f)[j] = if i = j then f v[j] else v[j] := by
  unfold modVec
  split
  · rw [Vector.getElem_set]
    split <;> simp_all
  · rw [if_neg (by omega)]

end Sys2Proof.Machine
end

