-- ==== Sys2Proof/WellFormed.lean ====
section
/-! DEFINITION. Which operands a command can have: lengths and field widths that the manual fixes. A payload is at most
4 KiB (R189), a flit 320 bytes (R259), a packet's fields have the widths of R262. The meanings are total and do not
assume it. -/

namespace Sys2Proof

/-- A mailbox or I3C payload fits its area of `n` bytes. -/
def payloadOk (n : Nat) (p : List Byte) : Bool := decide (p.length ≤ n)

/-- The fields of a packet fit R262, and `data` holds whole slots of 36 bytes, LEN of them where there is a payload. -/
def Packet.ok (p : Packet) : Bool :=
  decide (p.tc < 8) && decide (p.hop < 8) && decide (p.unit < 256) && decide (p.gen < 256)
    && decide (p.dest < 2 ^ 20) && decide (p.destCtx < 16) && decide (p.src < 2 ^ 20)
    && decide (p.tag < 2 ^ 16) && decide (p.useCount < 256) && decide (p.addr < 2 ^ 44) && decide (p.addr % 32 = 0)
    && decide (p.len ≤ 128) && decide (p.status < 14) && decide (p.inc < 2 ^ 16) && decide (p.via < 2 ^ 12)
    && decide (p.spec < 2 ^ 64)
    && (decide (p.data.length = 36 * p.len) || (p.data.isEmpty && (p.type == .read || p.type == .reply || p.type == .genQuery)))

/-- A packet operand has the type its row names. -/
def packetFor (t : PacketType) (p : Packet) : Bool := p.type == t && p.ok

/-- The fields of a sluice message fit R237. -/
def SluiceMsg.ok (m : SluiceMsg) : Bool :=
  decide (m.cause < 256) && decide (m.status < 14) && decide (m.sender < 65568) && decide (m.lsS ≤ 32)
    && decide (m.lsClean < 65536) && decide (m.src < 2 ^ 20)
    && m.map.all fun e => decide (e.1 < 4096) && decide (e.2 < 255)

/-- The fields of a READY message fit R345. -/
def ReadyMsg.ok (m : ReadyMsg) : Bool :=
  decide (m.bytes ≤ 2 ^ 32) && decide (m.micro < 256) && decide (m.phase < 4)
    && decide (m.senderFid < 2 ^ 20) && decide (m.senderCtx < 16)

/-- An engine instance of R183's classes 1 to 4, or a memory controller (5). -/
def instanceOk (cls inst : Nat) : Bool :=
  match cls with
  | 1 => decide (inst < 64)
  | 2 => decide (inst < 4)
  | 3 => decide (inst < 16)
  | 4 => decide (inst < 16)
  | 5 => decide (inst < 16)
  | _ => false

/-- A register write names one of the function's BARs, an offset inside it, and a full width (R7, R424). -/
def registerOk (bar off width : Nat) : Bool :=
  (width == 32 || width == 64)
    && ((bar == 0 && decide (off < 2 ^ 26)) || (bar == 2 && decide (off < 2 ^ 16)) || (bar == 4 && decide (off < 2 ^ 17)))

/-- Errors of one granule name symbols 0 to 35 (R136). -/
def Upset.ok (u : Upset) : Bool := u.symbols.all fun s => decide (s.1 < 36)

/-- A command is well formed. -/
def wellFormed : Instr → Bool
  | .unassignedVendorOpcode _ p => payloadOk 4096 p
  | .unsupportedStandardOpcode _ p => payloadOk 4096 p
  | .ctxAdopt p _ => payloadOk 4096 p
  | .ctxCreate p | .ctxStart p | .ctxHold p | .ctxResume p | .ctxDrain p | .ctxReset p | .ctxRearm p | .ctxClose p
  | .arrayRetire p | .arrayRecal p | .pcRetire p | .shardRegister p | .shardRelease p | .shardQuery p
  | .outcomeQuery p | .ringSet p | .rollback p | .portRetrain p | .routeLoad p | .trnEnrol p | .trnWithdraw p
  | .allotSet p | .allotGet p | .fwStage p | .fwActivate p | .fwCommit p | .fwQuery p | .ucodeLoad p
  | .attestReport p | .recoveryLoad p | .recoveryBoot p | .deviceReset p | .cisInfo p | .cisFormat p
  | .cisCheckpoint p | .cisList p | .cisDiscard p | .cisFetch p | .cisJournalRead p | .identify p
  | .getEventRecords p | .clearEventRecords p | .getTimestamp p | .setTimestamp p | .getSupportedLogs p | .getLog p
  | .identifyMemoryDevice p => payloadOk 4096 p
  | .registerWrite bar off width _ => registerOk bar off width
  | .patrolScrub _ u => u.all Upset.ok
  | .unitDispatch _ _ inst => decide (inst < 64)
  | .token _ m | .abortVote _ m | .decide _ m | .decided _ m | .outcome _ m | .query _ m | .undecided _ m => m.ok
  | .engineHang cls inst => instanceOk cls inst
  | .isolatedReplay cls inst _ _ _ => instanceOk cls inst && cls != 5
  | .microcodeReload cls inst => instanceOk cls inst && (cls == 3 || cls == 4)
  | .accum p => packetFor .accum p
  | .read p => packetFor .read p
  | .write p => packetFor .write p
  | .readResp p => packetFor .readResp p
  | .reply p => packetFor .reply p
  | .genQuery p => packetFor .genQuery p
  | .done p | .release p => packetFor .msg p
  | .ready _ m => m.ok
  | .flitReceive _ _ f | .bulkFlitReceive _ _ f | .privilegedFlitReceive _ _ f => decide (f.length = 320)
  | .busyBackoffReissue e | .requestTimerExpiry e | .inServiceBackoffReissue e | .deltaWriteReissue e =>
    decide (e < 65536)
  | .routeRewrite n | .routeRestore n => decide (n ≤ 2048)
  | .hdmAccess a => decide (a.data.length ≤ 64) && decide (a.data.length = a.enable.length)
  | .signRecord p | .readMarkers p | .readLog p | .readCerts p | .wmFwCommit p | .calWrite p => payloadOk 256 p
  | .fwWrite p => payloadOk 4092 p
  | .nop .. | .marker .. | .arrayOp .. | .flumeOp .. | .vectorOp .. | .move .. | .stepBegin .. | .stepEnd .. | .reduce .. | .update ..
  | .shardExport .. | .shardImport .. | .siphonSave .. | .siphonLoad .. | .stageSend .. | .outerRound .. | .ringEntryRead ..
  | .ctxDoorbell .. | .mbxSvcFree .. | .ldgCopyStart .. | .clkTbSet .. | .portEnable .. | .arrayPassComplete .. | .flumePassComplete ..
  | .vectorChunkComplete .. | .culvertPieceComplete .. | .commandIssue .. | .updateEntryRun .. | .updateEntryComplete ..
  | .slowTierStall .. | .exportComplete .. | .readyMark .. | .voteTimeout .. | .queryRepeat .. | .decideRepeat .. | .deputySelfAbort ..
  | .drainComplete .. | .contextWorkRemoved .. | .watchdogExpiry .. | .coreHeartbeatMiss .. | .arrayRetirement ..
  | .arrayRecalibration .. | .periodicRecalibration .. | .pcRetirement .. | .firmwareCoreSwitch .. | .jobOpen .. | .ringPieceForward ..
  | .reduceComplete .. | .contributionDeadline .. | .linkStateMessage .. | .linkStateBroadcast .. | .signalDetected ..
  | .trainingExchange .. | .trainingTimeout .. | .portDrainComplete .. | .lanesLost .. | .lateralControlFlit .. | .lateralAckTick ..
  | .privilegedResendTimer .. | .timeExchangeStart .. | .timeExchangeRequest .. | .timeExchangeAnswer .. | .remeasurementComplete ..
  | .transmitDelta .. | .applyFreeze .. | .journalEntryWrite .. | .checkpointShardWritten .. | .checkpointManifestWrite ..
  | .retentionScrub .. | .controlPeriod .. | .quadrantPark .. | .deferLimit .. | .meterReading .. | .meterLost .. | .vin12Droop ..
  | .droopEnd .. | .powerOnReset .. | .porRelease .. | .perst .. | .cxlHotReset .. | .flr .. | .thermalTrip .. | .refclkLost ..
  | .refclkStable .. | .pllLocked .. | .bootImageVerify .. | .hbmTrainingComplete .. | .lpddrTrainingComplete .. | .startupCalibration ..
  | .memoryActive .. | .hdmDecoderCommit .. | .birsp .. | .h2dSnoop .. | .doeRequest .. | .ideKmKeyProg .. | .keySwitchMarker ..
  | .ideIntegrityFailure .. | .cxlLinkDown .. | .markerReceipt .. | .readEnergy .. | .meterStart .. | .meterPeriodicStore ..
  | .meterPowerFail .. | .meterPowerReturn .. | .sealStrapFall .. | .meterCopyRefresh .. | .laneLossOfLock .. | .perstDeassert ..
  | .cxlLinkTrainingComplete .. | .firmwareRunning .. | .diceKeysDerived .. | .markerAckTimeout .. | .configurationRequest ..
  | .committedStateRead .. => true

end Sys2Proof
end

