-- ==== Sys2Proof/Tests/Slice0.lean ====
section
/-! SUPPORT. The author's own tests. `witness_` theorems show, for the statements of Certificates/Slice0/Obligations.lean, a state and
operands that meet the hypotheses of a clause; the others run one command on a small state, with the expected value worked out from
the rule that is named. Where a hypothesis rests on a free value (a signature that verifies) none can be shown. -/

namespace Sys2Proof.Tests

set_option Elab.async false

open Sys2Proof Sys2Proof.Machine

/-! ### Small states -/

/-- The block after reset. -/
def d0 : Dev := State.reset.dev

/-- A state with the given block and one command waiting. -/
def st (d : Dev) : State := { dev := d, pending := [.perst] }

/-- A block whose start-up has ended, with REFCLK stable and every PLL locked. -/
def live : Dev := { d0 with
  boot := { d0.boot with
    por := true, imageOk := true, firmware := true, keys := true, hbm := true, arrays := true, lpddr := true, active := true
    perst := false, stage := 4 }
  clk := { d0.clk with refStable := true, pllLock := BitVec.allOnes 43 }
  fab := { d0.fab with id := 5 } }

/-- Context `c` of a block has the record `x`. -/
def withCtx (d : Dev) (c : Fin 16) (x : Ctx) : Dev := d.modCtx c fun _ => x

/-- A RUNNING context with a ring of 64 entries and a queue of 64 events in HBM3E. -/
def running : Ctx := { state := .running, ringBase := 0x10040000000, ringLog2 := 6, eqBase := 0x10040001000, eqLog2 := 6 }

/-! ### Resets and start-up -/

theorem witness_reset_pins : (st live).dev.boot.por = true := by decide +kernel

theorem witness_thermal_latch :
    ({ live with boot := { live.boot with thermLatch := true } } : Dev).boot.thermLatch = true ∧ d0.boot.thermLatch = false
      ∧ d0.boot.por = false := by decide +kernel

theorem witness_tick : (st live).dev.clk.degraded = false ∧ ∀ k : Fin 16, ((st live).dev.ctl.engines[k]).resetEnds = none := by
  decide +kernel

/-- Start-up as far as the image. -/
def verified : Dev := { live with boot := { por := true, imageOk := true } }

/-- Start-up as far as running firmware. -/
def started : Dev := { live with boot := { por := true, imageOk := true, firmware := true } }

theorem witness_firmware_running :
    verified.boot.imageOk = true ∧ verified.boot.firmware = false ∧ verified.clk.refLost = false ∧ d0.boot.imageOk = false := by
  decide +kernel

theorem witness_start_up_rows :
    started.boot.firmware = true ∧ started.boot.lpddr = false ∧ started.boot.keys = false ∧ started.boot.hbm = false
      ∧ started.boot.arrays = false ∧ started.boot.noStack = false ∧ started.clk.refLost = false
      ∧ (started.boot.keys && started.boot.hbm && started.boot.arrays && started.boot.lpddr) = false
      ∧ verified.boot.firmware = false := by decide +kernel

/-- Start-up with everything done but Memory Active. -/
def ready : Dev := { live with boot := { live.boot with active := false } }

theorem witness_memory_active :
    ready.boot.keys = true ∧ ready.boot.hbm = true ∧ ready.boot.arrays = true ∧ ready.boot.lpddr = true ∧ ready.boot.active = false
      ∧ ready.clk.refLost = false := by decide +kernel

theorem witness_lowest_stack :
    ((0xFFF#12).getLsbD 0 = true ∧ ∀ j < 0, (0xFFF#12).getLsbD j = false)
      ∧ ((0x800#12).getLsbD 11 = true ∧ ∀ j < 11, (0x800#12).getLsbD j = false) := by decide +kernel

/-- PLLs locked, no image verified yet. -/
def locked : Dev := { live with boot := { por := true } }

theorem witness_boot :
    locked.boot.por = true ∧ locked.allLocked = true ∧ locked.clk.refLost = false ∧ locked.boot.imageOk = false
      ∧ locked.boot.recovery = false ∧ locked.mbx.doorbell = false
      ∧ locked.verify (locked.sec.image 0) ≠ stOk ∧ locked.verify (locked.sec.image 1) ≠ stOk := by decide +kernel

/-- REFCLK stable since the local count began; `n` ns later. -/
def settling (n : Nat) : Dev := { d0 with boot := { por := true }, clk := { d0.clk with refStable := true, localNs := n } }

/-- The same with every PLL locked but the last, and with REFCLK lost before; REFCLK not judged stable yet. -/
def lastPll (n : Nat) (lost : Bool) : Dev :=
  { settling n with clk := { (settling n).clk with pllLock := BitVec.allOnes 43 &&& ~~~(1#43 <<< 42), refLost := lost } }
def counting (n : Nat) : Dev := { settling n with clk := { (settling n).clk with refStable := false } }

theorem witness_pll :
    (settling 163840).clk.refStable = true ∧ (settling 163840).clk.pllLock.getLsbD 42 = false
      ∧ (settling 163840).clk.pllAt[42] + 163840 ≤ (settling 163840).clk.localNs ∧ (settling 163840).clk.refLost = false
      ∧ (settling 163839).clk.localNs < (settling 163839).clk.pllAt[42] + 163840 := by decide +kernel

theorem witness_last_pll :
    (lastPll 163840 false).clk.pllLock.getLsbD 42 = false ∧ (lastPll 163840 false).boot.stage = 0
      ∧ (lastPll 163840 true).clk.refLost = true
      ∧ (lastPll 163840 true).clk.pllLock ||| (1#43 <<< 42) = BitVec.allOnes 43
      ∧ (lastPll 163840 true).clk.pllAt[42] + 163840 ≤ (lastPll 163840 true).clk.localNs := by decide +kernel

theorem witness_refclk_count :
    (counting 655360).boot.por = true ∧ (counting 655360).clk.refStable = false
      ∧ (counting 655360).clk.refAt + 655360 ≤ (counting 655360).clk.localNs
      ∧ (counting 655359).clk.localNs < (counting 655359).clk.refAt + 655360 := by decide +kernel

theorem witness_refclk_lost : live.boot.por = true := by decide +kernel

theorem witness_host_link :
    ({ live with link := { live.link with training := true } } : Dev).link.training = true ∧ live.link.training = false := by
  decide +kernel

/-! ### Headgate and watermaster -/

/-- A payload of little-endian fields, as (offset, length, value). -/
def pay (n : Nat) (fs : List (Nat × Nat × Nat)) : List Byte := layout n fs

theorem witness_allot_set :
    takes live 0xC100 (pay 8 [(0, 2, 600), (4, 4, 60000)]) ∧ takes live 0xC100 (pay 8 [(0, 2, 1801), (4, 4, 10)])
      ∧ takes live 0xC101 []
      ∧ zeroAt (pay 8 [(0, 2, 600), (4, 4, 60000)]) 2 2 = true ∧ 600 ≤ fieldAt (pay 8 [(0, 2, 600), (4, 4, 60000)]) 0 2
      ∧ fieldAt (pay 8 [(0, 2, 600), (4, 4, 60000)]) 4 4 ≤ 60000 ∧ 1800 < fieldAt (pay 8 [(0, 2, 1801), (4, 4, 10)]) 0 2 := by
  unfold takes; decide +kernel

/-- The block `n` ns on. -/
def later (n : Nat) (d : Dev) : Dev := { d with clk := { d.clk with localNs := n } }

/-- Quadrants at 95, 93, 92 and 40 °C. -/
def warm : Sensors := { actualMv := #v[800, 700, 600, 550], tj := #v[95, 93, 92, 40], current := #v[1, 2, 3, 4], inputMa := [50000], vinMv := 12000 }

/-- The last control period and the last reading were at 0; the headgate waits for one of each. -/
def periodic : Dev := { live with hg := { live.hg with periodAt := some 0, meterAt := some 0 } }

theorem witness_control_period :
    periodic.hg.periodAt = some 0 ∧ periodic.now < 0 + 100000
      ∧ (∀ t ∈ (later 100000 periodic).hg.periodAt, t + 100000 ≤ (later 100000 periodic).now)
      ∧ live.hg.tjLimit ≤ warm.tj[0] ∧ (warm.tj[1] < live.hg.tjLimit ∧ live.hg.tjLimit ≤ warm.tj[1] + 2)
      ∧ warm.tj[2] + 2 < live.hg.tjLimit := by decide +kernel

/-- A block in a droop since `t`, on the local count `n`. -/
def drooping (t n : Nat) : Dev :=
  { live with hg := { live.hg with inDroop := true, droopSince := t, droopLow := 10999 }, clk := { live.clk with localNs := n } }

theorem witness_droop :
    10999 < live.hg.droopMv ∧ live.hg.inDroop = false ∧ (drooping 0 1000000).hg.inDroop = true ∧ live.hg.droopMv ≤ 11000
      ∧ (drooping 0 1000000).hg.droopSince + 1000000 ≤ (drooping 0 1000000).now
      ∧ (drooping 0 999999).now < (drooping 0 999999).hg.droopSince + 1000000 := by decide +kernel

theorem witness_park :
    (later 20000 live).hg.parkEn = true ∧ (later 20000 live).busy 3 = false
      ∧ ((later 20000 live).hg.quads[3]).releasedAt + 20000 ≤ (later 20000 live).now
      ∧ (live.modEngine 1 48 fun e => { e with units := [{ ctx := 0, seq := 1, idx := 0 }] }).busy 3 = true := by decide +kernel

/-- A meter without power. -/
def unpowered : Dev := { live with meter := { live.meter with powered := false } }

theorem witness_reading :
    live.meter.powered = true ∧ live.meter.answering = true ∧ (unpowered.meter.powered && unpowered.meter.answering) = false
      ∧ (later 10000000 live).hg.meterLost = false ∧ (later 10000000 live).hg.readingAt + 10000000 ≤ (later 10000000 live).now
      ∧ live.now < live.hg.readingAt + 10000000
      ∧ (∀ t ∈ (later 100000 periodic).hg.meterAt, t + 100000 ≤ (later 100000 periodic).now)
      ∧ periodic.hg.meterAt = some 0 ∧ periodic.now < 0 + 100000 := by decide +kernel

/-- A meter with two log entries and an UNSEALED strap. -/
def unsealed : Dev := { live with meter := { live.meter with strap := true, log := [List.replicate 40 1, List.replicate 40 2] } }

theorem witness_meter_reads :
    (fieldAt (pay 4 [(2, 2, 0)]) 2 2 = 0) ∧ 100 < fieldAt (pay 4 [(2, 2, 101)]) 2 2
      ∧ fieldAt (pay 8 [(4, 2, 0)]) 4 2 = 0 ∧ 200 < fieldAt (pay 8 [(4, 2, 201)]) 4 2
      ∧ 1 ≤ fieldAt (pay 4 [(2, 2, 2)]) 2 2 ∧ fieldAt (pay 4 [(2, 2, 2)]) 2 2 ≤ 100
      ∧ fieldAt (pay 4 [(2, 2, 2)]) 0 2 + fieldAt (pay 4 [(2, 2, 2)]) 2 2 ≤ unsealed.meter.log.length := by decide +kernel

theorem witness_sealed : live.meter.powered = true ∧ live.meter.answering = true ∧ live.meter.strap = false := by decide +kernel

/-- A full log. -/
def fullLog : Dev := { unsealed with meter := { unsealed.meter with log := List.replicate 1024 [] } }

theorem witness_unsealed :
    unsealed.meter.powered = true ∧ unsealed.meter.answering = true ∧ unsealed.meter.strap = true
      ∧ unsealed.meter.log.length < 1024 ∧ 1024 ≤ fullLog.meter.log.length := by decide +kernel

theorem witness_fw_write :
    (pay 20 [(0, 4, 524272)]).length ≤ 4092 ∧ fieldAt (pay 20 [(0, 4, 524272)]) 0 4 + ((pay 20 [(0, 4, 524272)]).length - 4) ≤ 524288
      ∧ 4 ≤ (pay 20 [(0, 4, 524272)]).length
      ∧ 524288 < fieldAt (pay 20 [(0, 4, 524273)]) 0 4 + ((pay 20 [(0, 4, 524273)]).drop 4).length := by decide +kernel

theorem witness_fw_commit :
    unsealed.meter.commitStatus (padTo (fieldAt (pay 4 [(0, 4, 0)]) 0 4) unsealed.meter.staging) (fieldAt (pay 4 [(0, 4, 0)]) 0 4) ≠ stOk := by
  decide +kernel

/-- A meter that has signed a record at 0, at operating time `n`. -/
def signed (n : Nat) : Dev := { live with meter := { live.meter with signedAt := some 0, opNs := n } }

/-- A meter with every leaf used. -/
def noLeaf : Dev := { live with meter := { live.meter with nextLeaf := 2 ^ 25 } }

theorem witness_sign :
    64 < fieldAt (pay 40 [(36, 1, 65)]) 36 1 ∧ fieldAt (pay 40 []) 36 1 = 0
      ∧ (signed 10000000000).meter.committing = none ∧ (signed 10000000000).meter.nextLeaf < 2 ^ 25
      ∧ (∀ t ∈ (signed 10000000000).meter.signedAt.toList, t + 10000000000 ≤ (signed 10000000000).meter.opNs)
      ∧ (∃ t ∈ (signed 9999999999).meter.signedAt.toList, (signed 9999999999).meter.opNs < t + 10000000000)
      ∧ noLeaf.meter.committing = none ∧ 2 ^ 25 ≤ noLeaf.meter.nextLeaf ∧ noLeaf.meter.signedAt = none := by decide +kernel

/-- A meter at operating time `n` with a store at 0. -/
def stored (n : Nat) : Dev := { live with meter := { live.meter with opNs := n, energyMwh := 7, residue := 9 } }

/-- A meter that restarts. -/
def restarting : Dev := { live with meter := { live.meter with answering := false, runSvn := 3 } }

theorem witness_meter_store :
    (stored 1000000000).meter.powered = true ∧ (stored 1000000000).meter.storedAt + 1000000000 ≤ (stored 1000000000).meter.opNs
      ∧ (stored 999999999).meter.opNs < (stored 999999999).meter.storedAt + 1000000000 ∧ unpowered.meter.powered = false
      ∧ restarting.meter.powered = true ∧ restarting.meter.answering = false := by decide +kernel

/-- A meter with one marker on its way since 0. -/
def flying (n : Nat) : Dev :=
  { live with meter := { live.meter with flying := [(2, 9, 77, true, 1234, 0)] }, clk := { live.clk with localNs := n } }

theorem witness_marker :
    (flying 0).meter.flying = (2, 9, 77, true, 1234, 0) :: [] ∧ (flying 1000000).meter.flying = [(2, 9, 77, true, 1234, 0)]
      ∧ live.meter.flying = [] := ⟨rfl, rfl, rfl⟩

theorem witness_marker_times :
    0 + 1000000 ≤ (flying 1000000).now ∧ live.meter.copyAt = none ∧ live.meter.powered = true ∧ live.meter.answering = true := by
  decide +kernel

/-! ### Host link -/

/-- Both decoders committed: all of LPDDR5X and 256 MiB of HBM3E, whose line 0 stands at local `hbmBase + reservedBytes`. -/
def mapped : Dev := { live with link := { live.link with
  up := true, cxl := true
  decoders := #v[⟨true, 0, 0x10000000000, 0⟩, ⟨true, 0x10000000000, 0x10000000, 0⟩] } }

/-- A host read, and a host write of `n` bytes with some enabled. -/
def hRead (dpa : Nat) : HdmAccess := { write := false, dpa := dpa, data := [], enable := [] }
def hWrite (dpa n : Nat) (on : List Bool) : HdmAccess := { write := true, dpa := dpa, data := List.replicate n 0x5A, enable := on }

/-- Memory with bytes 1 to 64 in line 0 of LPDDR5X, and with its granule 1 poisoned. -/
def written : Dev := { mapped with mem := mapped.mem.store lpBase ((List.range 64).map fun i => BitVec.ofNat 8 (i + 1)) }
def poisoned : Dev := { written with mem := written.mem.poisonGranule (lpBase / 32 + 1) }

/-- A full block of windows removed from the last stack. -/
def windowless : Dev := { mapped with rsv := { mapped.rsv with windows := Vector.replicate 12 4 } }

theorem witness_hdm :
    (live.boot.active && live.link.cxl) = false ∧ mapped.link.maps (0x10000000000 + 0x10000000) = false
      ∧ mapped.link.maps (0x10000000000 + 0xFFFFFC0) = true := by decide +kernel

theorem witness_host_read :
    written.boot.active = true ∧ written.link.cxl = true ∧ written.link.maps 0 = true ∧ localOfDpa 0 = some lpBase
      ∧ written.clk.refLost = false ∧ written.link.waiting = [] ∧ written.link.lines.length < 1048576
      ∧ written.hostGone (lpBase / 32) = false ∧ written.hostGone (lpBase / 32 + 1) = false
      ∧ written.mem.marked lpBase 64 = false ∧ poisoned.mem.poisoned (lpBase / 32 + 1) = true
      ∧ localOfDpa 0x10000000000 = some (hbmBase + reservedBytes) ∧ localOfDpa 0x16BE0000000 = none := by decide +kernel

theorem witness_host_write :
    (hWrite 32 8 (List.replicate 8 true)).data.length = (hWrite 32 8 (List.replicate 8 true)).enable.length
      ∧ written.mem.marked (lpBase + 32) 8 = false ∧ (∀ g ∈ granulesOf (lpBase + 32) 8, written.hostGone g = false)
      ∧ localOfDpa 32 = some (32 * (lpBase / 32 + 1)) ∧ poisoned.hostGone (lpBase / 32 + 1) = false := by decide +kernel

theorem witness_decoders :
    { mapped with link := { mapped.link with decoders := Vector.replicate 2 {} } }.decoderOk 0 0 0x10000000 0 1 = true
      ∧ (2 ≠ 1 ∧ live.link.cxl = false ∧ 0x10000001 % 268435456 ≠ 0) := by decide +kernel

/-- A line that the host holds and has been asked for. -/
def snooping : Dev := { mapped with link := { mapped.link with lines := [3, 4], snooped := [4] } }

theorem witness_snoops :
    snooping.link.snooped.contains 3 = false ∧ snooping.link.snooped.contains 4 = true ∧ snooping.link.waiting = []
      ∧ snooping.fab.stalled = [] ∧ snooping.ldg.running = none ∧ snooping.mbx.waiting = false := by decide +kernel

/-- A block whose firmware does not run, and one with a DOE response to read. -/
def noFirmware : Dev := { d0 with boot := { d0.boot with firmware := false, recovery := false } }
def answered : Dev := { live with link := { live.link with doePending := some [1, 2] } }

theorem witness_doe :
    noFirmware.boot.firmware = false ∧ noFirmware.boot.recovery = false ∧ answered.boot.firmware = true
      ∧ answered.link.doePending = some [1, 2] ∧ live.link.doePending = none ∧ live.boot.keys = true
      ∧ (List.replicate 16384 (0 : Byte)).length ≤ 16384 ∧ 16384 < (List.replicate 16385 (0 : Byte)).length := by decide +kernel

/-- A Secure stream: both directions hold a key in set 0, and the transmitter one in set 1. -/
def secure : Dev := { mapped with link := { mapped.link with
  ioSecure := true, ioTx := { k0 := true, k1 := true }, ioRx := { k0 := true } } }

theorem witness_ide :
    secure.link.up = true ∧ secure.link.secure .io = true ∧ false = (secure.link.dir .io .tx).useSet
      ∧ (secure.link.dir .io .tx).oldHeld = false ∧ (secure.link.dir .io .tx).key (!(secure.link.dir .io .tx).useSet) = true
      ∧ live.link.up = false := by decide +kernel

/-! ### Time base, ports and flits -/

/-- Port `n` of a block is `x`. -/
def withPort (d : Dev) (n : Fin 96) (x : Port) : Dev := d.modPort n fun _ => x

/-- The stratum-0 device. -/
def master : Dev := { live with clk := { live.clk with master := true, state := tbMaster } }

/-- A live short link at port 3, and a lateral at port 40, with one time exchange in progress on each. -/
def linked : Dev :=
  (((withPort live 3 { state := .up, lanesTx := 2, lanesRx := 2 }).modPort 40 fun _ => { state := .up, lateral := true }).modLat 3
    fun l => { l with pending := [7, 8] }).modLat 40 fun l => { l with pending := [9] }

theorem witness_time :
    master.clk.state = tbMaster ∧ live.clk.state ≠ tbMaster ∧ (linked.clk.master = true ↔ linked.clk.state = tbMaster)
      ∧ (linked.fab.ports[3]).state.live = true ∧ (linked.fab.ports[4]).state.live = false
      ∧ (linked.lat.lats[3]).pending = 7 :: [8] ∧ (linked.lat.lats[4]).pending = []
      ∧ (linked.lat.lats[3]).startedAt + 1000000 ≤ (later 1000000 linked).now := by decide +kernel

/-- A lateral that re-measures with `n` exchanges gathered. -/
def measuring (n : Nat) : Dev :=
  linked.modLat 40 fun l => { l with remeasuring := true, gathered := List.replicate n ⟨100, 6⟩ }

theorem witness_remeasure :
    ((measuring live.lat.remeasure).lat.lats[40]).remeasuring = true
      ∧ live.lat.remeasure ≤ ((measuring live.lat.remeasure).lat.lats[40]).gathered.length
      ∧ ((measuring 0).lat.lats[40]).gathered.length < live.lat.remeasure := by decide +kernel

/-- A block whose port 3 is in a state since 0, with the fabric enabled; `later` moves the clock on. -/
def portIs (st : PortState) : Dev :=
  let d := withPort live 3 { state := st }
  { d with fab := { d.fab with enable := true } }

/-- What the neighbour of port 3 says: slot 3 stands there for a device in slot 5. -/
def nbr (lat : Bool) (tx rx : Nat) : TrainInfo :=
  { nbrId := 3, nbrPort := 4, lateral := lat, nbrInc := 77, fixedNbr := 0, fixedOwn := 0, lanesTx := tx, lanesRx := rx }

theorem witness_ports :
    (portIs .down).portClock 3 = true ∧ ((portIs .down).fab.ports[3]).retryAt ≤ (portIs .down).now
      ∧ ((portIs .training).fab.ports[3]).since + 100000000 ≤ (later 100000000 (portIs .training)).now
      ∧ (later 99999999 (portIs .training)).now < ((portIs .training).fab.ports[3]).since + 100000000
      ∧ ((portIs .draining).fab.ports[3]).unacked = [] ∧ ((portIs .draining).fab.ports[3]).queue = []
      ∧ (portIs .training).roleOk 3 (nbr false 1 2) = true ∧ (nbr false 2 2).lateral = ((portIs .training).fab.ports[3]).lateral
      ∧ (nbr false 0 2).lanesTx = 0 := by decide +kernel

theorem witness_link_state :
    (portIs .up).fab.enable = true ∧ (portIs .up).fab.linkSentAt + 10000000 ≤ (later 10000000 (portIs .up)).now
      ∧ (31 : Fin 32).val ≠ slotOf live.fab.id ∧ (5 : Fin 32).val = slotOf live.fab.id
      ∧ (∀ p < 96, live.fab.map.find? (fun x => x.1 == 96 * 31 + p) = none) := by decide +kernel

/-- Basin 7 has had no exit up since 0; the original of basin 8 has its exit, port 16 of slot 0, up since 0. -/
def dead : Dev :=
  { live with fab := { live.fab with downSince := [(7, 0)], routes := [(7, 0x1001)] } }
def back : Dev :=
  { live with fab := { live.fab with upSince := [(16, 0)], routes := [(8, 0)], saved := [(8, 0x2001), (9, 1)] } }

theorem witness_routes :
    dead.fab.downSince.find? (fun e => e.1 == 7) = some (7, 0) ∧ dead.fab.saved = []
      ∧ 0 + dead.lat.holdMs * 1000000 ≤ (later (dead.lat.holdMs * 1000000) dead).now
      ∧ back.fab.saved.find? (fun e => e.1 == 8) = some (8, 0x2001) ∧ (0, 16) ∈ back.exitsOfRaw 0x2001
      ∧ back.fab.upSince.find? (fun x => x.1 == exitKey (0, 16)) = some (16, 0)
      ∧ 0 + back.lat.holdMs * 1000000 ≤ (later (back.lat.holdMs * 1000000) back).now
      ∧ back.fab.saved.find? (fun e => e.1 == 7) = none ∧ dead.canonical = false := by
  decide +kernel

/-- A flit with a CRC that matches: three bytes or two of numbers, the rest as given; no slot is used. -/
def flit (head : List Byte) : List Byte :=
  let body := head ++ List.replicate (312 - head.length) 0
  body ++ toLe 8 (crc64 body).toNat

theorem flit_good (head : List Byte) (h : head.length ≤ 312) : flitGood true (flit head) = true := by
  have hb : (head ++ List.replicate (312 - head.length) 0).length = 312 := by simp; omega
  generalize hB : head ++ List.replicate (312 - head.length) (0 : Byte) = b at hb
  have ht : (b ++ toLe 8 (crc64 b).toNat).take 312 = b := by rw [← hb]; simp
  have hd : (b ++ toLe 8 (crc64 b).toNat).drop 312 = toLe 8 (crc64 b).toNat := by rw [← hb]; simp
  have hl : (toLe 8 (crc64 b).toNat).take 8 = toLe 8 (crc64 b).toNat := List.take_of_length_le (by simp)
  have hc := (crc64 b).isLt
  simp only [flit, hB, flitGood, fieldAt, ht, hd, hl, leNat_toLe, List.length_append, toLe_length, hb]
  simp; omega

/-- The short link waits for flit 5, and has told of no bad one. -/
def shortLink : Dev := linked.modPort 3 fun x => { x with rxNext := 5 }

theorem witness_flits :
    shortLink.receives 3 false = true ∧ shortLink.receives 4 false = false ∧ shortLink.receives 40 true = true
      ∧ flitGood true [] = false
      ∧ slotsOf (flit (toLe 2 4101 ++ toLe 2 0)) = [] ∧ fieldAt (flit (toLe 2 4101 ++ toLe 2 0)) 0 2 = 4096 + (shortLink.fab.ports[3]).rxNext
      ∧ bitOf (fieldAt (flit (toLe 2 4101 ++ toLe 2 0)) 2 2) 12 = false := by decide +kernel

theorem witness_lateral_flits :
    flitGood true (flit (toLe 3 9 ++ toLe 1 1)) = true ∧ fieldAt (flit (toLe 3 9 ++ toLe 1 1)) 3 1 % 16 = 1
      ∧ fieldAt (flit (toLe 3 2047 ++ toLe 1 2)) 3 1 % 16 = 2
      ∧ 0 < (shortLink.fab.ports[40]).ahead 2047 ∧ (shortLink.fab.ports[40]).ahead 2047 < 2048
      ∧ 2048 ≤ (shortLink.fab.ports[40]).ahead 8388607 ∧ (shortLink.fab.ports[40]).ahead 8388607 < 2 ^ 23
      ∧ (shortLink.fab.ports[40]).heldFlits = [] ∧ (shortLink.fab.ports[40]).queue = [] ∧ (shortLink.fab.ports[3]).unacked = [] :=
  ⟨flit_good _ (by decide), by decide +kernel⟩

/-- A lateral with two flits out, sent at 0, and the next one expected changed since it told. -/
def sentOut : Dev :=
  (linked.modPort 40 fun x => { x with rxNext := 2, unacked := [{ seq := 0, slots := [1] }, { seq := 1, slots := [2] }] })

theorem witness_resend :
    sentOut.lat.lats[40].ackCum ≠ sentOut.fab.ports[40].rxNext ∧ sentOut.lat.lats[40].ackAt + 10000 ≤ (later 10000 sentOut).now
      ∧ (later 9999 sentOut).now < sentOut.lat.lats[40].ackAt + 10000
      ∧ (∀ f ∈ sentOut.fab.ports[40].unacked, f.sends < 16 ∧ f.sentAt + sentOut.rttNs 40 + 100000 ≤ (later 100000 sentOut).now) := by
  decide +kernel

/-! ### Requests over the fabric -/

/-- A READ and a WRITE of two granules of LPDDR5X at `a`. -/
def rd (a : Nat) : Packet := { emptyPacket with type := .read, tc := 4, unit := 12, dest := 5, src := 5, addr := a, len := 2, tag := 3 }
def wr (a : Nat) : Packet := { rd a with type := .write, data := granuleSlots ((List.range 64).map fun i => BitVec.ofNat 8 (i + 1)) }

theorem witness_requests :
    live.judgeAccess (rd lpBase) = stOk ∧ live.judgeAccess (wr lpBase) = stOk ∧ live.judgeAccess (rd (lpBase + 1)) ≠ stOk
      ∧ live.judgeAccess (wr (lpBase + 16)) ≠ stOk ∧ live.mem.marked lpBase 64 = false ∧ maskOf (wr lpBase) = 0
      ∧ (rd lpBase).dest = live.fab.id ∧ live.link.lines = [] ∧ lpBase % 32 = 0 := by decide +kernel

theorem witness_for_others :
    ({ rd 0 with dest := 6, hop := 7 } : Packet).dest ≠ live.fab.id ∧ live.fab.transit = [] := by decide +kernel

/-- One live entry with number 3 that an owner waits for. -/
def waits (o : Owner) (q : Packet) (w : Option Nat) (why : Nat) (gone : Bool) : Dev := { live with fab := { live.fab with
  entries := [(3, { useCount := 0, packet := q, owner := o, issuedAt := 0, waitUntil := w, waitFor := why, discard := gone })] } }

/-- An answer to it. -/
def resp (t : PacketType) : Packet := { rd lpBase with type := t, gen := 4, inc := 6, data := granuleSlots (List.replicate 64 7) }

theorem witness_answers :
    (∀ e ∈ live.fab.entries, e.1 ≠ 3) ∧ (waits (.fetch 0 1) (rd lpBase) none 0 true).cached 5 12 = none
      ∧ (resp .readResp).len = (rd lpBase).len ∧ responseData (resp .readResp) = some (List.replicate 64 7)
      ∧ 0 + live.fab.reqUs * 1000 ≤ (later 2000000 live).now ∧ (later 1999999 live).now < 0 + live.fab.reqUs * 1000 := by
  decide +kernel

/-- Entry 3 is live and waits for an answer, a back-off, or the end of a back-off with its job's time still running. -/
def busyPiece : Dev :=
  { waits (.piece 0 2 0 0) (rd lpBase) (some 0) 2 false with
    red := { live.red with jobs := [{ ctx := 0, job := 2, seq := 1, step := 0, attempt := 0, ring := false, probe := false, exp := 0
                                      count := 1, index := 0, n := 32, src := 0, region := 0, members := [5], check := 0
                                      deadlineAt := 1 }] } }

theorem witness_request_timers :
    let d := later 2000000 (waits (.fetch 0 1) (rd lpBase) none 0 false)
    (d.fab.entries.find? (fun x => x.1 == 3)).isSome = true ∧ (∀ q ∈ d.fab.entries, q.2.owner ≠ .query 3)
      ∧ d.judgeRemote 5 = stOk ∧ (d.freeEntry 7).isSome = true
      ∧ (waits (.fetch 0 1) (rd lpBase) (some 0) 1 false).judgeRemote 5 = stOk
      ∧ (busyPiece.job? 0 2).isSome = true ∧ busyPiece.now < 1 ∧ busyPiece.judgeRemote 5 = stOk := by decide +kernel

/-! ### Ring commands -/

/-- Command SEQ 1 of context 0 in ring slot 1, outside any step, as it stands once it has become ready at 0. -/
def command (op : Nat) (ind : Bool) (args : List Byte) (n : Nat) : Cmd where
  entry := { seq := 1, wait := 0, opcode := op, notify := false, indirect := ind, noSpec := false, phase := 0, layer := 0, micro := 0,
             energy := 0, argLen := n, args := args }
  slot := 0
  index := 1
  readyAt := some 0

/-- Context 0 runs and has just this command. -/
def oneCmd (d : Dev) (k : Cmd) : Dev :=
  withCtx d 0 { running with cmds := [k], tail := 2, readIdx := 2, head := 1, nextSeq := 2, stopRead := false }

/-- A MOVE of rows of 32 bytes in LPDDR5X (the addresses carry the device's own fabric ID, R495), its block in memory at `lpBase + 64`, and its command. -/
def moveBlock (rows : Nat) : List Byte :=
  pay 48 [(0, 8, (5 <<< 44) + lpBase), (8, 8, (5 <<< 44) + lpBase + 4096), (16, 4, rows), (20, 4, 32), (24, 8, 32), (32, 8, 32)]
def moveCmd : Cmd := command opMove true (pay 40 [(0, 8, lpBase + 64)]) 48
def moving (rows : Nat) : Dev :=
  let d := oneCmd live moveCmd
  { d with mem := d.mem.store (lpBase + 64) (moveBlock rows) }

theorem witness_ready : onlyReady (moving 1) 0 moveCmd ∧ takesBlock moveCmd.entry.opcode = true
    ∧ (moveCmd.entry.opcode, Instr.move 0 1) ∈ ringRows 0 moveCmd.entry.seq := by
  unfold onlyReady; decide +kernel

theorem witness_block : hasBlock (offer (moving 1) 0 moveCmd) moveCmd (moveBlock 1) := by
  unfold hasBlock quiet; decide +kernel

theorem witness_judged :
    ((offer (moving 1) 0 moveCmd).judgeArgs 0 { moveCmd with args := moveBlock 1 }).2 = .go 1 [] := by decide +kernel

theorem witness_refused :
    ((offer (moving 0) 0 moveCmd).judge 0 moveCmd).2.1 = .refuse stBadArg ∧ ((moving 0).ctx 0).state = .running
      ∧ ((moving 0).ctx 0).spanPos moveCmd.index ≠ some 1 ∧ moveCmd.step = none := by decide +kernel

/-- Blocks of an ARRAY_OP (64 rows of 32 by 32, BF16), a SIPHON_SAVE of one row, and a receive of 32 bytes. -/
def arrayBlock : List Byte := pay 64 [(0, 8, 0x2000), (8, 8, 0x4000), (16, 8, 0x6000), (32, 4, 64), (36, 4, 32), (40, 4, 32)]
def saveBlock : List Byte := pay 48 [(0, 8, 0), (8, 8, lpBase), (16, 4, 1), (20, 4, 32), (32, 8, 4096)]
def recvBlock : List Byte := pay 48 [(0, 8, lpBase), (16, 8, 32), (28, 1, 1), (32, 4, 6)]

theorem witness_args :
    (∃ x, arrayArgs arrayBlock = some x) ∧ arrayArgs [] = none ∧ (∃ x, moveArgs (moveBlock 1) = some x ∧ live.checkMove x = stOk)
      ∧ (∃ x, siphonArgs false saveBlock = some x ∧ inReservoir x.src x.srcBytes = true ∧ fidOf x.dst = 0
        ∧ 64 + x.recordBytes ≤ x.dstLen ∧ live.slowStatus x.dst (64 + x.recordBytes) = stOk)
      ∧ (∃ x, stageArgs recvBlock = some x ∧ x.receive = true ∧ fidOf x.loc = 0 ∧ live.rangeStatus x.loc x.bytes = stOk) := by
  refine ⟨⟨_, rfl⟩, by decide +kernel, ⟨_, rfl, by decide +kernel⟩, ⟨_, rfl, by decide +kernel⟩, ⟨_, rfl, by decide +kernel⟩⟩

/-- An inline command in a step that its context has read, with the sluice set. -/
def inline (op : Nat) (args : List Byte) (k : Cmd) : Dev :=
  let k := { k with entry := { k.entry with opcode := op, indirect := false, args := args, argLen := 0 } }
  let d := oneCmd live k
  let d := d.modCtx 0 fun x => { x with steps := [{ step := 0, outer := false, beginIndex := 1, beginSeq := 1, endIndex := none }] }
  d.modSlc 0 fun x => { x with isSet := true, count := 1, members := [5] }

/-- The inline command itself. -/
def inlineCmd (op : Nat) (args : List Byte) : Cmd := command op false args 0

theorem witness_inline :
    onlyReady (oneCmd live (inlineCmd opNop [])) 0 (inlineCmd opNop []) ∧ onlyReady (oneCmd live (inlineCmd opMarker [])) 0 (inlineCmd opMarker [])
      ∧ onlyReady (inline opStepBegin [] { inlineCmd opStepBegin [] with step := some 0 }) 0 { inlineCmd opStepBegin [] with step := some 0 }
      ∧ onlyReady (inline opStepEnd [] { inlineCmd opStepEnd [] with step := some 0 }) 0 { inlineCmd opStepEnd [] with step := some 0 } := by
  unfold onlyReady; decide +kernel

/-- A deferred NOP that has been ready for `us` microseconds. -/
def deferredNop : Cmd := { inlineCmd opNop [] with deferred := true }
def deferred (us : Nat) : Dev := later (1000 * us) (oneCmd live deferredNop)

theorem witness_deferred :
    onlyReady (deferred 500) 0 deferredNop ∧ (deferred 500).hg.deferrals ≤ 0xFFFFFFFF ∧ (deferred 500).deferExpired deferredNop = true
      ∧ onlyReady (deferred 499) 0 deferredNop ∧ (deferred 499).deferExpired deferredNop = false := by
  unfold onlyReady; decide +kernel

theorem witness_step_begin :
    let d := inline opStepBegin [] { inlineCmd opStepBegin [] with step := some 0 }
    d.rsv.retiring = none ∧ (d.slc 0).isSet = true ∧ (d.ctx 0).spanPos 1 = some 0
      ∧ ((d.ctx 0).steps.head?).map (·.beginSeq) = some 1 ∧ ((d.ctx 0).steps.head?).bind (·.refused) = none
      ∧ BitVec.ofNat 64 (fieldAt [] 0 8) = (d.slc 0).step
      ∧ (d.slc 0).overflow = false ∧ ∀ e ∈ d.shardsOf 0, e.2.imported = true → e.2.state = .staged := by decide +kernel

/-- Context 0 with HEAD 0 and TAIL `t` in a ring of 64 entries. -/
def ringing (t : W32) : Dev := withCtx live 0 { running with tail := t }

theorem witness_doorbell :
    (live.ctx 0).state = .closed ∧ ((ringing 2).ctx 0).state ≠ .closed ∧ ((64 : W32) - 2).toNat < 2 ^ 31
      ∧ ((64 : W32) - 0).toNat ≤ 2 ^ ((ringing 2).ctx 0).ringLog2 ∧ 2 ^ ((ringing 2).ctx 0).ringLog2 < ((65 : W32) - 0).toNat
      ∧ 2 ^ 31 ≤ ((1 : W32) - 2).toNat := by decide +kernel

/-- The ring holds a NOP with SEQ 0 at index 0. -/
def reading : Dev :=
  let d := ringing 1
  { d with mem := d.mem.store running.ringBase (pay 64 [(4, 4, 0xFFFFFFFF), (8, 2, opNop)]) }

theorem witness_entry :
    let x := reading.ctx 0
    x.state = .running ∧ x.stopRead = false ∧ (reading.slc 0).stepState ≠ .repeatWait ∧ x.cmds.length < 32 ∧ x.again = []
      ∧ x.holdPending = false ∧ x.readIdx ≠ x.tail ∧ x.known x.readIdx = false := by decide +kernel

theorem witness_entry_bytes :
    quiet reading running.ringBase 64 ∧ entryOk 0 (readCells reading.mem.cells running.ringBase 64) = true
      ∧ entryOk 0 (readCells (ringing 1).mem.cells running.ringBase 64) = false := by
  unfold quiet; decide +kernel

/-! ### Context commands -/

/-- CTX_CREATE of context 2, and the payload of the other commands for context 0. -/
def create : List Byte := pay 32 [(0, 1, 2), (1, 1, 3), (2, 1, 6), (3, 1, 16), (8, 8, 0x10080000000), (16, 8, 0x10090000000), (24, 4, 7)]

theorem witness_create :
    takes live 0xC000 create ∧ fieldAt create 0 1 < 16 ∧ fieldAt create 1 1 < 64 ∧ bitsOf (fieldAt create 1 1) 2 2 ≤ 2
      ∧ 6 ≤ fieldAt create 2 1 ∧ fieldAt create 3 1 ≤ 16 ∧ fieldAt create 4 4 ≤ 600000 ∧ zeroAt create 28 4 = true
      ∧ (live.ctx (ctxOf create)).state = .closed
      ∧ live.placementOk (fieldAt create 8 8, 64 * 2 ^ fieldAt create 2 1) (fieldAt create 16 8, 32 * 2 ^ fieldAt create 3 1) = true := by
  unfold takes; decide +kernel

/-- Context 0 is in a state, with one command that has ended with a failure. -/
def ctxIs (x : CtxState) : Dev :=
  withCtx live 0 { running with state := x, head := 1, tail := 4, cmds := [{ moveCmd with ended := some stTimeout }] }

theorem witness_ctx_commands :
    takes (ctxIs .opened) 0xC001 (pay 4 []) ∧ takes (ctxIs .running) 0xC002 (pay 4 [(1, 1, 1)]) ∧ takes (ctxIs .holding) 0xC003 (pay 4 [])
      ∧ takes (ctxIs .holding) 0xC004 (pay 4 []) ∧ takes (ctxIs .running) 0xC005 (pay 4 []) ∧ takes (ctxIs .faulted) 0xC006 (pay 12 [(4, 4, 4)])
      ∧ takes (ctxIs .faulted) 0xC007 (pay 4 []) ∧ fieldAt (pay 4 []) 0 1 < 16 ∧ zeroAt (pay 12 [(4, 4, 4)]) 1 3 = true
      ∧ fieldAt (pay 4 [(1, 1, 1)]) 1 1 = 1 ∧ zeroAt (pay 4 [(1, 1, 1)]) 2 2 = true := by
  unfold takes; decide +kernel

/-- Context 0 runs with a hold pending, in a step; and with no issued command, outside one. -/
def holdWaits : Dev := (withCtx live 0 { running with holdPending := true }).modSlc 0 fun x => { x with stepState := .active }
def idleRun : Dev := withCtx live 0 { running with cmds := [moveCmd] }

theorem witness_ctx_states :
    (holdWaits.ctx 0).holdPending = true ∧ holdWaits.stepOpen 0 = true ∧ idleRun.stepOpen 0 = false
      ∧ (∀ k ∈ (idleRun.ctx 0).cmds, k.issued = false) ∧ (∀ k ∈ ((ctxIs .holding).ctx 0).cmds, k.ended ≠ none)
      ∧ (ctxIs .running).unitsOf 0 = [] ∧ (ctxIs .running).underReplay 0 = false
      ∧ ((4 : W32) - ((ctxIs .faulted).ctx 0).head).toNat ≤ (((ctxIs .faulted).ctx 0).tail - ((ctxIs .faulted).ctx 0).head).toNat := by
  decide +kernel

/-- A unit of context 0 runs. -/
def atWork : Dev := (ctxIs .running).modEngine 1 48 fun e => { e with units := [{ ctx := 0, seq := 1, idx := 0 }] }

theorem witness_reset_waits : atWork.unitsOf 0 ≠ [] := by decide +kernel

theorem witness_rejects :
    takes (ctxIs .running) 0xC001 (pay 4 []) ∧ ((ctxIs .running).ctx 0).state ≠ .opened ∧ ((ctxIs .running).ctx 0).holdPending = false
      ∧ ((ctxIs .draining).ctx 0).state ≠ .running ∧ ((ctxIs .faulted).ctx 0).state = .faulted ∧ (live.ctx 0).state = .closed := by
  unfold takes; decide +kernel

/-! ### Services, firmware, security and the standard commands -/

/-- A staged image waits for its activation; an activation runs with `n` cores switched. -/
def staged : Dev := { live with sec := { live.sec with staged := true } }
def switching (n : Nat) : Dev :=
  { staged with
    sec := { staged.sec with activating := some n }
    mbx := { staged.mbx with slots := staged.mbx.slots.set 0 { opcode := 0xC141, target := 0, phase := 2 } } }

theorem witness_services :
    live.freeSlot = some 0 ∧ takes live 0xC010 (pay 4 []) ∧ takes live 0xC011 (pay 4 []) ∧ takes live 0xC012 (pay 4 [])
      ∧ takes staged 0xC141 (pay 4 []) ∧ takes live 0xC148 (pay 4 [(0, 1, 3)]) ∧ live.serviceFor 0xC010 0 = false
      ∧ live.recalFor 0 = false ∧ live.arrayGone 0 = false ∧ 1 < live.arraysLeft ∧ live.pcGone 0 0 = false
      ∧ live.rsv.windows.toList.getD 0 0 + live.retirementsWaiting 0 < 4 ∧ staged.activationPending = false
      ∧ staged.sec.stagedCold = false ∧ (live.engine 3 0).service = false ∧ (live.engine 3 0).replay = none := by
  unfold takes; decide +kernel

/-- FW_STAGE of 4 KiB of LPDDR5X, which holds no image. -/
def stage : List Byte := pay 24 [(0, 8, lpBase), (8, 8, 4096)]

/-- Slot B runs while slot A is the boot default. -/
def onTrial : Dev := { live with sec := { live.sec with runSlot := 1 } }

theorem witness_firmware :
    takes live 0xC140 stage ∧ aligned (fieldAt stage 0 8) 4096 = true ∧ live.slowStatus lpBase 4096 = stOk ∧ live.activationPending = false
      ∧ quiet live lpBase 4096 ∧ takes onTrial 0xC142 (pay 4 []) ∧ onTrial.sec.runSlot ≠ onTrial.sec.bootDefault
      ∧ takes live 0xC143 [] := by
  unfold takes quiet; decide +kernel

/-- What fails to verify needs no signature: an image without its magic number. -/
theorem witness_bad_image : live.verify (readCells live.mem.cells lpBase 64) ≠ stOk := by decide +kernel

theorem witness_core_switch :
    (switching 0).serviceSlot 0xC141 0 = some 0 ∧ (switching 0).sec.reverting = false ∧ switchOrder.getD 0 4 = 3 ∧ switchOrder.getD 3 4 = 2 := by
  decide +kernel

/-- A leaf may be used; the block is in recovery. -/
def signing : Dev := { live with sec := { live.sec with lmsState := 1 } }
def recovering : Dev := { d0 with boot := { d0.boot with por := true, recovery := true, perst := false, imageOk := false, firmware := false } }

theorem witness_security :
    takes signing 0xC180 (pay 48 [(32, 8, lpBase), (40, 8, 65536)]) ∧ signing.slowStatus lpBase signing.reportLen = stOk
      ∧ signing.boot.keys = true ∧ signing.reportLen ≤ 65536 ∧ (∃ x, signing.sec.takeLeaf = some x)
      ∧ takes recovering 0xC181 (pay 10 [(0, 4, 2), (4, 4, 2), (8, 2, 0x1122)]) ∧ takes recovering 0xC182 (pay 4 [(0, 4, 4)])
      ∧ takes live 0xC188 (pay 4 [(0, 1, 1)]) := by
  unfold takes; exact ⟨by decide +kernel, by decide +kernel, by decide +kernel, by decide +kernel, ⟨_, rfl⟩, by decide +kernel⟩

theorem witness_standard :
    takes live 0x0001 [] ∧ takes live 0x0100 [] ∧ takes live 0x0101 [] ∧ takes live 0x0300 [] ∧ takes live 0x0301 [] ∧ takes live 0x0400 []
      ∧ takes live 0x0401 [] ∧ takes live 0x4000 [] ∧ takes live 0xBFFF [] ∧ standardOpcodes.contains 0xBFFF = false
      ∧ takes live 0xC00B [] ∧ vendorCommand 0xC00B = none := by
  unfold takes; refine ⟨?_, ?_, ?_, ?_, ?_, ?_, ?_, ?_, ?_, ?_, ?_, by rfl⟩ <;> decide +kernel

/-! ### Units -/

/-- An issued command of context 0 with `n` units, and its engine `inst` at work on unit 0. -/
def issued (op : Nat) (args : List Byte) (n : Nat) : Cmd := { command op true [] args.length with issued := true, args := args, total := n }
def waiting (op : Nat) (args : List Byte) (n : Nat) : Dev := oneCmd live (issued op args n)
def works (op : Nat) (args : List Byte) (n inst : Nat) (u : UnitRef) : Dev :=
  (oneCmd live { issued op args n with next := 1 }).modEngine (engineOf op) inst fun e => { e with units := [u] }

/-- Unit 0, as dispatched; and suppressed. -/
def unit0 : UnitRef := { ctx := 0, seq := 1, idx := 0 }
def suppressed0 : UnitRef := { unit0 with suppressed := true }

/-- An UPDATE of one shard with a local gradient, and the shard, homed on the first LPDDR5X controller. -/
def updateBlock : List Byte := pay 96 [(28, 2, 1), (64, 2, 9), (66, 1, 1), (72, 8, 0)]
def shard9 : Shard :=
  { ctx := 0, form := 2, layout := 0, axes := 1, layer := 0, tensor := 0, ranges := [(0, 32)], extent := [32], slot0 := lpBase
    slot1 := lpBase + 0x10000, home := 12, state := .seeded, committed := true }
def withShard (d : Dev) : Dev := { d with upd := { d.upd with shards := [(9, shard9)] } }

theorem witness_dispatch :
    (∃ k, ((waiting opArray arrayBlock 1).ctx 0).cmd? 1 = some k ∧ k.hasUnit = true ∧ k.lastWaits k.takeUnit.1 = false)
      ∧ ((waiting opArray arrayBlock 1).engine 1 15).takes = true ∧ (waiting opArray arrayBlock 1).admitted 1 15 = true
      ∧ (waiting opArray arrayBlock 1).suits (issued opArray arrayBlock 1) 1 15 0 = true
      ∧ (waiting opArray arrayBlock 1).suits (issued opArray arrayBlock 1) 1 63 0 = false
      ∧ (waiting opFlume arrayBlock 64).suits (issued opFlume arrayBlock 64) 2 3 3 = true
      ∧ (waiting opMove (moveBlock 1) 1).admitted 4 15 = true ∧ (issued opMove (moveBlock 1) 1).lastWaits 0 = false
      ∧ ((stageArgs (moveBlock 1)).any fun a => opMove == opStage && a.receive) = false
      ∧ (withShard (waiting opUpdate updateBlock 1)).entryFor 0 (issued opUpdate updateBlock 1) 12 = some 0
      ∧ ((works opMove (moveBlock 1) 1 15 unit0).engine 4 15).units ≠ [] := by
  refine ⟨⟨_, rfl, by decide +kernel⟩, ?_⟩; decide +kernel

theorem witness_suppressed :
    ((works opArray arrayBlock 1 63 suppressed0).engine 1 63).units.head? = some suppressed0 ∧ suppressed0.suppressed = true
      ∧ unit0.suppressed = false ∧ ((works opArray arrayBlock 1 63 unit0).ctx 0).cmd? 1 = some { issued opArray arrayBlock 1 with next := 1 }
      ∧ goingOn { issued opArray arrayBlock 1 with next := 1 } ∧ cleanMemory (works opArray arrayBlock 1 63 unit0) := by
  unfold goingOn cleanMemory; decide +kernel

/-- One row of 32 outputs with K = 32 (one pass) and K = 160 (two); a chunk that negates 32 FP32 elements. -/
def rowBlock (k : Nat) : List Byte := pay 64 [(0, 8, 0x2000), (8, 8, 0x4000), (16, 8, 0x6000), (32, 4, 1), (36, 4, k), (40, 4, 32)]
def negBlock : List Byte :=
  pay 160 [(0, 4, 1), (4, 4, 32), (8, 8, 0x2000), (17, 1, 1), (18, 1, 1), (60, 1, 8), (61, 1, 1), (108, 8, 0x4000), (117, 1, 16)]

theorem witness_passes :
    (∃ x, arrayArgs (rowBlock 32) = some x ∧ x.passes = 1 ∧ x.tiles = 1) ∧ (∃ x, arrayArgs (rowBlock 160) = some x ∧ x.passes = 2)
      ∧ (∃ x, vecArgs negBlock = some x ∧ (x.chunkWrites running.mode (viewed live.mem (x.chunkReads 0)) 0).2 = 0) := by
  refine ⟨⟨_, rfl, by decide +kernel⟩, ⟨_, rfl, by decide +kernel⟩, ⟨_, rfl, by decide +kernel⟩⟩

/-- The pass over zeros saturates nowhere. -/
theorem witness_no_saturation :
    ∃ x, arrayArgs (rowBlock 32) = some x ∧ (x.runPass running.mode (viewed live.mem (x.reads 0 [0] 0 1 0 32)) 0 0 []).2 = 0 :=
  ⟨_, rfl, by decide +kernel⟩

theorem witness_piece :
    (∃ p, (works opMove (moveBlock 1) 1 15 unit0).pieceOf 0 (issued opMove (moveBlock 1) 1) 0 = some p ∧ p.src = none ∧ p.dst = none
      ∧ freeRanges live p.local_ ∧ (p.build (viewed live.mem p.reads) (viewed live.mem p.own)).2 = 0) := by
  unfold freeRanges; exact ⟨_, rfl, by decide +kernel⟩

/-- The update entry has begun. -/
def updating (b : Bool) : Dev := withShard (works opUpdate updateBlock 1 12 { unit0 with began := b })

theorem witness_update :
    (updating false).entryAt 12 = some (unit0, { issued opUpdate updateBlock 1 with next := 1 })
      ∧ ((updating false).engine 5 12).service = false ∧ (updating false).entryReady 0 (issued opUpdate updateBlock 1) 0 = true
      ∧ (updating true).shard? ((issued opUpdate updateBlock 1).handle 0) = some shard9
      ∧ (∀ a ∈ (issued opUpdate updateBlock 1).dests 0, (updating true).isOwn a = true)
      ∧ freeRanges (updating true) ((updating true).entryRanges 0 (issued opUpdate updateBlock 1) 0 shard9) := by
  unfold freeRanges; decide +kernel

/-- Context 0 has waited since 0 for an entry. -/
def stalled : Dev := live.modSlc 0 fun x => { x with slowSince := some 0 }

theorem witness_stall :
    (stalled.slc 0).slowSince = some 0 ∧ stalled.upd.limitMs ≠ 0 ∧ (stalled.slc 0).stallReported = false
      ∧ 0 + msNs stalled.upd.limitMs < (later 10000001 stalled).now := by decide +kernel

/-! ### The cistern -/

/-- The cistern is READY and has an entry of ring 3 to write. -/
def stocked : Dev := { live with cis := { live.cis with state := cisReady } }
def journalling : Dev := { stocked with cis := { stocked.cis with queue := [(3, [1, 2])] } }

/-- The shard's payload and descriptor, and a checkpoint of step 4 that holds it. -/
def payload9 : List Byte := List.replicate (shard9.payloadLen 0) 0
def stored9 : CkptShard := { handle := 9, descriptor := shard9.descriptor 0 0 4 (sha384 payload9), payload := payload9 }
def ckpt4 : Ckpt :=
  { owner := live.owner 0, step := 4, record := List.replicate 48 0 ++ sha384 [], table := [], shards := [stored9] }

/-- A checkpoint of context 0 runs in a phase, with the shard's slot 0 left. -/
def capturing (phase : Nat) : Dev :=
  let d := withShard stocked
  { d with cis := { d.cis with runs := d.cis.runs.set 0 (some { phase := phase, buf := lpBase + 0x100000, bufLen := 65536, left := [(9, 0)], ckpt := { ckpt4 with shards := [] } }) } }

theorem witness_journal :
    journalling.clk.refLost = false ∧ journalling.cis.state = cisReady ∧ journalling.cis.queue = (3, [1, 2]) :: [] ∧ stocked.cis.queue = [] := by
  decide +kernel

theorem witness_capture :
    (∃ r, (capturing 2).cis.runs[(0 : Fin 16)] = some r ∧ r.left.head? = some (9, 0) ∧ r.phase = 2 ∧ r.copied = [])
      ∧ (capturing 2).shard? 9 = some shard9 ∧ freeRanges (capturing 2) [(shard9.slotBase 0, shard9.slotSize)]
      ∧ (capturing 1).flashFull 0 (128 + payload9.length) = false
      ∧ freeRanges (capturing 1) [(lpBase + 0x100000, 128 + payload9.length)] := by
  unfold freeRanges; exact ⟨⟨_, rfl, by decide +kernel⟩, by decide +kernel⟩

theorem witness_payload : ((capturing 2).readPayload shard9 0).2.toOption = some payload9 := by decide +kernel

theorem witness_scrub :
    stocked.cis.days ≠ 0 ∧ stocked.cis.state ≠ 0 ∧ (later (7 * 86400 * 1000000000) stocked).passed 0 (stocked.cis.days * 86400 * 1000000000) = true := by
  decide +kernel

/-- Context 0 of an OPEN state at epoch 4 with the shard, and the checkpoint in the cistern. -/
def opened4 : Dev :=
  let d := (withCtx (withShard stocked) 0 { running with state := .opened }).modSlc 0 fun x => { x with epoch := 4 }
  { d with cis := { d.cis with ckpts := [ckpt4] } }

theorem witness_cistern_commands :
    takes opened4 0xC200 (pay 4 []) ∧ takes opened4 0xC201 (pay 4 [(0, 4, 1)]) ∧ takes opened4 0xC202 (pay 24 [])
      ∧ takes opened4 0xC203 (pay 24 []) ∧ takes opened4 0xC204 (pay 16 [(8, 8, 4)]) ∧ takes opened4 0xC205 (pay 40 [(8, 8, 4), (24, 8, lpBase + 4096), (32, 8, 4096)])
      ∧ takes opened4 0xC206 (pay 24 [(4, 4, 1), (16, 8, lpBase)]) ∧ opened4.cis.runs[(0 : Fin 16)] = none ∧ (opened4.slc 0).epoch ≠ noStep
      ∧ opened4.shardsOf 0 ≠ [] ∧ (∀ e ∈ opened4.shardsOf 0, e.2.state ≠ .unseeded ∧ e.2.lost = false)
      ∧ ownerOkPayload (pay 16 [(8, 8, 4)]) = true ∧ opened4.ckpt? (opened4.ownerOf (pay 16 [(8, 8, 4)])) 4 = some ckpt4
      ∧ fidOf (fieldAt (pay 24 []) 8 8) = 0 ∧ fidOf (fieldAt (pay 24 [(4, 4, 1), (16, 8, lpBase)]) 16 8) = 0 ∧ opened4.clk.refLost = false
      ∧ opened4.cis.state ≠ 0 ∧ opened4.mem.marked lpBase 8192 = false
      ∧ ckpt4.shards[0]? = some stored9 ∧ freeRanges opened4 [(lpBase, 8192)] ∧ opened4.rangeStatus lpBase 8192 = stOk := by
  unfold takes freeRanges; decide +kernel

theorem witness_fetch_digest :
    sha384 stored9.payload = (stored9.descriptor.drop 80).take 48
      ∧ sha384 [1] ≠ (({ stored9 with payload := [1] } : CkptShard).descriptor.drop 80).take 48 := by decide +kernel

/-- ROLLBACK of context 0 to step 4. -/
theorem witness_rollback :
    takes opened4 0xC082 (pay 16 [(8, 8, 4)]) ∧ (opened4.ctx 0).state = .opened ∧ (opened4.slc 0).stepState = .idle ∧ cisReady ≤ opened4.cis.state
      ∧ opened4.shardsOf 0 = [(9, shard9)]
      ∧ (∃ g, ckpt4.match? shard9 = some stored9 ∧ descriptorOf stored9.descriptor = some g
        ∧ opened4.checkSource 0 9 false { shard9 with state := .unseeded, outBoxes := [] } g = stOk ∧ g.set = 0 ∧ g.len = stored9.payload.length)
      ∧ ckpt4.verified [stored9] = true := by
  unfold takes; exact ⟨by decide +kernel, by decide +kernel, by decide +kernel, by decide +kernel, by decide +kernel, ⟨_, by decide +kernel, rfl, by decide +kernel⟩, by decide +kernel⟩

/-! ### The sluice and the end of a context's work -/

/-- Context 0 in a ring of `n` members at an index and a step state, with its staged shard; it became ready at 0. -/
def ring (n index : Nat) (st : StepState) : Dev :=
  let d := withShard (withCtx live 0 { running with steps := [{ step := 3, outer := false, beginIndex := 0, beginSeq := 0, endIndex := some 1 }] })
  let d := d.modSlc 0 fun x => { x with
    isSet := true, count := n, index := index, members := [5, 6, 7], step := 3, epoch := 2, stepState := st, stepEnded := true
    readyAt := if st = .active then none else some 0 }
  { d with upd := { d.upd with shards := [(9, { shard9 with state := .staged, step := 2, live := 1 })] } }

/-- A message of the ring for attempt 0 of step 3, from member 2. -/
def told (commit : Bool) (votes : Nat) : SluiceMsg :=
  { commit := commit, overflow := false, kind := false, byDeputy := false, cause := 0, status := 0, tag := 0, check := 0, step := 3
    attempt := 0, sender := 2, votes := votes, abortBy := 2, lsS := 15, lsWarm := true, lsClean := 1, time := 0, map := [], src := 7 }

theorem witness_ready_mark :
    (ring 1 0 .active).readyOk 0 = true ∧ (ring 3 1 .active).readyOk 0 = true ∧ (ring 3 0 .idle).readyOk 0 = false
      ∧ ((ring 3 0 .active).slc 0).index = 0 ∧ 1 < ((ring 3 0 .active).slc 0).count ∧ ((ring 1 0 .active).slc 0).proposal = none
      ∧ nothingWithheld (ring 1 0 .active) 0 ∧ ((ring 3 1 .active).slc 0).token = none
      ∧ ((ring 3 1 .active).slc 0).index ≠ 0 := by
  unfold nothingWithheld; decide +kernel

theorem witness_token :
    ((ring 3 1 .active).slc 0).accepts (told true 1) = true ∧ ((ring 3 1 .active).slc 0).when (told true 1) = .own
      ∧ ((ring 3 1 .active).slc 0).when { told true 1 with step := 2 } = .earlier
      ∧ ((ring 3 1 .active).slc 0).accepts { told true 1 with tag := 1 } = false ∧ votedReady (ring 3 1 .voted) 0
      ∧ (told true 3).votes = ((ring 3 0 .voted).slc 0).count
      ∧ (∀ t, ((ring 3 0 .voted).slc 0).readyAt = some t → t = 0) ∧ (ring 3 0 .voted).passed 0 (msNs ((ring 3 0 .voted).slc 0).voteNow) = false := by
  unfold votedReady; refine ⟨by decide +kernel, by decide +kernel, by decide +kernel, by decide +kernel, by decide +kernel, by decide +kernel, ?_, by decide +kernel⟩
  intro t h; exact (Option.some.inj h).symm

theorem witness_later_token :
    ((ring 3 1 .active).slc 0).when { told true 1 with step := 4 } = .later ∧ ((ring 3 1 .active).slc 0).accepts { told true 1 with step := 4 } = true
      ∧ ((ring 3 1 .repeatWait).slc 0).when (told true 1) = .own ∧ ((ring 3 1 .repeatWait).slc 0).stepState = .repeatWait
      ∧ ((ring 3 0 .voted).slc 0).proposal = none ∧ 1 < ((ring 3 0 .voted).slc 0).count := by decide +kernel

/-- The ring's context with a record of its attempt, and the warden with a proposal that waits. -/
def recorded (n index : Nat) : Dev := (ring n index .voted).modSlc 0 fun x => { x with records := [recordOf (told true 0)] }
def proposing : Dev := (ring 3 0 .voted).modSlc 0 fun x => { x with proposal := some (recordOf (told true 0)), deciding := true }

theorem witness_outcomes :
    ((recorded 3 1).slc 0).record? 3 0 = some (recordOf (told true 0)) ∧ ((ring 3 1 .voted).slc 0).record? 3 0 = none
      ∧ (proposing.slc 0).proposal = some (recordOf (told true 0)) ∧ (recordOf (told true 0)).step = (told true 0).step
      ∧ (told true 0).sender < ((ring 3 1 .voted).slc 0).count ∧ ¬ votedReady (ring 3 1 .active) 0 ∧ nothingWithheld (ring 3 2 .voted) 0
      ∧ votedReady (ring 3 2 .voted) 0 ∧ ((ring 3 1 .voted).slc 0).record? 2 0 = none ∧ ((ring 1 0 .voted).slc 0).count ≤ 1 := by
  unfold votedReady nothingWithheld; decide +kernel

/-- A member in doubt asks again at 0. -/
def doubting : Dev := (ring 3 2 .inDoubt).modSlc 0 fun x => { x with queryAt := some 0 }

theorem witness_timers :
    (later 100000000 (ring 3 2 .voted)).passed 0 (msNs ((ring 3 2 .voted).slc 0).voteNow) = true
      ∧ (later 99999999 (ring 3 2 .voted)).passed 0 (msNs ((ring 3 2 .voted).slc 0).voteNow) = false
      ∧ (doubting.slc 0).queryAt = some 0 ∧ (proposing.slc 0).decideAt ≤ proposing.now
      ∧ (later 200000000 (ring 3 1 .voted)).passed 0 (2 * msNs ((ring 3 1 .voted).slc 0).voteNow) = true := by decide +kernel

/-- A unit of context 0 runs on array 63 while its watchdog has counted 2 s. -/
def overdue : Dev := (works opArray arrayBlock 1 63 unit0).modCtx 0 fun x => { x with watchdogNs := 2000000000 }

theorem witness_watchdog :
    (overdue.ctx 0).watched = true ∧ overdue.hasUnit 0 = true ∧ msNs (overdue.ctx 0).watchdogMs ≤ (overdue.ctx 0).watchdogNs
      ∧ (1, 63) ∈ allEngines ∧ (overdue.engine 1 63).units.head? = some unit0
      ∧ ((overdue.ctx 0).eqTail - (overdue.ctx 0).eqHead).toNat + 2 ≤ 2 ^ (overdue.ctx 0).eqLog2
      ∧ overdue.clk.refLost = false ∧ overdue.clk.heldEvents = [] ∧ (overdue.ctx 0).eqLog2 ≤ 16
      ∧ overdue.inRemoved ((overdue.ctx 0).eqBase + 32 * (((overdue.ctx 0).eqTail + 1).toNat % 2 ^ (overdue.ctx 0).eqLog2)) 32 = false
      ∧ (∀ p ∈ allEngines, ∀ v ∈ (overdue.engine p.1 p.2).units, v = unit0) := by decide +kernel

/-- Context 0 drains with nothing left to run; its work is being removed, and a CTX_RESET waits for that. -/
def drained : Dev := oneCmd live { moveCmd with issued := false }
def removed : Dev :=
  let d := (oneCmd live { moveCmd with issued := true }).modCtx 0 fun x => { x with state := .faulted, removing := true }
  { d with mbx := { d.mbx with doorbell := true, resetting := some 0 } }

theorem witness_ends :
    ((drained.modCtx 0 fun x => { x with state := .draining }).ctx 0).working = false ∧ (drained.slc 0).stepState = .idle
      ∧ (removed.ctx 0).removing = true ∧ removed.unitsOf 0 = [] ∧ removed.underReplay 0 = false ∧ removed.mbx.resetting = some 0
      ∧ ((works opArray arrayBlock 1 63 unit0).ctx 0).working = true ∧ overdue.unitsOf 0 ≠ [] := by decide +kernel

/-! ### Reduction -/

/-- A REDUCE of 64 elements between devices 6 and 5, this one the second; DIRECT (0) or RING (1). Its SRC and region are in HBM3E. -/
def reduceBlock (form : Nat) : List Byte :=
  pay 64 [(0, 2, 1), (2, 1, form), (4, 4, 2), (8, 4, 1), (16, 8, 64), (24, 8, 0x10040010000), (32, 8, 0x10040020000), (40, 8, 0x1000), (48, 8, lpBase)]
def reduceCmd (form : Nat) : Cmd := { issued opReduce (reduceBlock form) 1 with lists := [6, 5], step := some 3 }

/-- Context 0 of the ring has issued the REDUCE; and it has the job open with some arrival bits set and all it sends delivered. -/
def toReduce (form : Nat) : Dev := (ring 2 1 .active).modCtx 0 fun x => { x with cmds := [reduceCmd form] }
def jobIs (form : Nat) (arrived : List Nat) (sent : Bool) : Dev :=
  let d := toReduce form
  let j := (reduceArgs (reduceBlock form)).map fun x => { d.jobOf 0 (reduceCmd form) x with
    slot := some 0, scanned := true, arrived := arrived, probe := false
    pieces := (d.jobOf 0 (reduceCmd form) x).pieces.map fun s => { s with started := true, delivered := sent } }
  { d with red := { d.red with jobs := j.toList, slots := d.red.slots.set 0 (some (0, 1)) } }

theorem witness_job_open :
    ((toReduce 0).ctx 0).cmd? 1 = some (reduceCmd 0) ∧ goingOn (reduceCmd 0) ∧ (∃ x, reduceArgs (reduceBlock 0) = some x ∧ x.job = 1)
      ∧ (List.range 64).find? (fun i => ((toReduce 0).red.slots.toList.getD i none).isNone) = some 0 ∧ (toReduce 0).job? 0 1 = none
      ∧ (toReduce 0).removedIn [(0x10040020000, 8192)] = false := by
  unfold goingOn; exact ⟨by decide +kernel, by decide +kernel, ⟨_, rfl, by decide +kernel⟩, by decide +kernel⟩

theorem witness_job_ends :
    (∃ j, (jobIs 0 [0, 1] true).jobOfCmd 0 1 = some j ∧ (jobIs 0 [0, 1] true).job? 0 j.job = some j ∧ j.complete = true ∧ j.delivered = true
        ∧ j.scanned = true ∧ j.probe = false)
      ∧ (∃ j, (jobIs 0 [1] true).jobOfCmd 0 1 = some j ∧ j.complete = false) := by
  exact ⟨⟨_, rfl, by decide +kernel⟩, ⟨_, rfl, by decide +kernel⟩⟩

theorem witness_deadline :
    (∃ x, reduceArgs (reduceBlock 0) = some x ∧ (later 20000000 (toReduce 0)).reduceDeadline 0 (reduceCmd 0) x ≤ (later 20000000 (toReduce 0)).now
        ∧ (later 19999999 (toReduce 0)).now < (later 19999999 (toReduce 0)).reduceDeadline 0 (reduceCmd 0) x)
      ∧ (reduceCmd 0).step ≠ none ∧ (reduceCmd 0).spec = false ∧ ((toReduce 0).slc 0).stepState = .active
      ∧ 1 < ((toReduce 0).slc 0).count ∧ ((toReduce 0).slc 0).index ≠ 0 := by
  exact ⟨⟨_, rfl, by decide +kernel⟩, by decide +kernel⟩

/-- An ACCUM packet with one block of zeros for piece 0 of chunk 1, from member 0; its step and attempt are as given. -/
def accum (form step attempt : Nat) : Packet :=
  let check := ((jobIs form [] true).red.jobs.head?.map fun j => j.check.toNat).getD 0
  { emptyPacket with
    type := .accum, dest := 5, src := 6, unit := 0, addr := 0x10040020000, spec := packFields [(0, 1), (28, 1)]
    data := pay 36 [(0, 8, step), (8, 4, attempt), (12, 8, check), (20, 8, 1), (28, 1, 1)] ++ List.replicate (36 * ceilDiv (wireBytes 1) 36) 0 }

theorem witness_accum :
    (accum 0 3 0).type = .accum ∧ (accum 0 3 0).dest = (jobIs 0 [1] true).fab.id ∧ (jobIs 0 [1] true).unitStatus (accum 0 3 0) = stOk
      ∧ (∃ j, (jobIs 0 [1] true).job? 0 1 = some j ∧ attemptLater 4 0 j.step j.attempt = true ∧ attemptLater j.step j.attempt 2 0 = true
        ∧ j.pieceBad (accum 0 3 0) 0 1 0 = false ∧ j.pieceAstray 0 1 = false
        ∧ (jobIs 0 [1] true).removedIn [(j.region, j.regionBytes)] = false ∧ j.arrived.contains (j.arrivalBit 0 1 0) = false) := by
  exact ⟨by decide +kernel, by decide +kernel, by decide +kernel, ⟨_, rfl, by decide +kernel⟩⟩

theorem witness_pieces_add :
    (addAll (wireBlocks [1] ((accum 0 3 0).data.drop 36)) (withResidue [⟨List.replicate 32 0, false, false⟩])).isSome = true
      ∧ (∃ j, (jobIs 1 [2] true).job? 0 1 = some j ∧ j.ring = true ∧ 0 < j.piecesIn 1 ∧ j.starter 1 ≠ j.index
        ∧ j.arrived.contains (j.arrivalBit 0 1 0) = true ∧ j.arrived.contains (j.arrivalBit 0 1 0 + 1) = false
        ∧ freeRanges (jobIs 1 [2] true) [(j.src, 4 * j.n), (j.region, j.regionBytes)]) := by
  unfold freeRanges; exact ⟨by decide +kernel, ⟨_, rfl, by decide +kernel⟩⟩

theorem witness_residues :
    residue [1, 2] = (3 + 2) % 8191 ∧ 3 ≠ 8191 ∧ residue [0, 0] = (8191 + 0) % 8191
      ∧ residue [1, 2] ≠ (3 + 3) % 8191 ∧ (∃ r, addBlocks (⟨[1, 1], false, false⟩, 3) (⟨[0, 1], false, true⟩, 2) = some r) := by
  exact ⟨by decide +kernel, by decide +kernel, by decide +kernel, by decide +kernel, ⟨_, rfl⟩⟩

/-! ### Stages and the turnout -/

/-- A receive on channel 4 waits; and the READY of the sender on device 6. -/
def recv4 : List Byte := pay 48 [(0, 8, lpBase), (16, 8, 32), (24, 4, 4), (28, 1, 1), (32, 4, 6)]
def recvCmd : Cmd := { issued opStage recv4 1 with step := some 3 }
def receiving : Dev := (ring 2 1 .active).modCtx 0 fun x => { x with cmds := [recvCmd] }
def ready4 (step : W64) : ReadyMsg :=
  { channel := 4, step := step, attempt := 0, bytes := 32, micro := 0, phase := 0, senderFid := 6, senderCtx := 0 }

theorem witness_ready_messages :
    ((receiving.slc 0).past (ready4 2) = true) ∧ (receiving.slc 0).past (ready4 3) = false ∧ (ready4 3).step = (receiving.slc 0).step
      ∧ attemptLater (ready4 4).step 0 (receiving.slc 0).step (receiving.slc 0).attempt = true ∧ (receiving.slc 0).past (ready4 4) = false
      ∧ (List.replicate 64 (ready4 3)).length = 64 ∧ receiving.readyTable 0 = [] ∧ goingOn recvCmd
      ∧ (∃ a, stageArgs recvCmd.args = some a ∧ a.receive = true ∧ readyMatches (ready4 3) a recvCmd (receiving.slc 0) = true ∧ (ready4 3).bytes = a.bytes) := by
  unfold goingOn; exact ⟨by decide +kernel, by decide +kernel, by decide +kernel, by decide +kernel, by decide +kernel, by decide +kernel, by decide +kernel,
    by decide +kernel, ⟨_, rfl, by decide +kernel⟩⟩

/-- Shard 9 is enrolled with one partner at another basin, which has a round to be sent and a delta of round 0. -/
def partner9 : Partner := { fid := 38, ctx := 1, handle := 3, recv := 38 * 2 ^ 44 + lpBase, sending := [0], deltas := [0], seen := [0] }
def enrol9 : Enrol := { handle := 9, ctx := 0, firstRound := 0, area := lpBase + 0x200000, partners := [partner9] }
def enrolled (p : Partner) : Dev :=
  let d := withShard live
  { d with
    trn := { d.trn with enrols := [{ enrol9 with partners := [p] }] }
    fab := { d.fab with enable := true, routes := [(1, 0x1001)] } }

/-- A WRITE of a delta that waits until 0; the partner's basin has no route, or one. -/
def parked (live? : Bool) : Dev :=
  let d := waits (.delta 9 0 0) { wr lpBase with dest := 38 } (some 0) 3 false
  if live? then { d with fab := { d.fab with enable := true, routes := [(1, 0x1001)] } } else d

theorem witness_parked :
    (parked true).judgeRemote 38 = stOk ∧ (parked false).judgeRemote 38 ≠ stOk
      ∧ ((parked true).fab.entries.find? fun q => q.1 == 3).isSome = true ∧ ({ enrolled partner9 with fab := live.fab }).judgeRemote 38 ≠ stOk := by
  decide +kernel

theorem witness_transmit :
    (enrolled partner9).enrol? 9 = some enrol9 ∧ (enrolled partner9).shard? 9 = some shard9 ∧ partner9.sending = 0 :: []
      ∧ (enrolled partner9).bufferFree 0 partner9 0 = true ∧ (enrolled partner9).deltaCuts shard9 partner9 0 = [(lpBase, 17)]
      ∧ (writePackets 38 0 lpBase (List.replicate 17 0)).length = 1 ∧ partner9.acked = [] ∧ (enrolled partner9).fab.entries = [] ∧ fidOf partner9.recv ≠ live.fab.id
      ∧ (enrolled partner9).judgeRemote (fidOf partner9.recv) = stOk ∧ (enrolled partner9).deltaSent shard9 { partner9 with acked := [lpBase] } 0 = true
      ∧ (enrolled partner9).enrol? 8 = none
      ∧ freeRanges (enrolled partner9) [(enrol9.plane shard9.size ((enrolled partner9).staleOf 0) 7, deltaBytes shard9.size)] := by
  unfold freeRanges; decide +kernel

/-- DONE and RELEASE of round 1 from the partner. -/
def turnout (kind : Nat) : Packet :=
  { emptyPacket with
    type := .msg, tc := 6, dest := 5, src := 38, spec := kind
    data := pay 36 [(0, 4, 1), (4, 4, 0), (8, 2, 9), (12, 8, shard9.coordCheck.toNat)] }

theorem witness_turnout :
    (enrolled partner9).fab.service.toList.getD 2 false = false ∧ ((enrolled partner9).peer 38).held = [] ∧ ((enrolled partner9).peer 38).expected = 0
      ∧ enrol9.partners.findIdx? (fun a => a.fid == 38) = some 0 ∧ 1 ∉ partner9.seen ∧ fieldAt ((turnout 1).data.take 36) 8 2 = 9
      ∧ ({ partner9 with sending := [] } : Partner).sending = [] ∧ bitsOf (turnout 2).spec 0 8 = 2 := by decide +kernel

/-- An issued APPLY of round 0 for shard 9 whose sites have all sent. -/
def applyCmd : Cmd := issued opOuter (pay 96 [(0, 4, 0), (4, 1, 1), (5, 2, 1), (64, 2, 9)]) 1
def applying : Dev :=
  let d := (enrolled partner9).modCtx 0 fun x => { x with cmds := [applyCmd] }
  { d with trn := { d.trn with enrols := [{ enrol9 with sendDone := true, sendAt := 5, deadlineMs := 9, sites := [0] }] } }

theorem witness_apply :
    applying.applyOf 9 = some (applyCmd, 0) ∧ (∃ e, applying.enrol? 9 = some e ∧ e.frozenSet.map (·.1) ≠ some 0 ∧ e.sendDone = true
      ∧ applying.mayFreeze e 0 = true ∧ applying.mayFreeze { e with partners := [{ partner9 with deltas := [] }] } 0 = false) :=
  ⟨by decide +kernel, ⟨_, rfl, by decide +kernel⟩⟩

/-! ### Mailbox commands on shards, the ring, the turnout, ports and adoption -/

/-- Context 0 is OPEN; SHARD_REGISTER of handle 9 as `shard9` is. -/
def open0 : Dev := withCtx live 0 { running with state := .opened }
def register : List Byte :=
  pay 88 [(1, 1, 2), (3, 1, 1), (4, 2, 9), (20, 4, 32), (48, 4, 32), (64, 8, lpBase), (72, 8, lpBase + 0x10000)]

theorem witness_register :
    takes open0 0xC040 register ∧ registerOkPayload register = true ∧ (open0.ctx 0).state = .opened ∧ open0.shard? 9 = none
      ∧ (shardOfPayload register).formOk = true ∧ open0.areaOk lpBase (shardOfPayload register).slotSize = true
      ∧ open0.areaOk (lpBase + 0x10000) (shardOfPayload register).slotSize = true ∧ unitOf lpBase = unitOf (lpBase + 0x10000)
      ∧ overlaps lpBase (shardOfPayload register).slotSize (lpBase + 0x10000) (shardOfPayload register).slotSize = false
      ∧ open0.upd.shards.length < 65536 := by
  unfold takes; decide +kernel

theorem witness_release :
    takes (withShard open0) 0xC041 (pay 4 [(2, 2, 9)]) ∧ takes (withShard open0) 0xC042 (pay 4 [(2, 2, 9)])
      ∧ (withShard open0).shard? (fieldAt (pay 4 [(2, 2, 9)]) 2 2) = some shard9 ∧ (withShard open0).enrol? 9 = none
      ∧ (withShard open0).exporting 9 = false ∧ (withShard open0).importing 9 = false ∧ shard9.state ≠ .staged := by
  unfold takes; decide +kernel

/-- RING_SET of two members, 6 and this device, whose list stands at `lpBase`. -/
def ringSet : List Byte := pay 32 [(4, 4, 2), (8, 4, 1), (12, 4, 77), (16, 8, lpBase), (24, 8, 3)]
def listed : Dev := { open0 with mem := open0.mem.store lpBase (pay 8 [(0, 4, 6), (4, 4, 5)]) }

theorem witness_ring_set :
    takes listed 0xC081 ringSet ∧ ringOkPayload ringSet = true ∧ listed.slowStatus lpBase 8 = stOk ∧ (listed.slc 0).stepState = .idle
      ∧ quiet listed lpBase 8 ∧ listed.membersOk 0 1 (memberList 2 (readCells listed.mem.cells lpBase 8)) = true
      ∧ ((ring 3 1 .active).slc 0).stepState ≠ .idle := by
  unfold takes quiet; decide +kernel

theorem witness_outcome_query :
    takes (ring 3 1 .active) 0xC080 (pay 16 [(8, 8, 3)]) ∧ ((ring 3 1 .active).slc 0).stepState ≠ .inDoubt
      ∧ ((ring 3 1 .active).slc 0).epoch ≠ noStep ∧ (2 : W64).toNat ≤ ((ring 3 1 .active).slc 0).epoch.toNat
      ∧ ((ring 3 1 .active).slc 0).epoch.toNat < (3 : W64).toNat ∧ (open0.slc 0).epoch = noStep
      ∧ takes (ring 3 1 .inDoubt) 0xC080 (pay 16 [(8, 8, 3)]) ∧ ((ring 3 1 .inDoubt).slc 0).stepState = .inDoubt
      ∧ ((ring 3 1 .inDoubt).slc 0).step = 3 ∧ ((ring 3 1 .idle).slc 0).stepState = .idle ∧ ((ring 3 1 .idle).slc 0).attempt = 0 := by
  unfold takes; decide +kernel

/-- TRN_ENROL of shard 9 with one partner at site 1. -/
def enrolment : List Byte :=
  pay 48 [(1, 1, 1), (2, 2, 9), (8, 8, lpBase + 0x200000), (16, 8, 0x100000), (32, 4, 2 ^ 17 + 38), (36, 2, 3), (40, 8, lpBase)]

theorem witness_enrol :
    takes (withShard open0) 0xC0C8 enrolment ∧ enrolOkPayload enrolment = true ∧ aligned shard9.cols 32 = true
      ∧ siteOf open0.fab.id ∉ (partnersOf enrolment).map (fun q => siteOf q.fid) ∧ ((partnersOf enrolment).map fun q => siteOf q.fid).Nodup
      ∧ (withShard open0).areaOk (lpBase + 0x200000) (areaBytes 32 1 (open0.staleOf 0)) = true ∧ unitOf (lpBase + 0x200000) = shard9.home
      ∧ (withShard open0).areaTaken (lpBase + 0x200000) (areaBytes 32 1 (open0.staleOf 0)) = false
      ∧ areaBytes 32 1 (open0.staleOf 0) ≤ 0x100000
      ∧ (∀ q ∈ partnersOf enrolment, (withShard open0).sideStatus false [(localOf q.recv, (open0.staleOf 0 + 1) * deltaPitch 32)] = stOk)
      ∧ freeRanges (withShard open0) [(shard9.liveBase, shard9.slotSize), (lpBase + 0x200000, areaBytes 32 1 (open0.staleOf 0))] := by
  unfold takes freeRanges; decide +kernel

theorem witness_withdraw :
    takes (enrolled partner9) 0xC0C9 (pay 4 [(2, 2, 9)]) ∧ enrol9.applyStaged = false ∧ enrol9.ctx = 0
      ∧ ({ enrol9 with applyStaged := true } : Enrol).applyStaged = true := by
  unfold takes; decide +kernel

theorem witness_retrain :
    takes (portIs .degraded) 0xC0C0 (pay 4 [(0, 1, 3)]) ∧ ((portIs .degraded).fab.ports[3]).state = .degraded
      ∧ ((portIs .degraded).fab.ports[3]).retrainPending = false ∧ (portIs .degraded).freeSlot = some 0
      ∧ ((portIs .down).fab.ports[3]).state = .down ∧ takes (portIs .training) 0xC0C0 (pay 4 [(0, 1, 3)])
      ∧ ((portIs .draining).fab.ports[3]).state = .draining ∧ ((portIs .training).fab.ports[3]).state = .training := by
  unfold takes; decide +kernel

/-- Zeros make an empty table, which is a good one; an entry of KIND 3 makes a bad one. -/
theorem witness_route_load :
    takes live 0xC0C1 (pay 8 [(0, 8, lpBase)]) ∧ live.slowStatus lpBase 16392 = stOk ∧ routesOk [(0, 3)] = false
      ∧ routesOk [(1, 1), (2, packFields [(0, 2), (48, 1)])] = true := by
  unfold takes; decide +kernel

theorem witness_empty_table (a n : Nat) : routesOk (routeEntries (readCells [] a n)) = true := by
  have h : readCells [] a n = List.replicate n 0#8 := by
    unfold readCells; simp [byteAt, List.map_const']
  have e : routeEntries (List.replicate n 0#8) = [] := by
    unfold routeEntries
    exact List.filterMap_eq_nil_iff.mpr fun m _ => by simp
  rw [h, e]; rfl

theorem witness_adopt :
    takes open0 0xC150 (pay 16 [(4, 4, 6)]) ∧ fieldAt (pay 16 [(4, 4, 6)]) 4 4 % 2 ^ 20 ≠ open0.fab.id := by
  unfold takes; decide +kernel

/-! ### Live service -/

/-- A block with a service request in slot 0. -/
def asked (op target : Nat) (d : Dev) : Dev :=
  { d with mbx := { d.mbx with slots := d.mbx.slots.set 0 { opcode := op, target := target, phase := 1, status := 0 } } }

/-- A calibration in which codes 5 (the fourth) and later pass; one in which none does. -/
def passing : CalResult := { pass := 0x3FF8, wrong := false }
def failing : CalResult := { pass := 0, wrong := false }

/-- Array 63 holds a unit that runs and one that waits. -/
def busyArray (d : Dev) : Dev :=
  (oneCmd d { issued opArray arrayBlock 2 with next := 2 }).modEngine 1 63 fun e => { e with units := [unit0, { unit0 with idx := 1 }] }

theorem witness_retirement :
    (asked 0xC010 63 live).serviceSlot 0xC010 63 = some 0 ∧ (asked 0xC010 63 live).serviceFor 0xC011 63 = false
      ∧ 1 < (asked 0xC010 63 live).goodArrays ∧ ((asked 0xC010 63 live).engine 1 63).replay = none
      ∧ (asked 0xC010 63 live).arrayGone 63 = false ∧ (asked 0xC010 63 live).mxa.draining ≠ some 63
      ∧ (asked 0xC010 63 live).mxa.judging.contains 63 = false ∧ (asked 0xC010 63 live).clk.refLost = false
      ∧ ((asked 0xC010 63 live).engine 1 63).units = [] ∧ ((asked 0xC010 63 live).engine 2 3).units = []
      ∧ (busyArray (asked 0xC010 63 live)).serviceSlot 0xC010 63 = some 0
      ∧ ((busyArray (asked 0xC010 63 live)).engine 1 63).units = [unit0, { unit0 with idx := 1 }] := by decide +kernel

/-- The last good array is array 63. -/
def oneArray : Dev := { live with mxa := { live.mxa with retired := 0x7FFFFFFFFFFFFFFF#64 } }

theorem witness_recalibration :
    (asked 0xC011 63 live).serviceSlot 0xC011 63 = some 0 ∧ (asked 0xC011 63 live).quadrantBusy 63 = false
      ∧ passing.pass.getLsbD 3 = true ∧ (∀ j, j < 3 → passing.pass.getLsbD j = false) ∧ (∀ j, j < 14 → failing.pass.getLsbD j = false)
      ∧ 1 < (asked 0xC011 63 live).goodArrays ∧ (asked 0xC011 63 oneArray).goodArrays = 1
      ∧ (asked 0xC011 63 oneArray).arrayGone 63 = false := by decide +kernel

/-- The turn has come to array 63, `h` hours after device reset. -/
def turnOf63 (h : Nat) (d : Dev) : Dev := later (h * 3600000000000) { d with mxa := { d.mxa with turn := 63 } }

theorem witness_periodic :
    (turnOf63 24 live).mxa.draining = none ∧ (turnOf63 24 live).mxa.intervalH ≠ 0 ∧ (turnOf63 24 live).boot.arrays = true
      ∧ (turnOf63 24 live).goodArray 63 = true ∧ (turnOf63 24 live).quadrantBusy 63 = false
      ∧ (turnOf63 24 live).mxa.turnAt + (turnOf63 24 live).mxa.intervalH * 3600000000000 ≤ (turnOf63 24 live).now
      ∧ (turnOf63 23 live).now < (turnOf63 23 live).mxa.turnAt + (turnOf63 23 live).mxa.intervalH * 3600000000000
      ∧ (((turnOf63 24 live).modEngine 1 63 fun e => { e with service := true }).engine 1 63).service = true := by decide +kernel

theorem witness_pc_retirement :
    (asked 0xC012 (256 * 11 + 31) live).rsv.retiring = none
      ∧ (asked 0xC012 (256 * 11 + 31) live).serviceSlot 0xC012 (256 * 11 + 31) = some 0
      ∧ (∀ c, ((asked 0xC012 (256 * 11 + 31) live).ctx c).state = .running → (asked 0xC012 (256 * 11 + 31) live).stepOpen c = false)
      ∧ (asked 0xC012 (256 * 11 + 31) live).fab.stalled = [] ∧ ((asked 0xC012 (256 * 11 + 31) live).engine 5 11).units = [] ∧ cleanMemory (asked 0xC012 (256 * 11 + 31) live)
      ∧ live.rsv.windows[(11 : Fin 12)] < 4 ∧ ((ring 3 1 .active).ctx 0).state = .running ∧ (ring 3 1 .active).stepOpen 0 = true
      ∧ 0 < ((ring 3 1 .active).ctx 0).watchdogMs := by
  unfold cleanMemory; decide +kernel

theorem witness_reload :
    (asked 0xC148 (256 * 4 + 15) live).serviceSlot 0xC148 (256 * 4 + 15) = some 0
      ∧ ((asked 0xC148 (256 * 4 + 15) live).engine 4 15).replay = none ∧ ((asked 0xC148 (256 * 4 + 15) live).engine 4 15).dead = false
      ∧ (asked 0xC148 (256 * 4 + 15) live).reloadingBeside 4 15 = false ∧ (asked 0xC148 (256 * 4 + 15) live).sec.activating ≠ some 4
      ∧ ((asked 0xC148 (256 * 4 + 15) live).engine 4 15).units = []
      ∧ ((asked 0xC148 (256 * 4 + 15) (works opMove (moveBlock 1) 1 15 unit0)).engine 4 15).units = [unit0] := by decide +kernel

/-- `h` hours after device reset the first granule of LPDDR5X, or the last of HBM3E stack 0's first row, holds the errors `q`. -/
def erring (h g : Nat) (q : List (Nat × Byte)) : Dev := later (h * 3600000000000) { live with mem := { live.mem with errs := [(g, q)] } }

theorem witness_patrol :
    (erring 24 (lpBase / 32) [(35, 1)]).clk.refLost = false ∧ tierOf (lpBase / 32) = some 2 ∧ tierOf (hbmBase / 32) = some 1 ∧ tierOf 5 = some 0
      ∧ (erring 24 (lpBase / 32) [(35, 1)]).inRemoved lpBase 32 = false
      ∧ (erring 24 (lpBase / 32) [(35, 1)]).mem.hard = [] ∧ (erring 24 (lpBase / 32) [(35, 1)]).mem.poison = []
      ∧ (erring 24 (lpBase / 32) [(35, 1)]).rsv.scrubbedAt[(2 : Fin 3)] + live.rsv.hours 2 * 3600000000000 ≤ (erring 24 0 []).now
      ∧ (erring 23 0 []).now < 24 * 3600000000000 ∧ live.rsv.hours 2 = 24 ∧ live.rsv.hours 0 = 1
      ∧ furrowDecode ((erring 24 (lpBase / 32) [(0, 1), (35, 1)]).mem.pattern (lpBase / 32)) = .uncorrectable
      ∧ live.boot.rsvStack < 12 ∧ ∀ c, (live.ctx c).state = .closed := by decide +kernel

theorem witness_core :
    (ring 3 1 .active).stepOpen 0 = true ∧ ((ring 3 1 .active).ctx 0).state ≠ .closed ∧ ((ring 3 1 .active).ctx 0).state ≠ .faulted
      ∧ (asked 0xC011 63 live).link.waiting = [] ∧ (asked 0xC011 63 live).fab.stalled = [] ∧ (asked 0xC011 63 live).ldg.running = none
      ∧ ((asked 0xC011 63 live).mbx.slots[(0 : Fin 8)]).phase = 1 := by decide +kernel

/-- Array 63 has run unit 0 for 1 ms without moving a granule. -/
def stuck : Dev := works opArray arrayBlock 1 63 { unit0 with still := 1000000 }
/-- Controller 12 has run an update entry, begun, for 1 ms. -/
def stuckUpdate : Dev := (updating true).modEngine 5 12 fun e => { e with units := [{ unit0 with began := true, still := 1000000 }] }
/-- Array 63 replays context 0, alone or with another suspect to come. -/
def replaying (rest : List (Fin 16)) (u : List UnitRef) : Dev :=
  (works opArray arrayBlock 1 63 unit0).modEngine 1 63 fun e =>
    { e with units := u, service := true, replay := some { current := some 0, suspects := rest } }

theorem witness_hang :
    (stuck.engine 1 63).replay = none ∧ stuck.hung 1 63 = true ∧ live.hung 1 63 = false ∧ (stuckUpdate.engine 5 12).replay = none
      ∧ stuckUpdate.hung 5 12 = true ∧ ((replaying [1] [unit0]).engine 1 63).replay = some { current := some 0, suspects := [1] }
      ∧ ((replaying [1] [{ unit0 with still := 1000000 }]).ctx 0).watched = true
      ∧ (replaying [1] [{ unit0 with still := 1000000 }]).hung 1 63 = true
      ∧ (works opArray arrayBlock 1 63 { unit0 with still := 999999 }).hung 1 63 = false
      ∧ ((replaying [1] [unit0]).ctx 0).state ≠ .closed ∧ 63 < instances 1 ∧ 15 < instances 5
      ∧ (Dev.runHeld ((replaying [] []).engine 1 63).units.length 1 63 (replaying [] [])).engine 1 63 = (replaying [] []).engine 1 63
      ∧ ((replaying [] []).replayOf 1 63).suspects = [] ∧ ((replaying [] []).engine 1 63).replay ≠ none
      ∧ (live.replayOf 1 63).current = none := by decide +kernel

/-! ### Registers, events and the ledger -/

theorem witness_access :
    0x400061 % (32 / 8) ≠ 0 ∧ (live.readBar0 0x400060).1 = 32 ∧ (live.readBar0 0x200008).1 = 64 ∧ (live.readMbx (0x11000 - 0x11000)).1 ≠ 16
      ∧ (live.readBar0 0x2800000).1 = 0 ∧ (live.readBar0 0x3FFFFFC).1 = 0 ∧ (live.readBar0 0x4000C4).1 = 0 := by decide +kernel

theorem witness_fields :
    ({ live with mbx := { live.mbx with doorbell := true } } : Dev).mbx.doorbell = true ∧ live.fab.enable = false
      ∧ ({ live with fab := { live.fab with enable := true } } : Dev).fab.enable = true := by decide +kernel

/-- A RUNNING context 15 whose queue of 16 has had 16 events and lost none, and holds `n` of them. -/
def eventful (n : W32) : Dev := withCtx live 15 { running with eqLog2 := 4, eqTail := 16, eqHead := 16 - n, irq := true }

theorem witness_events :
    ((eventful 16).ctx 15).state ≠ .closed ∧ (eventful 16).clk.refLost = false
      ∧ (eventful 15).clk.heldEvents = [] ∧ (eventful 15).inRemoved (0x10040001000 + 32 * (((eventful 15).ctx 15).eqTail.toNat % 16)) 32 = false
      ∧ (eventful 15).clk.heldEvents = [] ∧ (eventful 15).inRemoved (0x10040001000 + 32 * (((eventful 15).ctx 15).eqTail.toNat % 16)) 32 = false
      ∧ 16 ≤ (((eventful 16).ctx 15).eqTail - ((eventful 16).ctx 15).eqHead).toNat
      ∧ (((eventful 15).ctx 15).eqTail - ((eventful 15).ctx 15).eqHead).toNat < 2 ^ ((eventful 15).ctx 15).eqLog2 := by decide +kernel

/-- Two records are held, and both are to be copied to LPDDR5X. -/
def copying : Dev := { live with ldg := { live.ldg with next := 2, dst := lpBase, records := [(0, List.replicate 256 3), (1, List.replicate 256 4)] } }

theorem witness_copy :
    bitOf (0x20002#32).toNat 17 = true ∧ bitsOf (0x20002#32).toNat 0 17 = 2 ∧ copying.ldg.running = none ∧ aligned copying.ldg.dst 256 = true
      ∧ copying.slowStatus copying.ldg.dst 512 = stOk ∧ cleanMemory copying ∧ (∀ e ∈ copying.ldg.records, e.2.length = 256)
      ∧ (∀ k, k < 2 → (copying.ldg.first + k) % 65536 ≠ copying.ldg.next % 65536)
      ∧ freeRanges copying [(copying.ldg.dst, 512), (copying.reservedBase, 256 * 65536)] := by
  unfold cleanMemory freeRanges; decide +kernel

theorem witness_max : isNan 0x7FC00000#32 = true ∧ isNan 0xFF800001#32 = true := by decide +kernel

/-! ### What the opcodes ask of their arguments -/

/-- An issued command of an opcode with its block, in a step or outside one; and a block with the step of `ring`. -/
def asks (op : Nat) (bs : List Byte) (step : Option W64) : Cmd := { issued op bs 1 with step := step }
def inStep (d : Dev) : Dev := { d with ctxs := (ring 2 1 .active).ctxs, slcs := (ring 2 1 .active).slcs }

/-- The members of the REDUCE stand at `lpBase`, and there is a route to device 6. -/
def reducing : Dev :=
  { toReduce 0 with
    mem := (toReduce 0).mem.store lpBase (pay 8 [(0, 4, 6), (4, 4, 5)])
    fab := { (toReduce 0).fab with enable := true, routes := [(0, 0x1001)] } }

theorem witness_judge_reduce :
    ∃ x, reduceArgs (reduceBlock 0) = some x ∧ reducing.checkReduce 0 { asks opReduce (reduceBlock 0) (some 3) with lists := [6, 5] } x = stOk
      ∧ reducing.slowStatus lpBase 8 = stOk ∧ quiet reducing lpBase 8 := by
  unfold quiet; exact ⟨_, rfl, by decide +kernel⟩

theorem witness_judge_vector : ∃ x, vecArgs negBlock = some x ∧ (live.checkVector x (live.ctx 0).mode).2 = stOk :=
  ⟨_, rfl, by decide +kernel⟩

theorem witness_judge_update :
    (inStep (withShard live)).checkUpdate 0 (asks opUpdate updateBlock (some 3)) = stOk
      ∧ (∀ i < (asks opUpdate updateBlock (some 3)).entries, (asks opUpdate updateBlock (some 3)).ndest i = 0)
      ∧ (inStep (withShard live)).checkDests (asks opUpdate updateBlock (some 3)) = stOk := by decide +kernel

/-- SHARD_EXPORT of shard 9 to `lpBase + 0x100000`, and SHARD_IMPORT from there into an UNSEEDED one. -/
def exportBlock : List Byte := pay 32 [(0, 2, 9), (8, 8, (5 <<< 44) + lpBase + 0x100000), (16, 8, 4096)]
def importBlock : List Byte := pay 32 [(0, 2, 9), (8, 8, (5 <<< 44) + lpBase + 0x100000)]
def toImport : Dev :=
  { live with
    upd := { live.upd with shards := [(9, { shard9 with state := .unseeded })] }
    mem := (live.mem.store (lpBase + 0x100000) stored9.descriptor).store (lpBase + 0x100080) payload9 }

theorem witness_judge_shards :
    (∃ x, exportArgs exportBlock = some x ∧ (withShard live).checkExport 0 x = stOk)
      ∧ (importArgs importBlock).isSome = true
      ∧ ((descriptorOf (readCells toImport.mem.cells (lpBase + 0x100000) 128)).map fun g =>
          (toImport.checkSource 0 9 false { shard9 with state := .unseeded } g, g.len,
            g.digest == sha384 (readCells toImport.mem.cells (lpBase + 0x100080) 160),
            evdRefused g (readCells toImport.mem.cells (lpBase + 0x100080) 160))) = some (stOk, 160, true, false)
      ∧ quiet toImport (lpBase + 0x100000) 128 ∧ quiet toImport (lpBase + 0x100080) 160 := by
  unfold quiet; exact ⟨⟨_, rfl, by decide +kernel⟩, by decide +kernel⟩

/-- SIPHON_LOAD of one saved row of 32 bytes by mode COPY, saved in this step; SEND of 32 bytes to device 38; a SEND of round 0. -/
def loadBlock : List Byte := pay 48 [(0, 8, lpBase), (8, 8, 0), (16, 4, 1), (20, 4, 32)]
def saved : Dev := { inStep live with mem := live.mem.store lpBase (pay 64 [(8, 8, 3), (20, 4, 1), (24, 4, 32)]) }
def sendBlock38 : List Byte := pay 48 [(0, 8, lpBase), (8, 8, 38 * 2 ^ 44 + lpBase), (16, 8, 32)]
def outerSend : List Byte := pay 96 [(0, 4, 0), (5, 2, 1), (8, 8, 2), (64, 2, 9)]
def sending : Dev := (enrolled partner9).modSlc 0 fun x => { x with epoch := 2 }

theorem witness_judge_siphon :
    ∃ x, siphonArgs true loadBlock = some x ∧ inReservoir x.dst x.outBytes = true ∧ fidOf x.src = 0 ∧ x.out ≠ 3 ∧ quiet saved x.src 64
      ∧ saved.slowStatus x.src (64 + x.recordBytes) = stOk
      ∧ saved.headerFault 0 (asks opLoad loadBlock (some 3)) x (readCells saved.mem.cells x.src 64) = 0 := by
  unfold quiet; exact ⟨_, rfl, by decide +kernel⟩

theorem witness_judge_send :
    (∃ x, stageArgs sendBlock38 = some x ∧ x.receive = false ∧ (enrolled partner9).rangeStatus x.loc x.bytes = stOk
        ∧ (enrolled partner9).sideStatus ((enrolled partner9).isOwn x.remote) [(localOf x.remote, x.bytes)] = stOk
        ∧ (enrolled partner9).judgeRemote (fidOf x.remote) = stOk)
      ∧ sending.checkOuter 0 (asks opOuter outerSend none) = stOk ∧ (outerHead outerSend).apply = false :=
  ⟨⟨_, rfl, by decide +kernel⟩, by decide +kernel⟩

/-- A command runs; `step` gives a next state. -/
theorem witness_step : ∃ t, step (st live) = .next t := ⟨_, rfl⟩

/-! ### WellFormed refuses an ill-formed term for each of its checks -/

/-- Packets, sluice messages and READY messages that are well formed. -/
def goodPacket (t : PacketType) : Packet := resp t
def goodMsg : SluiceMsg := told true 1
def goodReady : ReadyMsg := ready4 3

theorem test_well_formed_accepts :
    wellFormed (.readResp (goodPacket .readResp)) = true ∧ wellFormed (.token 0 goodMsg) = true ∧ wellFormed (.ready 3 goodReady) = true
      ∧ wellFormed (.registerWrite 4 0x1FFFC 32 0) = true ∧ wellFormed (.isolatedReplay 4 15 true true passing) = true
      ∧ wellFormed (.fwWrite (List.replicate 4092 0)) = true := by decide +kernel

theorem test_payload_too_long :
    wellFormed (.ctxCreate (List.replicate 4097 0)) = false ∧ wellFormed (.ctxAdopt (List.replicate 4097 0) .silent) = false
      ∧ wellFormed (.unassignedVendorOpcode 0xC0FF (List.replicate 4097 0)) = false
      ∧ wellFormed (.unsupportedStandardOpcode 0x4400 (List.replicate 4097 0)) = false
      ∧ wellFormed (.signRecord (List.replicate 257 0)) = false ∧ wellFormed (.fwWrite (List.replicate 4093 0)) = false := by
  decide +kernel

theorem test_register_operands :
    wellFormed (.registerWrite 0 0x4000000 32 0) = false ∧ wellFormed (.registerWrite 0 0 16 0) = false
      ∧ wellFormed (.registerWrite 1 0 32 0) = false ∧ wellFormed (.registerWrite 2 0x10000 32 0) = false
      ∧ wellFormed (.registerWrite 4 0x20000 32 0) = false := by decide +kernel

theorem test_instances :
    wellFormed (.engineHang 0 0) = false ∧ wellFormed (.engineHang 1 64) = false ∧ wellFormed (.engineHang 2 4) = false
      ∧ wellFormed (.engineHang 3 16) = false ∧ wellFormed (.engineHang 5 16) = false ∧ wellFormed (.engineHang 6 0) = false
      ∧ wellFormed (.isolatedReplay 5 0 true true passing) = false ∧ wellFormed (.microcodeReload 1 0) = false
      ∧ wellFormed (.unitDispatch 0 1 64) = false ∧ wellFormed (.patrolScrub 0 [⟨0, [(36, 1)], false⟩]) = false := by decide +kernel

theorem test_packet_fields :
    wellFormed (.read (goodPacket .readResp)) = false
      ∧ ([{ goodPacket .readResp with tc := 8 }, { goodPacket .readResp with hop := 8 }, { goodPacket .readResp with unit := 256 },
          { goodPacket .readResp with gen := 256 }, { goodPacket .readResp with dest := 2 ^ 20 }, { goodPacket .readResp with destCtx := 16 },
          { goodPacket .readResp with src := 2 ^ 20 }, { goodPacket .readResp with tag := 2 ^ 16 },
          { goodPacket .readResp with useCount := 256 }, { goodPacket .readResp with addr := 2 ^ 44 },
          { goodPacket .readResp with addr := 31 }, { goodPacket .readResp with len := 129 }, { goodPacket .readResp with status := 14 },
          { goodPacket .readResp with inc := 2 ^ 16 }, { goodPacket .readResp with via := 2 ^ 12 },
          { goodPacket .readResp with spec := 2 ^ 64 }, { goodPacket .readResp with data := [] }].all fun p =>
        !wellFormed (.readResp p)) = true
      ∧ wellFormed (.flitReceive 0 true (List.replicate 319 0)) = false ∧ wellFormed (.requestTimerExpiry 65536) = false
      ∧ wellFormed (.routeRewrite 2049) = false
      ∧ wellFormed (.hdmAccess { hRead lpBase with data := List.replicate 65 0, enable := List.replicate 65 true }) = false
      ∧ wellFormed (.hdmAccess { hRead lpBase with data := [1] }) = false := by decide +kernel

theorem test_message_fields :
    ([{ goodMsg with cause := 256 }, { goodMsg with status := 14 }, { goodMsg with sender := 65568 }, { goodMsg with lsS := 33 },
      { goodMsg with lsClean := 65536 }, { goodMsg with src := 2 ^ 20 }, { goodMsg with map := [(4096, 1)] },
      { goodMsg with map := [(0, 255)] }].all fun m => !wellFormed (.decide 0 m)) = true
      ∧ ([{ goodReady with bytes := 2 ^ 32 + 1 }, { goodReady with micro := 256 }, { goodReady with phase := 4 },
          { goodReady with senderFid := 2 ^ 20 }, { goodReady with senderCtx := 16 }].all fun m => !wellFormed (.ready 0 m)) = true := by
  decide +kernel

/-! ### Single steps, with values worked out from the rules -/

/-- FIPS 180-4's SHA-384 of the empty message begins 38b060a7. -/
theorem test_sha384_empty : (sha384 []).take 4 = [0x38, 0xb0, 0x60, 0xa7] := by decide +kernel

/-- The worked example of chapter 3: with d = -11 * 2^-20 the remainder of weight 0x3D24 falls to -11; from -121 the weight moves to
0x3D23 with remainder 124, and from there to 113. -/
theorem test_remainder_carries_small_updates :
    (applyUpdate .saturate 0x3D240000 0 (tallyOf 0xB7300000) 0).master.map (fun m => (m.w, m.r)) = some (0x3D240000, -11)
      ∧ (applyUpdate .saturate 0x3D240000 (-121) (tallyOf 0xB7300000) 0).master.map (fun m => (m.w, m.r)) = some (0x3D230000, 124)
      ∧ (applyUpdate .saturate 0x3D230000 124 (tallyOf 0xB7300000) 0).master.map (fun m => (m.w, m.r)) = some (0x3D230000, 113) := by
  decide +kernel

/-- The worked example at R103: a = w = (1, 2^-12, 2^-12, 2^-12, 0, ...) at 0x2000 and down the first column at 0x4000. -/
def denyrView : View :=
  writeCells (writeCells [] 0x2000 (pay 8 [(0, 2, 0x3F80), (2, 2, 0x3980), (4, 2, 0x3980), (6, 2, 0x3980)])) 0x4000
    (pay 256 [(0, 2, 0x3F80), (64, 2, 0x3980), (128, 2, 0x3980), (192, 2, 0x3980)])

theorem test_denyr_differs_from_bf16 :
    (arrayArgs (rowBlock 32)).map (fun x => (({ x with mode := .bf16 } : ArrayArgs).addBlock .saturate denyrView 0 0 0 0 none 0).bits)
        = some 0x3F800000
      ∧ (arrayArgs (rowBlock 32)).map (fun x => (({ x with mode := .denyr } : ArrayArgs).addBlock .denyr denyrView 0 0 0 0 none 0).bits)
        = some 0x3F800001 := by decide +kernel

/-- R8, R85: writing 1 to bit 3 of MXA_SAT_STATUS clears it and leaves bit 4. -/
theorem test_write_one_clears :
    (match exec (.registerWrite 0 0x400090 32 0x8) (st { live with mxa := { live.mxa with sat := 0x18 } }) with
      | .next t => t.dev.mxa.sat
      | _ => 0) = 0x10 := by decide +kernel

/-- R235: a command of the next step that has been read and waits does not keep a step from being ready; one of the step does. -/
def readAhead (i : W32) : Dev :=
  (ring 3 1 .active).modCtx 0 fun x => { x with
    steps := x.steps ++ [{ step := 4, outer := false, beginIndex := 2, beginSeq := 2 }]
    cmds := [{ inlineCmd opStepBegin [] with index := i }] }

theorem test_ready_with_the_next_step_read : (readAhead 2).readyOk 0 = true ∧ (readAhead 1).readyOk 0 = false := by decide +kernel

/-- R145, R146: one retirement blows the fuse of its pseudo-channel and removes one window of its stack. -/
theorem test_retirement_takes_a_window :
    (match exec (.pcRetirement 3 2) (st (asked 0xC012 (256 * 3 + 2) live)) with
      | .next t => (t.dev.rsv.retiredPc[(3 : Fin 12)], t.dev.rsv.windows[(3 : Fin 12)])
      | _ => (0, 0)) = (4#32, 1) := by decide +kernel

end Sys2Proof.Tests
end

section
/-! # Fuses stay blown (R3, R57, R145, R146, R435, R443)

What a fuse is to the model stands in seven fields of three records of the device. `Dev.fuses` gathers them. Almost every operation
of the model leaves them as they are: the first part says so once for each (`…_fuses`), in the order of the model's files, so
that `simp` carries the fuses through any composition of operations. The second part treats the few operations that blow a
fuse, and what calls them (`…_le`): there the fuses after are those before or more. -/

namespace Sys2Proof.Machine

open Sys2Proof

/-! ## Operations that leave the fuses as they are -/

/-- The fuses of the block: arrays disabled at test and retired, the mark (R3, R57); retired pseudo-channels and removed windows
(R145, R146); security versions and leaf epochs (R435, R440). -/
structure Fuses where
  testDisabled : BitVec 64
  retired : BitVec 64
  marked : Nat
  retiredPc : Vector (BitVec 32) 12
  windows : Vector Nat 12
  svnFuses : Nat
  epochFuses : Nat

/-- The fuses as the device's record holds them. -/
def Dev.fuses (d : Dev) : Fuses :=
  ⟨d.mxa.testDisabled, d.mxa.retired, d.mxa.marked, d.rsv.retiredPc, d.rsv.windows, d.sec.svnFuses, d.sec.epochFuses⟩

/-! With the next two lemmas `simp` takes the fuses out of a record update and, where the update names none, puts them together
again. Neither is proved by `rfl`: `simp` would then use it by unfolding alone, where the side condition of a later lemma needs
the rewriting. -/

@[simp] theorem Dev.fuses_mk (mem : Mem) (rsv : Rsv) (mxa : Mxa) (flm : Flm) (vxe clv : Vxe) (ctl : Ctl) (ctxs : Vector Ctx 16)
    (mbx : Mbx) (upd : Upd) (slcs : Vector Slc 16) (fab : Fab) (red : Red) (lat : Lats) (trn : Turnout) (sip : Sip) (ldg : Ldg)
    (hg : Hg) (clk : Clk) (boot : Boot) (sec : Sec) (link : Link) (cis : Cis) (meter : Meter) (out : List Output) (n k : Nat) :
    (Dev.mk mem rsv mxa flm vxe clv ctl ctxs mbx upd slcs fab red lat trn sip ldg hg clk boot sec link cis meter out n k).fuses
      = ⟨mxa.testDisabled, mxa.retired, mxa.marked, rsv.retiredPc, rsv.windows, sec.svnFuses, sec.epochFuses⟩ := by
  simp only [Dev.fuses]

@[simp] theorem Dev.fuses_eta (d : Dev) :
    Fuses.mk d.mxa.testDisabled d.mxa.retired d.mxa.marked d.rsv.retiredPc d.rsv.windows d.sec.svnFuses d.sec.epochFuses
      = d.fuses := by
  simp only [Dev.fuses]

@[simp] theorem Dev.fuses_ite (c : Prop) [Decidable c] (d e : Dev) :
    (if c then d else e).fuses = if c then d.fuses else e.fuses := apply_ite _ _ _ _

/-- The fuses of the device that an operation answers beside another result. -/
theorem fuses_of_eq {α : Type} {p : Dev × α} {e : Dev} {a : α} (h : p = (e, a)) : e.fuses = p.1.fuses := by rw [h]

@[simp] theorem foldl_fuses {α : Type} (f : Dev → α → Dev) (h : ∀ d a, (f d a).fuses = d.fuses) (l : List α) (d : Dev) :
    (l.foldl f d).fuses = d.fuses := by
  induction l generalizing d with
  | nil => rfl
  | cons a l ih => rw [List.foldl_cons, ih, h]

@[simp] theorem foldl_fst_fuses {α β : Type} (f : Dev × β → α → Dev × β) (h : ∀ d a, (f d a).1.fuses = d.1.fuses)
    (l : List α) (d : Dev × β) : (l.foldl f d).1.fuses = d.1.fuses := by
  induction l generalizing d with
  | nil => rfl
  | cons a l ih => rw [List.foldl_cons, ih, h]

theorem Dev.fuses_congr {d e : Dev} (hm : e.mxa = d.mxa) (hr : e.rsv = d.rsv) (hs : e.sec = d.sec) : e.fuses = d.fuses := by
  rw [Dev.fuses, hm, hr, hs, Dev.fuses]

/-- Placing events touches no fuse. -/
theorem EventsOnly.fuses {d e : Dev} (h : EventsOnly d e) : e.fuses = d.fuses := Dev.fuses_congr h.mxa h.rsv h.sec

section

variable (d : Dev)

/-! #### Shared operations (Machine/Ops.lean) -/

@[simp] theorem Dev.emit_fuses (o) : (d.emit o).fuses = d.fuses := Dev.fuses_congr (d.emit_mxa o) (d.emit_rsv o) (d.emit_sec o)

@[simp] theorem Dev.emitAll_fuses (os) : (d.emitAll os).fuses = d.fuses :=
  Dev.fuses_congr (d.emitAll_mxa os) (d.emitAll_rsv os) (d.emitAll_sec os)

@[simp] theorem Dev.modCtx_fuses (c f) : (d.modCtx c f).fuses = d.fuses :=
  Dev.fuses_congr (d.modCtx_mxa c f) (d.modCtx_rsv c f) (d.modCtx_sec c f)

@[simp] theorem Dev.modSlc_fuses (c f) : (d.modSlc c f).fuses = d.fuses :=
  Dev.fuses_congr (d.modSlc_mxa c f) (d.modSlc_rsv c f) (d.modSlc_sec c f)

@[simp] theorem Dev.modMeters_fuses (c f) : (d.modMeters c f).fuses = d.fuses :=
  Dev.fuses_congr (d.modMeters_mxa c f) (d.modMeters_rsv c f) (d.modMeters_sec c f)

@[simp] theorem Dev.setShard_fuses (h x) : (d.setShard h x).fuses = d.fuses :=
  Dev.fuses_congr (d.setShard_mxa h x) (d.setShard_rsv h x) (d.setShard_sec h x)

@[simp] theorem Dev.modShard_fuses (h f) : (d.modShard h f).fuses = d.fuses :=
  Dev.fuses_congr (d.modShard_mxa h f) (d.modShard_rsv h f) (d.modShard_sec h f)

@[simp] theorem Dev.modShards_fuses (p f) : (d.modShards p f).fuses = d.fuses :=
  Dev.fuses_congr (d.modShards_mxa p f) (d.modShards_rsv p f) (d.modShards_sec p f)

@[simp] theorem Dev.modPort_fuses (p f) : (d.modPort p f).fuses = d.fuses :=
  Dev.fuses_congr (d.modPort_mxa p f) (d.modPort_rsv p f) (d.modPort_sec p f)

@[simp] theorem Dev.modLat_fuses (p f) : (d.modLat p f).fuses = d.fuses :=
  Dev.fuses_congr (d.modLat_mxa p f) (d.modLat_rsv p f) (d.modLat_sec p f)

@[simp] theorem Dev.modTrn_fuses (c f) : (d.modTrn c f).fuses = d.fuses :=
  Dev.fuses_congr (d.modTrn_mxa c f) (d.modTrn_rsv c f) (d.modTrn_sec c f)

@[simp] theorem Dev.modEngine_fuses (cls inst f) : (d.modEngine cls inst f).fuses = d.fuses := by
  unfold Dev.modEngine
  split <;> simp

@[simp] theorem Dev.mapEngines_fuses (f) : (d.mapEngines f).fuses = d.fuses := by simp [Dev.mapEngines]
@[simp] theorem Dev.draw_fuses : d.draw.2.fuses = d.fuses := by simp [Dev.draw]
@[simp] theorem Dev.drawBytes_fuses (n) : (d.drawBytes n).2.fuses = d.fuses := by simp [Dev.drawBytes]

@[simp] theorem Dev.writeRecord_fuses (body) : (d.writeRecord body).fuses = d.fuses :=
  Dev.fuses_congr (d.writeRecord_mxa body) (d.writeRecord_rsv body) (d.writeRecord_sec body)

@[simp] theorem Dev.ledger_fuses (body) : (d.ledger body).fuses = d.fuses :=
  Dev.fuses_congr (d.ledger_mxa body) (d.ledger_rsv body) (d.ledger_sec body)

@[simp] theorem Dev.writeEvent_fuses (c e) : (d.writeEvent c e).fuses = d.fuses := (d.writeEvent_only c e).fuses

@[simp] theorem Dev.eventAt_fuses (c seq type status step detail) : (d.eventAt c seq type status step detail).fuses = d.fuses :=
  (d.eventAt_only c seq type status step detail).fuses

@[simp] theorem Dev.event_fuses (c seq type status detail) : (d.event c seq type status detail).fuses = d.fuses :=
  (d.event_only c seq type status detail).fuses

@[simp] theorem Dev.eventAll_fuses (type detail) : (d.eventAll type detail).fuses = d.fuses := (d.eventAll_only type detail).fuses

@[simp] theorem Dev.eventAllNoStep_fuses (type detail) : (d.eventAllNoStep type detail).fuses = d.fuses :=
  (d.eventAllNoStep_only type detail).fuses

@[simp] theorem Dev.ledgerEvent_fuses (c type step detail) : (d.ledgerEvent c type step detail).fuses = d.fuses := by
  simp [Dev.ledgerEvent]

@[simp] theorem Dev.deviceEvent_fuses (type detail) : (d.deviceEvent type detail).fuses = d.fuses := by simp [Dev.deviceEvent]

@[simp] theorem Dev.setStateWith_fuses (c st cause why) (h : ∀ d, (why d).fuses = d.fuses) :
    (d.setStateWith c st cause why).fuses = d.fuses := by
  simp [Dev.setStateWith, h]

@[simp] theorem Dev.setState_fuses (c st cause) : (d.setState c st cause).fuses = d.fuses := by simp [Dev.setState]
@[simp] theorem Dev.queueRetire_fuses (s pc) : (d.queueRetire s pc).fuses = d.fuses := by simp [Dev.queueRetire]
@[simp] theorem Dev.foundBad_fuses (src g) : (d.foundBad src g).fuses = d.fuses := by simp [Dev.foundBad]

@[simp] theorem Dev.readOnce_fuses (src g) : (d.readOnce src g).1.fuses = d.fuses := by
  simp only [Dev.readOnce]
  repeat' split
  all_goals simp

@[simp] theorem Dev.copyGranule_fuses (g) : (d.copyGranule g).fuses = d.fuses := by
  simp only [Dev.copyGranule]
  split <;> next e => simp [fuses_of_eq e]

@[simp] theorem Dev.moveGranules_fuses (sel) : (d.moveGranules sel).fuses = d.fuses := by simp [Dev.moveGranules]
@[simp] theorem Dev.moveRow_fuses (g) : (d.moveRow g).fuses = d.fuses := by simp [Dev.moveRow]

@[simp] theorem Dev.repair_fuses (g) : (d.repair g).fuses = d.fuses := by
  simp only [Dev.repair]
  split <;> simp

@[simp] theorem Dev.readGranule_fuses (src g) : (d.readGranule src g).1.fuses = d.fuses := by
  simp only [Dev.readGranule]
  repeat' split
  all_goals simp

@[simp] theorem Dev.readGranules_fuses (src gs) : (Dev.readGranules src gs d).1.fuses = d.fuses := by
  induction gs generalizing d with
  | nil => rfl
  | cons g r ih => grind [Dev.readGranules, !. Dev.readGranule_fuses]

@[simp] theorem Dev.readBytes_fuses (src a n) : (d.readBytes src a n).1.fuses = d.fuses := by
  grind [Dev.readBytes, !. Dev.readGranules_fuses]

@[simp] theorem Dev.writeGranule_fuses (a bs acc g) : (Dev.writeGranule a bs acc g).1.fuses = acc.1.fuses := by
  grind [Dev.writeGranule, !. Dev.readGranule_fuses, Dev.fuses]

@[simp] theorem Dev.writeBytes_fuses (a bs) : (d.writeBytes a bs).1.fuses = d.fuses := by
  unfold Dev.writeBytes
  split <;> simp

@[simp] theorem Dev.mergeGranule_fuses (src g bs enable) : (d.mergeGranule src g bs enable).1.fuses = d.fuses := by
  simp only [Dev.mergeGranule]
  split <;> next e => simp [fuses_of_eq e]

@[simp] theorem Dev.snoop_fuses (a n) : (d.snoop a n).1.fuses = d.fuses := by simp [Dev.snoop]
@[simp] theorem Dev.snoopAll_fuses (rs) : (d.snoopAll rs).1.fuses = d.fuses := by simp [Dev.snoopAll]

/-! #### Sending on the fabric (Machine/Send.lean) -/

@[simp] theorem Dev.sendFlit_fuses (n kind seq slots map) : (d.sendFlit n kind seq slots map).fuses = d.fuses := by
  simp [Dev.sendFlit]

@[simp] theorem Dev.sendIdle_fuses (n) : (d.sendIdle n).fuses = d.fuses := by simp [Dev.sendIdle]
@[simp] theorem Dev.sendCredits_fuses (n) : (d.sendCredits n).fuses = d.fuses := by simp [Dev.sendCredits]
@[simp] theorem Dev.sendAgain_fuses (n kind fs) : (d.sendAgain n kind fs).fuses = d.fuses := by simp [Dev.sendAgain]

@[simp] theorem Dev.freeBuffers_fuses (p) : (d.freeBuffers p).fuses = d.fuses := by
  simp only [Dev.freeBuffers]
  repeat' split
  all_goals simp

@[simp] theorem Dev.transmit_fuses (n p) : (d.transmit n p).fuses = d.fuses := by simp [Dev.transmit]

@[simp] theorem Dev.pumpN_fuses (k n) : (Dev.pumpN k n d).fuses = d.fuses := by
  induction k generalizing d with
  | zero => rfl
  | succ k ih =>
    unfold Dev.pumpN
    split <;> simp [ih]

@[simp] theorem Dev.pump_fuses (n) : (d.pump n).fuses = d.fuses := by simp [Dev.pump]

@[simp] theorem Dev.routePacket_fuses (p) : (d.routePacket p).fuses = d.fuses := by
  simp only [Dev.routePacket]
  repeat' split
  all_goals simp

@[simp] theorem Dev.rerouteWaiting_fuses : d.rerouteWaiting.fuses = d.fuses := by simp [Dev.rerouteWaiting]

@[simp] theorem Dev.adapt_fuses (p) : (d.adapt p).1.fuses = d.fuses := by
  simp only [Dev.adapt]
  repeat' split
  all_goals simp

@[simp] theorem Dev.learn_fuses (fid unit gen inc) : (d.learn fid unit gen inc).fuses = d.fuses := by simp [Dev.learn]

@[simp] theorem Dev.touch_fuses (fid unit) : (d.touch fid unit).fuses = d.fuses := by
  unfold Dev.touch
  split <;> simp

theorem Dev.request_fuses (owner p) {e} (h : d.request owner p = some e) : e.fuses = d.fuses := by
  grind [Dev.request, !. Dev.adapt_fuses, Dev.touch_fuses, Dev.routePacket_fuses, Dev.fuses_mk, Dev.fuses_eta]

@[simp] theorem Dev.request_getD_fuses (owner p) : ((d.request owner p).getD d).fuses = d.fuses := by
  cases h : d.request owner p with
  | none => rfl
  | some e => exact d.request_fuses _ _ h

theorem Dev.park_fuses (owner p until_ why) {e} (h : d.park owner p until_ why = some e) : e.fuses = d.fuses := by
  obtain ⟨i, -, rfl⟩ := Option.map_eq_some_iff.1 h
  rfl

@[simp] theorem Dev.park_getD_fuses (owner p t w) : ((d.park owner p t w).getD d).fuses = d.fuses := by
  cases h : d.park owner p t w with
  | none => rfl
  | some e => exact d.park_fuses _ _ _ _ h

@[simp] theorem Dev.reissue_fuses (i) : (d.reissue i).fuses = d.fuses := by
  unfold Dev.reissue
  split <;> simp

@[simp] theorem Dev.closeEntry_fuses (i) : (d.closeEntry i).fuses = d.fuses := by simp [Dev.closeEntry]

@[simp] theorem Dev.sendMsg_fuses (tc unit fid ctx spec bytes) : (d.sendMsg tc unit fid ctx spec bytes).fuses = d.fuses := by
  simp [Dev.sendMsg]

/-! #### Ring commands (Machine/Ring.lean) -/

@[simp] theorem Dev.modCmd_fuses (c seq f) : (d.modCmd c seq f).fuses = d.fuses := by simp [Dev.modCmd]
@[simp] theorem Dev.dropCmd_fuses (c seq) : (d.dropCmd c seq).fuses = d.fuses := by simp [Dev.dropCmd]
@[simp] theorem Dev.notify_fuses (c k status) : (d.notify c k status).fuses = d.fuses := by simp [Dev.notify]
@[simp] theorem Dev.feed_fuses (c) : (d.feed c).fuses = d.fuses := by simp [Dev.feed]
@[simp] theorem Dev.measure_fuses (c k f) : (d.measure c k f).fuses = d.fuses := by simp [Dev.measure]
@[simp] theorem Dev.holdIfQuiet_fuses (c) : (d.holdIfQuiet c).fuses = d.fuses := by simp [Dev.holdIfQuiet]

@[simp] theorem Dev.noteSlow_fuses (c) : (d.noteSlow c).fuses = d.fuses := by
  simp only [Dev.noteSlow]
  split <;> simp

@[simp] theorem Dev.finishCmd_fuses (c seq) : (d.finishCmd c seq).fuses = d.fuses := by
  unfold Dev.finishCmd
  split <;> simp

@[simp] theorem Dev.disown_fuses (p) : (d.disown p).fuses = d.fuses := by simp [Dev.disown]
@[simp] theorem Dev.removeUnits_fuses (c p) : (d.removeUnits c p).fuses = d.fuses := by simp [Dev.removeUnits]

/-! #### Free values (Machine/Geometry.lean) -/

@[simp] theorem Dev.leaveOpen_fuses (k) : (d.leaveOpen k).fuses = d.fuses := by simp [Dev.leaveOpen]
@[simp] theorem Dev.abortCmds_fuses (c p) : (d.abortCmds c p).fuses = d.fuses := by simp [Dev.abortCmds]

/-! #### The sluice (Machine/Sluice.lean) -/

@[simp] theorem Dev.sendMember_fuses (c i type m) : (d.sendMember c i type m).fuses = d.fuses := by simp [Dev.sendMember]
@[simp] theorem Dev.broadcast_fuses (c r) : (d.broadcast c r).fuses = d.fuses := by simp [Dev.broadcast]
@[simp] theorem Dev.query_fuses (c i) : (d.query c i).fuses = d.fuses := by simp [Dev.query]
@[simp] theorem Dev.keepRecord_fuses (c r) : (d.keepRecord c r).fuses = d.fuses := by simp [Dev.keepRecord]
@[simp] theorem Dev.purgeReady_fuses (c) : (d.purgeReady c).fuses = d.fuses := by simp [Dev.purgeReady]
@[simp] theorem Dev.closeJobs_fuses (c) : (d.closeJobs c).fuses = d.fuses := by simp [Dev.closeJobs]
@[simp] theorem Dev.removeStep_fuses (c) : (d.removeStep c).fuses = d.fuses := by simp [Dev.removeStep]
@[simp] theorem Dev.discardStaging_fuses (c) : (d.discardStaging c).fuses = d.fuses := by simp [Dev.discardStaging]
@[simp] theorem Dev.endWaits_fuses (c) : (d.endWaits c).fuses = d.fuses := by simp [Dev.endWaits]

@[simp] theorem Dev.holdEvents_fuses (c step floor ue) : (d.holdEvents c step floor ue).fuses = d.fuses := by
  simp only [Dev.holdEvents]
  split <;> simp

@[simp] theorem Dev.holdFor_fuses (c cause why) (h : ∀ d, (why d).fuses = d.fuses) : (d.holdFor c cause why).fuses = d.fuses := by
  simp [Dev.holdFor, h]

@[simp] theorem Dev.applyAbort_fuses (c r) : (d.applyAbort c r).fuses = d.fuses := by
  simp only [Dev.applyAbort]
  repeat' split
  all_goals simp

@[simp] theorem Dev.decideAbort_fuses (c cause status overflow abortBy) :
    (d.decideAbort c cause status overflow abortBy).fuses = d.fuses := by
  simp [Dev.decideAbort]

@[simp] theorem Dev.voteAbort_fuses (c cause status overflow) : (d.voteAbort c cause status overflow).fuses = d.fuses := by
  simp [Dev.voteAbort]

@[simp] theorem Dev.overflowFound_fuses (c) : (d.overflowFound c).fuses = d.fuses := by simp [Dev.overflowFound]
@[simp] theorem Dev.noteOverflow_fuses (c k) : (d.noteOverflow c k).fuses = d.fuses := by simp [Dev.noteOverflow]

@[simp] theorem Dev.refuse_fuses (c idx seq nextSeq op status inStep) :
    (d.refuse c idx seq nextSeq op status inStep).fuses = d.fuses := by
  simp [Dev.refuse]

@[simp] theorem Dev.refuseEntry_fuses (c i seq nextSeq op status) : (d.refuseEntry c i seq nextSeq op status).fuses = d.fuses := by
  simp only [Dev.refuseEntry]
  split <;> simp

@[simp] theorem Dev.refuseCmd_fuses (c k status) : (d.refuseCmd c k status).fuses = d.fuses := by simp [Dev.refuseCmd]

@[simp] theorem Dev.failCmd_fuses (c seq status) : (d.failCmd c seq status).fuses = d.fuses := by
  unfold Dev.failCmd
  split <;> simp

@[simp] theorem Dev.failUnit_fuses (c seq status addr) : (d.failUnit c seq status addr).fuses = d.fuses := by simp [Dev.failUnit]

@[simp] theorem Dev.settle_fuses (c seq) : (d.settle c seq).fuses = d.fuses := by
  simp only [Dev.settle]
  repeat' split
  all_goals simp

@[simp] theorem Dev.queueJournal_fuses (c r) : (d.queueJournal c r).fuses = d.fuses := by simp [Dev.queueJournal]
@[simp] theorem Dev.clearDry_fuses (c) : (d.clearDry c).fuses = d.fuses := by simp [Dev.clearDry]

@[simp] theorem Dev.turnoutMessage_fuses (p spec round check) : (d.turnoutMessage p spec round check).fuses = d.fuses := by
  simp [Dev.turnoutMessage]

@[simp] theorem Dev.modEnrol_fuses (h f) : (d.modEnrol h f).fuses = d.fuses := by simp [Dev.modEnrol]
@[simp] theorem Dev.abandon_fuses (c h k i p) : (d.abandon c h k i p).fuses = d.fuses := by simp [Dev.abandon]

@[simp] theorem Dev.turnoutCommit_fuses (c e) : (d.turnoutCommit c e).fuses = d.fuses := by
  unfold Dev.turnoutCommit
  split <;> simp

@[simp] theorem Dev.turnoutCommitAll_fuses (c) : (d.turnoutCommitAll c).fuses = d.fuses := by
  simp only [Dev.turnoutCommitAll]
  split <;> simp

@[simp] theorem Dev.voteRefused_fuses (c) : (d.voteRefused c).fuses = d.fuses := by
  simp only [Dev.voteRefused]
  repeat' split
  all_goals simp

@[simp] theorem Dev.clearWeir_fuses (c) : (d.clearWeir c).fuses = d.fuses := by simp [Dev.clearWeir]

@[simp] theorem Dev.adoptSpeculative_fuses (c) : (d.adoptSpeculative c).fuses = d.fuses := by
  unfold Dev.adoptSpeculative
  split <;> simp

@[simp] theorem Dev.releaseCmds_fuses (c refused) : (d.releaseCmds c refused).fuses = d.fuses := by
  refine foldl_fuses _ (fun d k => ?_) _ _
  split <;> simp

@[simp] theorem Dev.releaseEntry_fuses (c) : (d.releaseEntry c).fuses = d.fuses := by
  unfold Dev.releaseEntry
  split <;> simp

@[simp] theorem Dev.releaseWithheld_fuses (c) : (d.releaseWithheld c).fuses = d.fuses := by simp [Dev.releaseWithheld]

@[simp] theorem Dev.applyCommit_fuses (c r) : (d.applyCommit c r).fuses = d.fuses := by
  simp [Dev.applyCommit]
  repeat' split
  all_goals simp [*]

@[simp] theorem Dev.decideCommit_fuses (c req) : (d.decideCommit c req).fuses = d.fuses := by simp [Dev.decideCommit]
@[simp] theorem Dev.passToken_fuses (c m) : (d.passToken c m).fuses = d.fuses := by simp [Dev.passToken]
@[simp] theorem Dev.applyRecord_fuses (c r src) : (d.applyRecord c r src).fuses = d.fuses := by simp [Dev.applyRecord]

/-! #### Saturation flags (Machine/Flags.lean) -/

@[simp] theorem Dev.markSat_fuses (c src) : (d.markSat c src).fuses = d.fuses := by simp [Dev.markSat]
@[simp] theorem Dev.countSat_fuses (c k src n) : (d.countSat c k src n).fuses = d.fuses := by simp [Dev.countSat]

@[simp] theorem Dev.noteSat_fuses (c k src n fin) (h : ∀ d, (fin d).fuses = d.fuses) :
    (d.noteSat c k src n fin).fuses = d.fuses := by
  simp [Dev.noteSat, h]

@[simp] theorem Dev.noteSat_settle_fuses (c k src n seq) :
    (d.noteSat c k src n fun d => d.settle c seq).fuses = d.fuses :=
  d.noteSat_fuses _ _ _ _ _ fun d => d.settle_fuses _ _

@[simp] theorem Dev.noteReduceSat_fuses (c k n) : (d.noteReduceSat c k n).fuses = d.fuses := by simp [Dev.noteReduceSat]

@[simp] theorem Dev.noteUpdateOverflow_fuses (c k n) : (d.noteUpdateOverflow c k n).fuses = d.fuses := by
  simp [Dev.noteUpdateOverflow]

/-! #### Arrays and flumes (Machine/Arrays.lean) -/

@[simp] theorem Dev.readView_fuses (rs v) : (d.readView rs v).1.fuses = d.fuses := by
  induction rs generalizing d v with
  | nil => rfl
  | cons r rs ih => grind [Dev.readView, !. Dev.readBytes_fuses]

@[simp] theorem Dev.writeAll_fuses (ws) : (d.writeAll ws).1.fuses = d.fuses := by simp [Dev.writeAll]

@[simp] theorem Dev.writeUnit_fuses (c seq idx ws) : (d.writeUnit c seq idx ws).fuses = d.fuses := by
  simp only [Dev.writeUnit]
  split <;> next e => simp [fuses_of_eq e]

@[simp] theorem Dev.runArray_fuses (u) : (d.runArray u).fuses = d.fuses := by
  simp only [Dev.runArray]
  split
  · rfl
  split
  · rfl
  split <;> next heq => simp [fuses_of_eq heq]

@[simp] theorem Dev.runFlume_fuses (u) : (d.runFlume u).fuses = d.fuses := by
  simp only [Dev.runFlume]
  split
  · rfl
  split
  · rfl
  split <;> next heq => simp [fuses_of_eq heq]

@[simp] theorem Dev.popUnit_fuses (cls inst c) : (d.popUnit cls inst c).fuses = d.fuses := by simp [Dev.popUnit]
@[simp] theorem Dev.dropAccepted_fuses (cls inst u) : (d.dropAccepted cls inst u).fuses = d.fuses := by simp [Dev.dropAccepted]

@[simp] theorem Dev.completeUnit_fuses (cls inst run) (h : ∀ d u, (run d u).fuses = d.fuses) :
    (d.completeUnit cls inst run).fuses = d.fuses := by
  unfold Dev.completeUnit
  split <;> simp [h]

/-! #### Vector engines (Machine/Vector.lean) -/

@[simp] theorem Dev.checkVector_fuses (x mode) : (d.checkVector x mode).1.fuses = d.fuses := by
  simp only [Dev.checkVector]
  split
  · rfl
  split
  · rfl
  split <;> next e => simp [fuses_of_eq e]

@[simp] theorem Dev.runVector_fuses (u) : (d.runVector u).fuses = d.fuses := by
  simp only [Dev.runVector]
  split
  · rfl
  split
  · rfl
  split <;> next heq => simp [fuses_of_eq heq]

/-! #### Culverts (Machine/Culverts.lean) -/

@[simp] theorem Dev.accessBy_fuses (unit rs) : (d.accessBy unit rs).1.fuses = d.fuses := by
  unfold Dev.accessBy
  split <;> simp

@[simp] theorem Dev.access_fuses (rs) : (d.access rs).1.fuses = d.fuses := by simp [Dev.access]

@[simp] theorem Dev.issueMissing_fuses (owner have_ ps) : (d.issueMissing owner have_ ps).fuses = d.fuses := by
  refine foldl_fuses _ (fun d p => ?_) _ _
  simp

@[simp] theorem Dev.modPiece_fuses (c seq idx f) : (d.modPiece c seq idx f).fuses = d.fuses := by simp [Dev.modPiece]
@[simp] theorem Dev.dropPiece_fuses (c seq idx) : (d.dropPiece c seq idx).fuses = d.fuses := by simp [Dev.dropPiece]

@[simp] theorem Dev.failPiece_fuses (c seq idx status addr) : (d.failPiece c seq idx status addr).fuses = d.fuses := by
  simp [Dev.failPiece]

@[simp] theorem Dev.readPiece_fuses (p u) : (d.readPiece p u).1.fuses = d.fuses := by
  grind [Dev.readPiece, !. Dev.readView_fuses]

@[simp] theorem Dev.piecePackets_fuses (p u) : (d.piecePackets p u).1.fuses = d.fuses := by
  grind [Dev.piecePackets, !. Dev.readPiece_fuses, Dev.modPiece_fuses]

@[simp] theorem Dev.pushPiece_fuses (inst u p) : (d.pushPiece inst u p).fuses = d.fuses := by
  grind [Dev.pushPiece, Dev.failPiece_fuses, !. Dev.access_fuses, !. Dev.piecePackets_fuses, Dev.issueMissing_fuses]

@[simp] theorem Dev.endPiece_fuses (inst u) : (d.endPiece inst u).fuses = d.fuses := by simp [Dev.endPiece]

@[simp] theorem Dev.tryPiece_fuses (inst u k p finish) (h : ∀ d, (finish d).fuses = d.fuses) :
    (d.tryPiece inst u k p finish).fuses = d.fuses := by
  have hn := fun (e : Dev) n => e.noteSat_fuses u.ctx k satCulvert n finish h
  grind [Dev.tryPiece, !. Dev.access_fuses, !. Dev.piecePackets_fuses, !. Dev.readPiece_fuses, Dev.failPiece_fuses,
    Dev.pushPiece_fuses, Dev.endPiece_fuses, Dev.modCmd_fuses, Dev.writeUnit_fuses]

/-! #### Shard descriptors (Machine/ShardIo.lean) -/

@[simp] theorem Dev.coverage_fuses (h inStep) : (d.coverage h inStep).fuses = d.fuses := by
  unfold Dev.coverage
  split <;> simp

@[simp] theorem Dev.uncover_fuses (h box) : (d.uncover h box).fuses = d.fuses := by simp [Dev.uncover]

/-! #### Pieces of moves (Machine/Pieces.lean) -/

@[simp] theorem Dev.sendReady_fuses (c k x) : (d.sendReady c k x).fuses = d.fuses := by simp [Dev.sendReady]

@[simp] theorem Dev.afterPiece_fuses (c k idx) : (d.afterPiece c k idx).fuses = d.fuses := by
  simp only [Dev.afterPiece]
  repeat' split
  all_goals simp

@[simp] theorem Dev.runPiece_fuses (inst u) : (d.runPiece inst u).fuses = d.fuses := by
  simp only [Dev.runPiece]
  repeat' split
  all_goals simp

@[simp] theorem Dev.culvertEnd_fuses (inst) : (d.culvertEnd inst).fuses = d.fuses := by
  unfold Dev.culvertEnd
  split <;> simp

/-! #### Reductions (Machine/Reduce.lean) -/

@[simp] theorem Dev.answer_fuses (p type status data) : (d.answer p type status data).fuses = d.fuses := by simp [Dev.answer]
@[simp] theorem Dev.reply_fuses (p status) : (d.reply p status).fuses = d.fuses := by simp [Dev.reply]
@[simp] theorem Dev.modJob_fuses (c n f) : (d.modJob c n f).fuses = d.fuses := by simp [Dev.modJob]

@[simp] theorem Dev.redFail_fuses (c job peer piece kind) : (d.redFail c job peer piece kind).fuses = d.fuses := by
  simp [Dev.redFail]

@[simp] theorem Dev.freeJobSlot_fuses (c n) : (d.freeJobSlot c n).fuses = d.fuses := by simp [Dev.freeJobSlot]

@[simp] theorem Dev.weir_fuses (c n bs) : (d.weir c n bs).fuses = d.fuses := by
  unfold Dev.weir
  split <;> simp

@[simp] theorem Dev.readSlot_fuses (j chunk piece b) : (d.readSlot j chunk piece b).1.fuses = d.fuses := by
  grind [Dev.readSlot, !. Dev.readBytes_fuses]

@[simp] theorem Dev.readSlots_fuses (j chunk piece bs) : (Dev.readSlots j chunk piece bs d).1.fuses = d.fuses := by
  induction bs generalizing d with
  | nil => rfl
  | cons b r ih => grind [Dev.readSlots, !. Dev.readSlot_fuses]

@[simp] theorem Dev.writeSlots_fuses (j chunk piece bits bs) : (d.writeSlots j chunk piece bits bs).1.fuses = d.fuses := by
  simp only [Dev.writeSlots]
  split <;> simp

@[simp] theorem Dev.failReduce_fuses (c seq status addr) : (d.failReduce c seq status addr).fuses = d.fuses := by
  simp [Dev.failReduce]

@[simp] theorem Dev.reduceUnit_fuses (j i) : (d.reduceUnit j i).fuses = d.fuses := by simp [Dev.reduceUnit]

@[simp] theorem Dev.ownerPiece_fuses (c n piece bs) : (d.ownerPiece c n piece bs).fuses = d.fuses := by
  unfold Dev.ownerPiece
  split <;> simp

@[simp] theorem Dev.ownBlocks_fuses (j chunk piece) : (d.ownBlocks j chunk piece).1.fuses = d.fuses := by
  simp only [Dev.ownBlocks]
  split <;> next e => simp [fuses_of_eq e]

@[simp] theorem Dev.addPiece_fuses (j chunk piece bits ps) : (d.addPiece j chunk piece bits ps).1.fuses = d.fuses := by
  grind [Dev.addPiece, !. Dev.readSlots_fuses, !. Dev.writeSlots_fuses]

@[simp] theorem Dev.jobSats_fuses (j n) : (d.jobSats j n).fuses = d.fuses := by
  simp only [Dev.jobSats]
  repeat' split
  all_goals simp

@[simp] theorem Dev.pieceFail_fuses (j peer type kind piece chunk) :
    (d.pieceFail j peer type kind piece chunk).fuses = d.fuses := by
  simp [Dev.pieceFail]

@[simp] theorem Dev.addOwn_fuses (c n piece) : (d.addOwn c n piece).fuses = d.fuses := by
  grind [Dev.addOwn, !. Dev.ownBlocks_fuses, Dev.failReduce_fuses, !. Dev.addPiece_fuses, Dev.pieceFail_fuses, Dev.jobSats_fuses,
    Dev.ownerPiece_fuses]

@[simp] theorem Dev.sendBlocks_fuses (j s) : (d.sendBlocks j s).1.fuses = d.fuses := by
  grind [Dev.sendBlocks, !. Dev.readSlots_fuses, !. Dev.ownBlocks_fuses]

@[simp] theorem Dev.sendPiece_fuses (c n s) : (d.sendPiece c n s).fuses = d.fuses := by
  grind [Dev.sendPiece, !. Dev.sendBlocks_fuses, Dev.failReduce_fuses, → Dev.request_fuses, Dev.modJob_fuses]

@[simp] theorem Dev.scanJob_fuses (c n) : (d.scanJob c n).1.fuses = d.fuses := by
  simp only [Dev.scanJob]
  split
  · simp
  split <;> next e =>
    repeat' split
    all_goals simp [fuses_of_eq e]

@[simp] theorem Dev.pushJob_fuses (c n) : (d.pushJob c n).fuses = d.fuses := by
  simp only [Dev.pushJob]
  split
  · rfl
  split
  · rfl
  split
  · simp
  split <;> next h => simp [fuses_of_eq h, apply_ite Prod.fst]

@[simp] theorem Dev.openJob_fuses (c seq) : (d.openJob c seq).fuses = d.fuses := by
  grind [Dev.openJob, !. Dev.access_fuses, Dev.modMeters_fuses, Dev.pushJob_fuses, Dev.fuses_mk, Dev.fuses_eta]

@[simp] theorem Dev.pieceVote_fuses (j p type kind status piece chunk) :
    (d.pieceVote j p type kind status piece chunk).fuses = d.fuses := by
  simp [Dev.pieceVote]

@[simp] theorem Dev.judgeAccum_fuses (p) : (d.judgeAccum p).1.fuses = d.fuses := by
  grind [Dev.judgeAccum, Dev.pieceVote_fuses, !. Dev.addPiece_fuses, Dev.modJob_fuses, Dev.failReduce_fuses,
    Dev.ownerPiece_fuses, Dev.jobSats_fuses]

@[simp] theorem Dev.serveAccum_fuses (p) : (d.serveAccum p).fuses = d.fuses := by
  grind [Dev.serveAccum, Dev.reply_fuses, !. Dev.snoopAll_fuses, !. Dev.judgeAccum_fuses, Dev.fuses_mk, Dev.fuses_eta]

@[simp] theorem Dev.takeAccum_fuses (p) : (d.takeAccum p).fuses = d.fuses := by simp [Dev.takeAccum]

@[simp] theorem Dev.forwardPiece_fuses (c n chunk piece) : (d.forwardPiece c n chunk piece).fuses = d.fuses := by
  simp only [Dev.forwardPiece]
  split
  · rfl
  split
  · rfl
  split
  · simp
  split
  · next h1 => simp [fuses_of_eq h1]
  next h1 =>
  split
  · next h2 => simp [fuses_of_eq h2, fuses_of_eq h1]
  next h2 =>
  split <;> next h3 => simp [fuses_of_eq h3, fuses_of_eq h2, fuses_of_eq h1]

@[simp] theorem Dev.markPiece_fuses (c n chunk piece f) : (d.markPiece c n chunk piece f).fuses = d.fuses := by
  simp [Dev.markPiece]

@[simp] theorem Dev.pieceAnswer_fuses (c n chunk piece status peer) :
    (d.pieceAnswer c n chunk piece status peer).fuses = d.fuses := by
  unfold Dev.pieceAnswer
  split <;> simp

@[simp] theorem Dev.completeReduce_fuses (c seq) : (d.completeReduce c seq).fuses = d.fuses := by
  unfold Dev.completeReduce
  split <;> simp

@[simp] theorem Dev.reduceTimeout_fuses (c seq) : (d.reduceTimeout c seq).fuses = d.fuses := by
  simp only [Dev.reduceTimeout]
  repeat' split
  all_goals simp

@[simp] theorem Dev.endLost_fuses (j) : (d.endLost j).fuses = d.fuses := by
  unfold Dev.endLost
  split <;> simp

@[simp] theorem Dev.loseJobs_fuses (ctl) : (d.loseJobs ctl).fuses = d.fuses := by simp [Dev.loseJobs]

/-! #### Updates (Machine/Update.lean) -/

@[simp] theorem Dev.readDests_fuses (k is) : (Dev.readDests k is d).1.fuses = d.fuses := by
  induction is generalizing d with
  | nil => rfl
  | cons i r ih => grind [Dev.readDests, !. Dev.readBytes_fuses]

@[simp] theorem Dev.computeUpdate_fuses (c k i x) : (d.computeUpdate c k i x).1.fuses = d.fuses := by
  grind [Dev.computeUpdate, !. Dev.readView_fuses]

/-! #### The outer loop (Machine/Outer.lean) -/

@[simp] theorem Dev.startSend_fuses (c k) : (d.startSend c k).fuses = d.fuses := by simp [Dev.startSend]

@[simp] theorem Dev.computeSend_fuses (c k i x e) : (d.computeSend c k i x e).1.fuses = d.fuses := by
  simp only [Dev.computeSend]
  split <;> next e => simp [fuses_of_eq e]

@[simp] theorem Dev.modPartner_fuses (h i f) : (d.modPartner h i f).fuses = d.fuses := by simp [Dev.modPartner]

@[simp] theorem Dev.deltaWrite_fuses (h i k x e p w) : (d.deltaWrite h i k x e p w).fuses = d.fuses := by
  simp only [Dev.deltaWrite]
  split
  · rfl
  split
  · next h1 => simp [fuses_of_eq h1]
  next h1 =>
  split
  · next h2 => simp [fuses_of_eq h2, fuses_of_eq h1]
  · next h2 => simp [fuses_of_eq h2, fuses_of_eq h1]

@[simp] theorem Dev.pushPartner_fuses (h i) : (d.pushPartner h i).fuses = d.fuses := by
  simp only [Dev.pushPartner]
  repeat' split
  all_goals simp

@[simp] theorem Dev.deltaAnswer_fuses (entry q h i k status) : (d.deltaAnswer entry q h i k status).fuses = d.fuses := by
  simp only [Dev.deltaAnswer]
  repeat' split
  all_goals simp

@[simp] theorem Dev.sendDone_fuses (c h k) : (d.sendDone c h k).fuses = d.fuses := by simp [Dev.sendDone]

@[simp] theorem Dev.takeDone_fuses (src m) : (d.takeDone src m).fuses = d.fuses := by
  simp only [Dev.takeDone]
  repeat' split
  all_goals simp

@[simp] theorem Dev.takeRelease_fuses (src m) : (d.takeRelease src m).fuses = d.fuses := by
  simp only [Dev.takeRelease]
  repeat' split
  all_goals simp

@[simp] theorem Dev.drainPeer_fuses (n src) : (Dev.drainPeer n src d).fuses = d.fuses := by
  induction n generalizing d with
  | zero => rfl
  | succ n ih =>
    unfold Dev.drainPeer
    dsimp only
    split <;> simp [ih]

@[simp] theorem Dev.serveTurnout_fuses (src) : (d.serveTurnout src).fuses = d.fuses := by simp [Dev.serveTurnout]
@[simp] theorem Dev.turnoutReceive_fuses (p) : (d.turnoutReceive p).fuses = d.fuses := by simp [Dev.turnoutReceive]
@[simp] theorem Dev.freeze_fuses (c e k) : (d.freeze c e k).fuses = d.fuses := by simp [Dev.freeze]

@[simp] theorem Dev.tryFreeze_fuses (h) : (d.tryFreeze h).fuses = d.fuses := by
  unfold Dev.tryFreeze
  split <;> simp

@[simp] theorem Dev.computeApply_fuses (c k x e) : (d.computeApply c k x e).1.fuses = d.fuses := by
  simp only [Dev.computeApply]
  split <;> next e =>
    repeat' split
    all_goals simp [fuses_of_eq e]

@[simp] theorem Dev.withdraw_fuses (h) : (d.withdraw h).fuses = d.fuses := by simp [Dev.withdraw]
@[simp] theorem Dev.withdrawAll_fuses (c) : (d.withdrawAll c).fuses = d.fuses := by simp [Dev.withdrawAll]

/-! #### Update engines (Machine/UpdateEngines.lean) -/

@[simp] theorem Dev.failEntry_fuses (k c seq idx status addr) : (d.failEntry k c seq idx status addr).fuses = d.fuses := by
  simp [Dev.failEntry]

@[simp] theorem Dev.entryResult_fuses (c k i x) : (d.entryResult c k i x).1.fuses = d.fuses := by
  grind [Dev.entryResult, !. Dev.computeUpdate_fuses, !. Dev.computeApply_fuses, !. Dev.computeSend_fuses]

@[simp] theorem Dev.localCopies_fuses (wc dests) : (d.localCopies wc dests).1.fuses = d.fuses := by simp [Dev.localCopies]
@[simp] theorem Dev.applyRefused_fuses (c k h) : (d.applyRefused c k h).fuses = d.fuses := by simp [Dev.applyRefused]
@[simp] theorem Dev.finishEntry_fuses (kk u k r) : (d.finishEntry kk u k r).fuses = d.fuses := by simp [Dev.finishEntry]

@[simp] theorem Dev.carryEntry_fuses (kk u k) : (d.carryEntry kk u k).fuses = d.fuses := by
  simp only [Dev.carryEntry]
  split
  · rfl
  split
  · simp
  split
  · next h1 => simp [fuses_of_eq h1]
  next h1 =>
  split
  · next h2 => simp [fuses_of_eq h2, fuses_of_eq h1]
  · next h2 => simp [fuses_of_eq h2, fuses_of_eq h1]
  next h2 =>
  split
  · next h3 => simp [fuses_of_eq h3, fuses_of_eq h2, fuses_of_eq h1]
  next h3 =>
  split
  · next h4 => simp [fuses_of_eq h4, fuses_of_eq h3, fuses_of_eq h2, fuses_of_eq h1]
  next h4 =>
  repeat' split
  all_goals simp [fuses_of_eq h4, fuses_of_eq h3, fuses_of_eq h2, fuses_of_eq h1]

@[simp] theorem Dev.slowStall_fuses (c) : (d.slowStall c).fuses = d.fuses := by
  simp only [Dev.slowStall]
  split <;> simp

/-! #### Messages of the sluice (Machine/Messages.lean) -/

@[simp] theorem Dev.receive_fuses (c m f) (h : ∀ d, (f d).fuses = d.fuses) : (d.receive c m f).fuses = d.fuses := by
  simp [Dev.receive, h]

@[simp] theorem Dev.askNow_fuses (c) : (d.askNow c).fuses = d.fuses := by simp [Dev.askNow]

@[simp] theorem Dev.markReady_fuses (c) : (d.markReady c).fuses = d.fuses := by
  simp only [Dev.markReady]
  repeat' split
  all_goals simp

@[simp] theorem Dev.takeToken_fuses (c m) : (d.takeToken c m).fuses = d.fuses := by
  simp only [Dev.takeToken]
  repeat' split
  all_goals simp

@[simp] theorem Dev.takeAbortVote_fuses (c m) : (d.takeAbortVote c m).fuses = d.fuses := by simp [Dev.takeAbortVote]

@[simp] theorem Dev.takeDecide_fuses (c m) : (d.takeDecide c m).fuses = d.fuses := by
  simp only [Dev.takeDecide]
  repeat' split
  all_goals simp

@[simp] theorem Dev.takeDecided_fuses (c m) : (d.takeDecided c m).fuses = d.fuses := by
  simp only [Dev.takeDecided]
  split <;> simp

@[simp] theorem Dev.takeOutcome_fuses (c m) : (d.takeOutcome c m).fuses = d.fuses := by
  simp only [Dev.takeOutcome]
  split <;> simp

@[simp] theorem Dev.selfAbort_fuses (c) : (d.selfAbort c).fuses = d.fuses := by simp [Dev.selfAbort]

@[simp] theorem Dev.takeQuery_fuses (c m) : (d.takeQuery c m).fuses = d.fuses := by
  simp only [Dev.takeQuery]
  repeat' split
  all_goals simp

@[simp] theorem Dev.voteTimeout_fuses (c) : (d.voteTimeout c).fuses = d.fuses := by
  simp only [Dev.voteTimeout]
  split <;> simp

@[simp] theorem Dev.queryRepeat_fuses (c) : (d.queryRepeat c).fuses = d.fuses := by
  simp only [Dev.queryRepeat]
  split <;> simp

@[simp] theorem Dev.decideRepeat_fuses (c) : (d.decideRepeat c).fuses = d.fuses := by
  simp only [Dev.decideRepeat]
  split <;> simp

@[simp] theorem Dev.deputyTimeout_fuses (c) : (d.deputyTimeout c).fuses = d.fuses := by
  simp only [Dev.deputyTimeout]
  split <;> simp

/-! #### The meter (Machine/Meter.lean) -/

@[simp] theorem Dev.meterTick_fuses : d.meterTick.fuses = d.fuses := by
  simp only [Dev.meterTick]
  repeat' split
  all_goals simp

/-! #### The headgate (Machine/Headgate.lean) -/

@[simp] theorem Dev.headgateEvent_fuses (i detail) : (d.headgateEvent i detail).fuses = d.fuses := by simp [Dev.headgateEvent]
@[simp] theorem Dev.drawTarget_fuses : d.drawTarget.2.fuses = d.fuses := by simp [Dev.drawTarget]
@[simp] theorem Dev.newPeriod_fuses (r) : (d.newPeriod r).fuses = d.fuses := by simp [Dev.newPeriod]
@[simp] theorem Dev.controlPeriod_fuses (r) : (d.controlPeriod r).fuses = d.fuses := by simp [Dev.controlPeriod]
@[simp] theorem Dev.modQuad_fuses (q f) : (d.modQuad q f).fuses = d.fuses := by simp [Dev.modQuad]
@[simp] theorem Dev.meterReading_fuses (mw) : (d.meterReading mw).fuses = d.fuses := by simp [Dev.meterReading]
@[simp] theorem Dev.deferOthers_fuses (ks a) : (d.deferOthers ks a).fuses = d.fuses := by simp [Dev.deferOthers]
@[simp] theorem Dev.countForced_fuses (k) : (d.countForced k).fuses = d.fuses := by simp [Dev.countForced]

/-! #### Pipeline stages (Machine/Stage.lean) -/

@[simp] theorem Dev.setReady_fuses (c l) : (d.setReady c l).fuses = d.fuses := by simp [Dev.setReady]

@[simp] theorem Dev.tryReceive_fuses (c seq) : (d.tryReceive c seq).fuses = d.fuses := by
  simp only [Dev.tryReceive]
  repeat' split
  all_goals simp

@[simp] theorem Dev.tryReceives_fuses (c) : (d.tryReceives c).fuses = d.fuses := by simp [Dev.tryReceives]
@[simp] theorem Dev.takeReady_fuses (c m) : (d.takeReady c m).fuses = d.fuses := by simp [Dev.takeReady]

/-! #### Issue of commands (Machine/Issue.lean) -/

@[simp] theorem Dev.noteReady_fuses : d.noteReady.fuses = d.fuses := by simp [Dev.noteReady]
@[simp] theorem Dev.judgeArray_fuses (c k) : (d.judgeArray c k).1.fuses = d.fuses := by simp [Dev.judgeArray]
@[simp] theorem Dev.judgeFlume_fuses (c k) : (d.judgeFlume c k).1.fuses = d.fuses := by simp [Dev.judgeFlume]

@[simp] theorem Dev.judgeVector_fuses (c k) : (d.judgeVector c k).1.fuses = d.fuses := by
  unfold Dev.judgeVector
  split <;> simp

@[simp] theorem Dev.judgeMove_fuses (k) : (d.judgeMove k).1.fuses = d.fuses := by simp [Dev.judgeMove]

@[simp] theorem Dev.judgeReduce_fuses (c k) : (d.judgeReduce c k).1.fuses = d.fuses := by
  grind [Dev.judgeReduce, !. Dev.access_fuses, !. Dev.readBytes_fuses]

@[simp] theorem Dev.judgeLists_fuses (k) : (d.judgeLists k).1.fuses = d.fuses := by
  grind [Dev.judgeLists, !. Dev.access_fuses, !. Dev.readDests_fuses]

@[simp] theorem Dev.judgeUpdate_fuses (c k) : (d.judgeUpdate c k).1.fuses = d.fuses := by
  simp only [Dev.judgeUpdate]
  split <;> simp

@[simp] theorem Dev.judgeOuter_fuses (c k) : (d.judgeOuter c k).1.fuses = d.fuses := by
  simp only [Dev.judgeOuter]
  repeat' split
  all_goals simp

@[simp] theorem Dev.judgeExport_fuses (c k) : (d.judgeExport c k).1.fuses = d.fuses := by simp [Dev.judgeExport]

@[simp] theorem Dev.fetchBytes_fuses (c k src a n tc) : (d.fetchBytes c k src a n tc).1.fuses = d.fuses := by
  grind [Dev.fetchBytes, !. Dev.access_fuses, !. Dev.readBytes_fuses, Dev.issueMissing_fuses]

@[simp] theorem Dev.judgeImport_fuses (c k) : (d.judgeImport c k).1.fuses = d.fuses := by
  simp only [Dev.judgeImport]
  split
  · rfl
  split
  · rfl
  iterate 3
    split
    · rfl
  split
  · next h1 => simp [fuses_of_eq h1]
  · next h1 => simp [fuses_of_eq h1]
  next h1 =>
  split
  · simp [fuses_of_eq h1]
  iterate 2
    split
    · simp [fuses_of_eq h1]
  split
  · next h2 => simp [fuses_of_eq h2, fuses_of_eq h1]
  · next h2 => simp [fuses_of_eq h2, fuses_of_eq h1]
  next h2 =>
  repeat' split
  all_goals simp [fuses_of_eq h2, fuses_of_eq h1]

@[simp] theorem Dev.judgeSave_fuses (k) : (d.judgeSave k).1.fuses = d.fuses := by simp [Dev.judgeSave]
@[simp] theorem Dev.refuseLoad_fuses (c k f) : (d.refuseLoad c k f).fuses = d.fuses := by simp [Dev.refuseLoad]

@[simp] theorem Dev.judgeLoad_fuses (c k) : (d.judgeLoad c k).1.fuses = d.fuses := by
  grind [Dev.judgeLoad, Dev.refuseLoad_fuses, !. Dev.access_fuses, !. Dev.readBytes_fuses]

@[simp] theorem Dev.judgeStage_fuses (k) : (d.judgeStage k).1.fuses = d.fuses := by simp [Dev.judgeStage]
@[simp] theorem Dev.judgeBegin_fuses (c k) : (d.judgeBegin c k).1.fuses = d.fuses := by simp [Dev.judgeBegin]

@[simp] theorem Dev.judgeEnd_fuses (c k) : (d.judgeEnd c k).1.fuses = d.fuses := by
  grind [Dev.judgeEnd, !. Dev.access_fuses, !. Dev.readBytes_fuses]

@[simp] theorem Dev.judgeArgs_fuses (c k) : (d.judgeArgs c k).1.fuses = d.fuses := by
  simp only [Dev.judgeArgs]
  repeat' split
  all_goals simp

@[simp] theorem Dev.judgeBlock_fuses (c k) : (d.judgeBlock c k).1.fuses = d.fuses := by
  grind [Dev.judgeBlock, !. Dev.access_fuses, !. Dev.readBytes_fuses, !. Dev.judgeArgs_fuses]

@[simp] theorem Dev.judge_fuses (c k) : (d.judge c k).1.fuses = d.fuses := by
  simp only [Dev.judge]
  repeat' split
  all_goals simp

@[simp] theorem Dev.modSpan_fuses (c i f) : (d.modSpan c i f).fuses = d.fuses := by simp [Dev.modSpan]
@[simp] theorem Dev.beginStep_fuses (c k) : (d.beginStep c k).fuses = d.fuses := by simp [Dev.beginStep]
@[simp] theorem Dev.endStep_fuses (c k overflow) : (d.endStep c k overflow).fuses = d.fuses := by simp [Dev.endStep]
@[simp] theorem Dev.sendMarker_fuses (c k) : (d.sendMarker c k).fuses = d.fuses := by simp [Dev.sendMarker]

@[simp] theorem Dev.startImport_fuses (c k head) : (d.startImport c k head).fuses = d.fuses := by
  simp only [Dev.startImport]
  split <;> simp

@[simp] theorem Dev.afterIssue_fuses (c k) : (d.afterIssue c k).fuses = d.fuses := by simp [Dev.afterIssue]

@[simp] theorem Dev.issueGood_fuses (c k args total lists) : (d.issueGood c k args total lists).fuses = d.fuses := by
  simp [Dev.issueGood]

@[simp] theorem Dev.issueOne_fuses (c k) : (d.issueOne c k).1.fuses = d.fuses := by
  simp only [Dev.issueOne]
  split <;> next e => simp [fuses_of_eq e]

@[simp] theorem Dev.issueLoop_fuses (ks n pool) : (Dev.issueLoop ks n pool d).1.fuses = d.fuses := by
  induction n generalizing d pool with
  | zero => rfl
  | succ n ih => grind [Dev.issueLoop, !. Dev.issueOne_fuses, Dev.deferOthers_fuses]

@[simp] theorem Dev.issueNext_fuses : d.issueNext.1.fuses = d.fuses := by simp [Dev.issueNext]

@[simp] theorem Dev.issueNamed_fuses (c seq op) : (d.issueNamed c seq op).fuses = d.fuses := by
  simp only [Dev.issueNamed]
  split <;> next e => simp [fuses_of_eq e]

/-! #### The ring reader (Machine/Reader.lean) -/

@[simp] theorem Dev.doorbell_fuses (c v) : (d.doorbell c v).fuses = d.fuses := by simp [Dev.doorbell]

@[simp] theorem Dev.badEntry_fuses (c later i seq nextSeq op status) :
    (d.badEntry c later i seq nextSeq op status).fuses = d.fuses := by
  simp [Dev.badEntry]

@[simp] theorem Dev.readEntry_fuses (c i seq) : (d.readEntry c i seq).fuses = d.fuses := by
  grind [Dev.readEntry, Dev.badEntry_fuses, !. Dev.access_fuses, Dev.modCtx_fuses, !. Dev.readBytes_fuses, Dev.noteSlow_fuses]

@[simp] theorem Dev.readNext_fuses (c) : (d.readNext c).fuses = d.fuses := by
  simp only [Dev.readNext]
  repeat' split
  all_goals simp

/-! #### Dispatch (Machine/Release.lean) -/

@[simp] theorem Dev.place_fuses (c seq i cls inst) : (d.place c seq i cls inst).fuses = d.fuses := by
  grind [Dev.place, Dev.modEngine_fuses, Dev.modQuad_fuses, Dev.fuses_mk, Dev.fuses_eta]

@[simp] theorem Dev.startPiece_fuses (inst) : (d.startPiece inst).fuses = d.fuses := by
  simp only [Dev.startPiece]
  repeat' split
  all_goals simp

@[simp] theorem Dev.release_fuses (c seq inst) : (d.release c seq inst).fuses = d.fuses := by
  simp only [Dev.release]
  repeat' split
  all_goals simp

/-! #### Contexts (Machine/Contexts.lean) -/

@[simp] theorem Dev.clearStatus_fuses (c) : (d.clearStatus c).fuses = d.fuses := by simp [Dev.clearStatus]

@[simp] theorem Dev.faultWith_fuses (c cause notice) (h : ∀ d, (notice d).fuses = d.fuses) :
    (d.faultWith c cause notice).fuses = d.fuses := by
  simp [Dev.faultWith, h]

@[simp] theorem Dev.faultContext_fuses (c cause) : (d.faultContext c cause).fuses = d.fuses := by simp [Dev.faultContext]
@[simp] theorem Dev.endCmds_fuses (c) : (d.endCmds c).fuses = d.fuses := by simp [Dev.endCmds]
@[simp] theorem Dev.mbxEnd_fuses (status vendor) : (d.mbxEnd status vendor).fuses = d.fuses := by simp [Dev.mbxEnd]
@[simp] theorem Dev.workRemoved_fuses (c) : (d.workRemoved c).fuses = d.fuses := by simp [Dev.workRemoved]
@[simp] theorem Dev.watchdog_fuses (c) : (d.watchdog c).fuses = d.fuses := by simp [Dev.watchdog]
@[simp] theorem Dev.drained_fuses (c) : (d.drained c).fuses = d.fuses := by simp [Dev.drained]

@[simp] theorem Dev.drain_fuses (c) : (d.drain c).fuses = d.fuses := by
  simp only [Dev.drain]
  repeat' split
  all_goals simp

/-! #### Resets (Machine/Resets.lean) -/

@[simp] theorem Dev.deviceReset_fuses (cause) : (d.deviceReset cause).fuses = d.fuses := rfl
@[simp] theorem Dev.powerReset_fuses : d.powerReset.fuses = d.fuses := by simp [Dev.powerReset]
@[simp] theorem Dev.resetFor_fuses (cause) : (d.resetFor cause).fuses = d.fuses := by simp [Dev.resetFor]

/-! #### The mailbox (Machine/Mailbox.lean) -/

@[simp] theorem ends_fuses (status) : (ends d status).1.fuses = d.fuses := by simp [ends]

@[simp] theorem Dev.inState_fuses (c op legal f) (h : ∀ d, (f d).1.fuses = d.fuses) :
    (d.inState c op legal f).1.fuses = d.fuses := by
  simp only [Dev.inState]
  split <;> simp [h]

@[simp] theorem ctxCommand_fuses (op ok legal f p) (h : ∀ c d p, (f c d p).1.fuses = d.fuses) :
    (ctxCommand op ok legal f d p).1.fuses = d.fuses := by
  unfold ctxCommand
  split <;> simp [h]

@[simp] theorem Dev.whenFree_fuses (rs f) (h : ∀ d, (f d).1.fuses = d.fuses) : (d.whenFree rs f).1.fuses = d.fuses := by
  simp only [Dev.whenFree]
  split <;> next e => simp [h, fuses_of_eq e]

@[simp] theorem Dev.whenCistern_fuses (f) (h : ∀ d, (f d).1.fuses = d.fuses) : (d.whenCistern f).1.fuses = d.fuses := by
  unfold Dev.whenCistern
  split <;> simp [h]

@[simp] theorem Dev.respond_fuses (resp) : (d.respond resp).fuses = d.fuses := by simp [Dev.respond]
@[simp] theorem Dev.freshContext_fuses (c) : (d.freshContext c).fuses = d.fuses := by simp [Dev.freshContext]

@[simp] theorem cmdCtxCreate_fuses (p) : (cmdCtxCreate d p).1.fuses = d.fuses := by
  refine ctxCommand_fuses _ _ _ _ _ _ fun c d p => ?_
  dsimp only
  repeat' split
  all_goals simp

@[simp] theorem cmdCtxStart_fuses (p) : (cmdCtxStart d p).1.fuses = d.fuses := by simp [cmdCtxStart]

@[simp] theorem cmdCtxHold_fuses (p) : (cmdCtxHold d p).1.fuses = d.fuses := by
  refine ctxCommand_fuses _ _ _ _ _ _ fun c d p => ?_
  grind [!. ends_fuses, Dev.holdIfQuiet_fuses, Dev.modCtx_fuses, Dev.setState_fuses]

@[simp] theorem Dev.resumeReading_fuses (c) : (d.resumeReading c).fuses = d.fuses := by
  simp only [Dev.resumeReading, Dev.modCtx_fuses]
  refine foldl_fuses _ (fun d k => ?_) _ _
  repeat' split
  all_goals simp

@[simp] theorem cmdCtxResume_fuses (p) : (cmdCtxResume d p).1.fuses = d.fuses := by
  grind [cmdCtxResume, !. ctxCommand_fuses, !. ends_fuses, Dev.setState_fuses, Dev.resumeReading_fuses, Dev.modCtx_fuses]

@[simp] theorem cmdCtxDrain_fuses (p) : (cmdCtxDrain d p).1.fuses = d.fuses := by simp [cmdCtxDrain]

@[simp] theorem cmdCtxReset_fuses (p) : (cmdCtxReset d p).1.fuses = d.fuses := by
  refine ctxCommand_fuses _ _ _ _ _ _ fun c d p => ?_
  dsimp only
  repeat' split
  all_goals simp

@[simp] theorem Dev.dropMarkers_fuses (c) : (d.dropMarkers c).fuses = d.fuses := by simp [Dev.dropMarkers]

@[simp] theorem cmdCtxRearm_fuses (p) : (cmdCtxRearm d p).1.fuses = d.fuses := by
  refine ctxCommand_fuses _ _ _ _ _ _ fun c d p => ?_
  dsimp only
  repeat' split
  all_goals simp

@[simp] theorem Dev.endCheckpoint_fuses (c status) : (d.endCheckpoint c status).fuses = d.fuses := by
  unfold Dev.endCheckpoint
  split <;> simp

@[simp] theorem Dev.closeContext_fuses (c) : (d.closeContext c).fuses = d.fuses := by simp [Dev.closeContext]
@[simp] theorem cmdCtxClose_fuses (p) : (cmdCtxClose d p).1.fuses = d.fuses := by simp [cmdCtxClose]

@[simp] theorem Dev.accept_fuses (op target judge) : (d.accept op target judge).1.fuses = d.fuses := by
  simp only [Dev.accept]
  repeat' split
  all_goals simp

@[simp] theorem Dev.serviceEnd_fuses (i status) : (d.serviceEnd i status).fuses = d.fuses := (d.serviceEnd_only i status).fuses

@[simp] theorem cmdArrayRetire_fuses (p) : (cmdArrayRetire d p).1.fuses = d.fuses := by
  simp only [cmdArrayRetire]
  split <;> simp

@[simp] theorem cmdArrayRecal_fuses (p) : (cmdArrayRecal d p).1.fuses = d.fuses := by
  simp only [cmdArrayRecal]
  split <;> simp

@[simp] theorem cmdPcRetire_fuses (p) : (cmdPcRetire d p).1.fuses = d.fuses := by
  simp only [cmdPcRetire]
  split <;> simp

@[simp] theorem Dev.svcFree_fuses (i) : (d.svcFree i).fuses = d.fuses := by simp [Dev.svcFree]

/-! #### Shard and turnout commands (Machine/ShardCommands.lean) -/

@[simp] theorem cmdShardRegister_fuses (p) : (cmdShardRegister d p).1.fuses = d.fuses := by
  refine ctxCommand_fuses _ _ _ _ _ _ fun c d p => ?_
  dsimp only
  repeat' split
  all_goals simp

@[simp] theorem cmdShardRelease_fuses (p) : (cmdShardRelease d p).1.fuses = d.fuses := by
  refine ctxCommand_fuses _ _ _ _ _ _ fun c d p => ?_
  dsimp only
  repeat' split
  all_goals simp

@[simp] theorem cmdShardQuery_fuses (p) : (cmdShardQuery d p).1.fuses = d.fuses := by
  refine ctxCommand_fuses _ _ _ _ _ _ fun c d p => ?_
  grind [!. ends_fuses]

@[simp] theorem cmdOutcomeQuery_fuses (p) : (cmdOutcomeQuery d p).1.fuses = d.fuses := by simp [cmdOutcomeQuery]

@[simp] theorem cmdRingSet_fuses (p) : (cmdRingSet d p).1.fuses = d.fuses := by
  refine ctxCommand_fuses _ _ _ _ _ _ fun c d p => ?_
  grind [!. ends_fuses, !. Dev.whenFree_fuses, !. Dev.readBytes_fuses, Dev.modSlc_fuses, Dev.purgeReady_fuses]

@[simp] theorem Dev.copyGranules_fuses (from_ to_ n) : (d.copyGranules from_ to_ n).fuses = d.fuses := by
  refine foldl_fuses _ (fun d i => ?_) _ _
  grind [!. Dev.readBytes_fuses, Dev.fuses]

@[simp] theorem Dev.startArea_fuses (x e l) : (d.startArea x e l).fuses = d.fuses := by simp [Dev.startArea]

@[simp] theorem cmdTrnEnrol_fuses (p) : (cmdTrnEnrol d p).1.fuses = d.fuses := by
  refine ctxCommand_fuses _ _ _ _ _ _ fun c d p => ?_
  dsimp only
  repeat' split
  all_goals simp

@[simp] theorem cmdTrnWithdraw_fuses (p) : (cmdTrnWithdraw d p).1.fuses = d.fuses := by
  refine ctxCommand_fuses _ _ _ _ _ _ fun c d p => ?_
  dsimp only
  repeat' split
  all_goals simp

/-! #### The cistern (Machine/Cistern.lean) -/

@[simp] theorem Dev.modRun_fuses (c f) : (d.modRun c f).fuses = d.fuses := by simp [Dev.modRun]

@[simp] theorem Dev.writeJournal_fuses : d.writeJournal.fuses = d.fuses := by
  simp only [Dev.writeJournal]
  repeat' split
  all_goals simp

@[simp] theorem Dev.readPayload_fuses (x slot) : (d.readPayload x slot).1.fuses = d.fuses := by
  simp only [Dev.readPayload]
  split <;> next e => simp [fuses_of_eq e]

@[simp] theorem Dev.toFlash_fuses (c x) : (d.toFlash c x).fuses = d.fuses := by
  simp only [Dev.toFlash]
  repeat' split
  all_goals simp

@[simp] theorem Dev.copyShard_fuses (c r h slot x) : (d.copyShard c r h slot x).fuses = d.fuses := by
  grind [Dev.copyShard, !. Dev.readPayload_fuses, Dev.endCheckpoint_fuses, !. Dev.access_fuses, !. Dev.writeBytes_fuses,
    Dev.modRun_fuses]

@[simp] theorem Dev.flashShard_fuses (c r) : (d.flashShard c r).fuses = d.fuses := by
  grind [Dev.flashShard, !. Dev.readBytes_fuses, Dev.endCheckpoint_fuses, Dev.modRun_fuses, Dev.toFlash_fuses,
    !. Dev.readPayload_fuses]

@[simp] theorem Dev.shardWritten_fuses (c) : (d.shardWritten c).fuses = d.fuses := by
  simp only [Dev.shardWritten]
  split
  · rfl
  split
  · rfl
  split <;> next h1 => 
    repeat' split
    all_goals simp [fuses_of_eq h1]

@[simp] theorem Dev.writeManifest_fuses (c) : (d.writeManifest c).fuses = d.fuses := by
  unfold Dev.writeManifest
  split <;> simp

@[simp] theorem Dev.recordFor_fuses (c) : (d.recordFor c).2.fuses = d.fuses := by
  simp only [Dev.recordFor]
  split <;> simp

@[simp] theorem Dev.capture_fuses (c buf bufLen) : (d.capture c buf bufLen).fuses = d.fuses := by simp [Dev.capture]

@[simp] theorem cmdCisCheckpoint_fuses (p) : (cmdCisCheckpoint d p).1.fuses = d.fuses := by
  refine ctxCommand_fuses _ _ _ _ _ _ fun c d p => ?_
  dsimp only
  repeat' split
  all_goals simp

@[simp] theorem cmdCisInfo_fuses (p) : (cmdCisInfo d p).1.fuses = d.fuses := by
  unfold cmdCisInfo
  split <;> simp

@[simp] theorem cmdCisFormat_fuses (p) : (cmdCisFormat d p).1.fuses = d.fuses := by
  simp only [cmdCisFormat]
  repeat' split
  all_goals simp

@[simp] theorem cmdCisList_fuses (p) : (cmdCisList d p).1.fuses = d.fuses := by
  simp only [cmdCisList]
  repeat' split
  all_goals simp

@[simp] theorem cmdCisDiscard_fuses (p) : (cmdCisDiscard d p).1.fuses = d.fuses := by
  simp only [cmdCisDiscard]
  repeat' split
  all_goals simp

@[simp] theorem cmdCisFetch_fuses (p) : (cmdCisFetch d p).1.fuses = d.fuses := by
  grind [cmdCisFetch, !. ends_fuses, !. Dev.whenCistern_fuses, !. Dev.whenFree_fuses, !. Dev.writeBytes_fuses]

@[simp] theorem cmdCisJournalRead_fuses (p) : (cmdCisJournalRead d p).1.fuses = d.fuses := by
  simp only [cmdCisJournalRead]
  repeat' split
  all_goals simp

@[simp] theorem Dev.restoreShard_fuses (mode r payload) : (d.restoreShard mode r payload).1.fuses = d.fuses := by
  refine foldl_fst_fuses _ (fun acc i => ?_) _ _
  dsimp only
  split
  · rfl
  · have h := acc.1.readView_fuses (r.piece mode none 0 i).own []
    split
    · simp_all
    · next heq =>
      rw [heq] at h
      refine (foldl_fst_fuses _ (fun a w => ?_) _ _).trans h
      simp

@[simp] theorem Dev.restoreAll_fuses (c slot step ss) : (d.restoreAll c slot step ss).1.fuses = d.fuses := by
  induction ss generalizing d with
  | nil => rfl
  | cons r rs ih => grind [Dev.restoreAll, !. Dev.restoreShard_fuses, Dev.modShard_fuses]

@[simp] theorem Dev.installRecord_fuses (c k) : (d.installRecord c k).fuses = d.fuses := by simp [Dev.installRecord]

@[simp] theorem Dev.rollback_fuses (c k ss) : (d.rollback c k ss).1.fuses = d.fuses := by
  simp only [Dev.rollback]
  split <;> next e => simp [fuses_of_eq e]

@[simp] theorem cmdRollback_fuses (p) : (cmdRollback d p).1.fuses = d.fuses := by
  refine ctxCommand_fuses _ _ _ _ _ _ fun c d p => ?_
  dsimp only
  repeat' split
  all_goals simp

@[simp] theorem Dev.readOnly_fuses : d.readOnly.fuses = d.fuses := by simp [Dev.readOnly]
@[simp] theorem Dev.badPage_fuses (page) : (d.badPage page).fuses = d.fuses := by simp [Dev.badPage]
@[simp] theorem Dev.rewritePages_fuses : d.rewritePages.fuses = d.fuses := by simp [Dev.rewritePages]

@[simp] theorem Dev.retentionScrub_fuses (bad retry) : (d.retentionScrub bad retry).fuses = d.fuses := by
  simp [Dev.retentionScrub]

/-! #### The host's memory (Machine/HostMemory.lean) -/

@[simp] theorem Dev.hostGranule_fuses (g) : (d.hostGranule g).1.fuses = d.fuses := by
  unfold Dev.hostGranule
  split <;> simp

@[simp] theorem Dev.hostRead_fuses (line) : (d.hostRead line).fuses = d.fuses := by
  simp only [Dev.hostRead]
  split <;> simp

@[simp] theorem Dev.hostWrite_fuses (a data enable) : (d.hostWrite a data enable).fuses = d.fuses := by simp [Dev.hostWrite]
@[simp] theorem Dev.hostWaits_fuses (x) : (d.hostWaits x).fuses = d.fuses := by simp [Dev.hostWaits]

@[simp] theorem Dev.evictLine_fuses : d.evictLine.fuses = d.fuses := by
  unfold Dev.evictLine
  split <;> simp

@[simp] theorem Dev.hostServe_fuses (x) : (d.hostServe x).fuses = d.fuses := by
  unfold Dev.hostServe
  split <;> simp

@[simp] theorem Dev.resumeHost_fuses : d.resumeHost.fuses = d.fuses := by simp [Dev.resumeHost]
@[simp] theorem Dev.hostAccess_fuses (x) : (d.hostAccess x).fuses = d.fuses := by simp [Dev.hostAccess]

@[simp] theorem Dev.commitDecoder_fuses (i base size skip ways) : (d.commitDecoder i base size skip ways).fuses = d.fuses := by
  simp [Dev.commitDecoder]

@[simp] theorem Dev.linkDown_fuses : d.linkDown.fuses = d.fuses := by simp [Dev.linkDown]

/-! #### The ledger (Machine/Ledger.lean) -/

@[simp] theorem Dev.copySlots_fuses (n slot dst k) : (Dev.copySlots n slot dst k d).1.fuses = d.fuses := by
  induction n generalizing d slot dst k with
  | zero => rfl
  | succ n ih => grind [Dev.copySlots, !. Dev.readBytes_fuses, Dev.fuses]

@[simp] theorem Dev.ledgerCopy_fuses : d.ledgerCopy.fuses = d.fuses := by
  simp only [Dev.ledgerCopy]
  split
  · rfl
  split
  · rfl
  split <;> next e => simp [fuses_of_eq e]

@[simp] theorem Dev.ledgerStart_fuses (v) : (d.ledgerStart v).fuses = d.fuses := by simp [Dev.ledgerStart]

@[simp] theorem cmdAllotSet_fuses (p) : (cmdAllotSet d p).1.fuses = d.fuses := by
  simp only [cmdAllotSet]
  split <;> simp

@[simp] theorem cmdAllotGet_fuses (p) : (cmdAllotGet d p).1.fuses = d.fuses := by simp [cmdAllotGet]

/-! #### The time base (Machine/TimeBase.lean) -/

@[simp] theorem Dev.tbEvent_fuses (old) : (d.tbEvent old).fuses = d.fuses := by simp [Dev.tbEvent]
@[simp] theorem Dev.chooseSource_fuses : d.chooseSource.fuses = d.fuses := by simp [Dev.chooseSource]
@[simp] theorem Dev.applyMode_fuses : d.applyMode.fuses = d.fuses := by simp [Dev.applyMode]
@[simp] theorem Dev.stepTime_fuses (t) : (d.stepTime t).fuses = d.fuses := by simp [Dev.stepTime]
@[simp] theorem Dev.steer_fuses (t) : (d.steer t).fuses = d.fuses := by simp [Dev.steer]
@[simp] theorem Dev.setTime_fuses (ns) : (d.setTime ns).fuses = d.fuses := by simp [Dev.setTime]
@[simp] theorem Dev.resizeGrants_fuses : d.resizeGrants.fuses = d.fuses := by simp [Dev.resizeGrants]
@[simp] theorem Dev.pathEpoch_fuses (n off) : (d.pathEpoch n off).fuses = d.fuses := by simp [Dev.pathEpoch]
@[simp] theorem Dev.lateralExchange_fuses (n e) : (d.lateralExchange n e).fuses = d.fuses := by simp [Dev.lateralExchange]
@[simp] theorem Dev.deliver_fuses (n) : (d.deliver n).fuses = d.fuses := by simp [Dev.deliver]
@[simp] theorem Dev.startExchange_fuses (n) : (d.startExchange n).fuses = d.fuses := by simp [Dev.startExchange]

@[simp] theorem Dev.endExchange_fuses (n t2 t3 stratum state) : (d.endExchange n t2 t3 stratum state).fuses = d.fuses := by
  simp only [Dev.endExchange]
  repeat' split
  all_goals simp

@[simp] theorem Dev.endRemeasure_fuses (n) : (d.endRemeasure n).fuses = d.fuses := by simp [Dev.endRemeasure]

/-! #### Ports (Machine/Ports.lean) -/

@[simp] theorem Dev.tellBasin_fuses : d.tellBasin.fuses = d.fuses := by simp [Dev.tellBasin]
@[simp] theorem Dev.noteRoutes_fuses : d.noteRoutes.fuses = d.fuses := by simp [Dev.noteRoutes]
@[simp] theorem Dev.afterRoutes_fuses : d.afterRoutes.fuses = d.fuses := by simp [Dev.afterRoutes]
@[simp] theorem Dev.markRouted_fuses : d.markRouted.fuses = d.fuses := by simp [Dev.markRouted]

@[simp] theorem Dev.rewriteRoute_fuses (n) : (d.rewriteRoute n).fuses = d.fuses := by
  unfold Dev.rewriteRoute
  split <;> simp

@[simp] theorem Dev.restoreRoute_fuses (n) : (d.restoreRoute n).fuses = d.fuses := by
  unfold Dev.restoreRoute
  split <;> simp

@[simp] theorem Dev.takeLinkState_fuses (slot states) : (d.takeLinkState slot states).fuses = d.fuses := by
  simp [Dev.takeLinkState]

@[simp] theorem Dev.endRetrain_fuses (n) : (d.endRetrain n).fuses = d.fuses := by
  simp only [Dev.endRetrain]
  repeat' split
  all_goals simp

@[simp] theorem Dev.setPort_fuses (n st) : (d.setPort n st).fuses = d.fuses := by simp [Dev.setPort]
@[simp] theorem Dev.dropTransit_fuses (n) : (d.dropTransit n).fuses = d.fuses := by simp [Dev.dropTransit]
@[simp] theorem Dev.portDown_fuses (n st) : (d.portDown n st).fuses = d.fuses := by simp [Dev.portDown]
@[simp] theorem Dev.startDrain_fuses (n thenTrain) : (d.startDrain n thenTrain).fuses = d.fuses := by simp [Dev.startDrain]
@[simp] theorem Dev.laneFault_fuses (n) : (d.laneFault n).fuses = d.fuses := by simp [Dev.laneFault]
@[simp] theorem Dev.train_fuses (n) : (d.train n).fuses = d.fuses := by simp [Dev.train]

@[simp] theorem Dev.applyEnable_fuses (n) : (d.applyEnable n).fuses = d.fuses := by
  simp only [Dev.applyEnable]
  repeat' split
  all_goals simp

@[simp] theorem Dev.setEnable_fuses (port on) : (d.setEnable port on).fuses = d.fuses := by
  unfold Dev.setEnable
  split <;> simp

@[simp] theorem Dev.signal_fuses (n) : (d.signal n).fuses = d.fuses := by simp [Dev.signal]
@[simp] theorem Dev.trainFail_fuses (n) : (d.trainFail n).fuses = d.fuses := by simp [Dev.trainFail]
@[simp] theorem Dev.replay_fuses (n) : (d.replay n).fuses = d.fuses := by simp [Dev.replay]
@[simp] theorem Dev.trained_fuses (n t) : (d.trained n t).fuses = d.fuses := by simp [Dev.trained]
@[simp] theorem Dev.restartPll_fuses (n) : (d.restartPll n).fuses = d.fuses := by simp [Dev.restartPll]
@[simp] theorem Dev.retrain_fuses (n) : (d.retrain n).fuses = d.fuses := by simp [Dev.retrain]
@[simp] theorem Dev.portDrained_fuses (n) : (d.portDrained n).fuses = d.fuses := by simp [Dev.portDrained]
@[simp] theorem Dev.lanesGone_fuses (n) : (d.lanesGone n).fuses = d.fuses := by simp [Dev.lanesGone]

@[simp] theorem cmdPortRetrain_fuses (p) : (cmdPortRetrain d p).1.fuses = d.fuses := by
  simp only [cmdPortRetrain]
  repeat' split
  all_goals simp

@[simp] theorem Dev.loadRoutes_fuses (rs) : (d.loadRoutes rs).fuses = d.fuses := by simp [Dev.loadRoutes]

@[simp] theorem cmdRouteLoad_fuses (p) : (cmdRouteLoad d p).1.fuses = d.fuses := by
  grind [cmdRouteLoad, !. ends_fuses, !. Dev.whenFree_fuses, !. Dev.readBytes_fuses, Dev.loadRoutes_fuses]

/-! #### Receiving on the fabric (Machine/Receive.lean) -/

@[simp] theorem Dev.storePacket_fuses (p) : (d.storePacket p).1.fuses = d.fuses := by
  unfold Dev.storePacket
  split <;> simp

@[simp] theorem Dev.serveAccess_fuses (p) : (d.serveAccess p).fuses = d.fuses := by
  grind [Dev.serveAccess, Dev.reply_fuses, !. Dev.snoopAll_fuses, !. Dev.readBytes_fuses, Dev.answer_fuses,
    !. Dev.storePacket_fuses, Dev.fuses_mk, Dev.fuses_eta]

@[simp] theorem Dev.takeAccess_fuses (p) : (d.takeAccess p).fuses = d.fuses := by simp [Dev.takeAccess]
@[simp] theorem Dev.takeGenQuery_fuses (p) : (d.takeGenQuery p).fuses = d.fuses := by simp [Dev.takeGenQuery]
@[simp] theorem Dev.resumeStalled_fuses : d.resumeStalled.fuses = d.fuses := by simp [Dev.resumeStalled]
@[simp] theorem Dev.modEntry_fuses (i f) : (d.modEntry i f).fuses = d.fuses := by simp [Dev.modEntry]
@[simp] theorem Dev.backOff_fuses (i why) : (d.backOff i why).fuses = d.fuses := by simp [Dev.backOff]

@[simp] theorem Dev.finalAnswer_fuses (i q status data) : (d.finalAnswer i q status data).fuses = d.fuses := by
  simp only [Dev.finalAnswer]
  repeat' split
  all_goals simp

@[simp] theorem Dev.reissueOrEnd_fuses (i) : (d.reissueOrEnd i).fuses = d.fuses := by
  unfold Dev.reissueOrEnd
  split <;> simp

@[simp] theorem Dev.endQuery_fuses (j reply) : (d.endQuery j reply).fuses = d.fuses := by
  simp only [Dev.endQuery]
  repeat' split
  all_goals simp

@[simp] theorem Dev.takeAnswer_fuses (p) : (d.takeAnswer p).fuses = d.fuses := by
  simp only [Dev.takeAnswer]
  repeat' split
  all_goals simp

@[simp] theorem Dev.takeSluice_fuses (c type m) : (d.takeSluice c type m).fuses = d.fuses := by simp [Dev.takeSluice]
@[simp] theorem Dev.takeMsg_fuses (p) : (d.takeMsg p).fuses = d.fuses := by simp [Dev.takeMsg]

@[simp] theorem Dev.deliverPacket_fuses (p) : (d.deliverPacket p).fuses = d.fuses := by
  unfold Dev.deliverPacket
  split <;> simp

@[simp] theorem Dev.arrive_fuses (p) : (d.arrive p).fuses = d.fuses := by simp [Dev.arrive]
@[simp] theorem Dev.arriveAs_fuses (type p) : (d.arriveAs type p).fuses = d.fuses := by simp [Dev.arriveAs]
@[simp] theorem Dev.askGeneration_fuses (i e) : (d.askGeneration i e).fuses = d.fuses := by simp [Dev.askGeneration]

@[simp] theorem Dev.timerExpiry_fuses (i) : (d.timerExpiry i).fuses = d.fuses := by
  simp only [Dev.timerExpiry]
  repeat' split
  all_goals simp

@[simp] theorem Dev.backoffOver_fuses (i why) : (d.backoffOver i why).fuses = d.fuses := by
  simp only [Dev.backoffOver]
  repeat' split
  all_goals simp

/-! #### Hangs (Machine/Hangs.lean) -/

@[simp] theorem Dev.backInService_fuses (cls inst bump) : (d.backInService cls inst bump).fuses = d.fuses := by
  simp [Dev.backInService]

@[simp] theorem Dev.calNote_fuses (a result code kept) : (d.calNote a result code kept).fuses = d.fuses := by simp [Dev.calNote]
@[simp] theorem Dev.giveBack_fuses (us) : (d.giveBack us).fuses = d.fuses := by simp [Dev.giveBack]
@[simp] theorem Dev.drainEngine_fuses (cls inst) : (d.drainEngine cls inst).1.fuses = d.fuses := by simp [Dev.drainEngine]
@[simp] theorem Dev.drainArray_fuses (a) : (d.drainArray a).1.fuses = d.fuses := by simp [Dev.drainArray]
@[simp] theorem Dev.countStill_fuses : d.countStill.fuses = d.fuses := by simp [Dev.countStill]

@[simp] theorem Dev.resetInstance_fuses (cls inst suspects) : (d.resetInstance cls inst suspects).fuses = d.fuses := by
  simp [Dev.resetInstance]

@[simp] theorem Dev.resetController_fuses (k) : (d.resetController k).fuses = d.fuses := by
  grind [Dev.resetController, Dev.modEngine_fuses, Dev.disown_fuses, Dev.eventAll_fuses, Dev.loseJobs_fuses, Dev.fuses_mk,
    Dev.fuses_eta]

@[simp] theorem Dev.endResets_fuses : d.endResets.fuses = d.fuses := by simp [Dev.endResets]
@[simp] theorem Dev.verdict_fuses (c cls inst code) : (d.verdict c cls inst code).fuses = d.fuses := by simp [Dev.verdict]
@[simp] theorem Dev.modReplay_fuses (cls inst f) : (d.modReplay cls inst f).fuses = d.fuses := by simp [Dev.modReplay]

@[simp] theorem Dev.placeInnocent_fuses (cls inst code) : (d.placeInnocent cls inst code).fuses = d.fuses := by
  simp [Dev.placeInnocent]

@[simp] theorem Dev.nextSuspect_fuses (n cls inst) : (Dev.nextSuspect n cls inst d).fuses = d.fuses := by
  induction n generalizing d with
  | zero => rfl
  | succ n ih =>
    unfold Dev.nextSuspect
    dsimp only
    split
    · simp
    · simp [ih]

@[simp] theorem Dev.notReplayed_fuses (cls inst u) : (d.notReplayed cls inst u).fuses = d.fuses := by simp [Dev.notReplayed]
@[simp] theorem Dev.hadBegun_fuses (cls u) : (d.hadBegun cls u).1.fuses = d.fuses := by simp [Dev.hadBegun]

@[simp] theorem Dev.engineReset_fuses (cls inst) : (d.engineReset cls inst).fuses = d.fuses := by
  simp only [Dev.engineReset]
  split <;> simp

@[simp] theorem Dev.runHeld_fuses (n cls inst) : (Dev.runHeld n cls inst d).fuses = d.fuses := by
  induction n generalizing d with
  | zero => rfl
  | succ n ih =>
    unfold Dev.runHeld
    dsimp only
    rw [Dev.fuses_ite, ih]
    split
    · simp
    · split <;> simp

@[simp] theorem Dev.replayGood_fuses (cls inst c) : (d.replayGood cls inst c).fuses = d.fuses := by simp [Dev.replayGood]
@[simp] theorem Dev.stopReplay_fuses (cls inst) : (d.stopReplay cls inst).fuses = d.fuses := by simp [Dev.stopReplay]
@[simp] theorem Dev.takeOut_fuses (arrays) : (d.takeOut arrays).fuses = d.fuses := by simp [Dev.takeOut]

/-! #### Service of units (Machine/Service.lean) -/

@[simp] theorem Dev.slotRuns_fuses (i) : (d.slotRuns i).fuses = d.fuses := by simp [Dev.slotRuns]
@[simp] theorem Dev.drainController_fuses (s) : (d.drainController s).1.fuses = d.fuses := by simp [Dev.drainController]
@[simp] theorem Dev.movePc_fuses (s pc) : (d.movePc s pc).fuses = d.fuses := by simp [Dev.movePc]
@[simp] theorem Dev.upset_fuses (u) : (d.upset u).fuses = d.fuses := by simp [Dev.upset]
@[simp] theorem Dev.scrubTier_fuses (tier) : (d.scrubTier tier).fuses = d.fuses := by simp [Dev.scrubTier]
@[simp] theorem Dev.patrol_fuses (tier us) : (d.patrol tier us).fuses = d.fuses := by simp [Dev.patrol]
@[simp] theorem Dev.faultEach_fuses (p) : (d.faultEach p).fuses = d.fuses := by simp [Dev.faultEach]
@[simp] theorem Dev.losesMailbox_fuses : d.losesMailbox.fuses = d.fuses := by simp [Dev.losesMailbox]
@[simp] theorem Dev.coreRestart_fuses (core) : (d.coreRestart core).fuses = d.fuses := by simp [Dev.coreRestart]

/-! #### Firmware (Machine/Firmware.lean) -/

@[simp] theorem Sec.run_svnFuses (x : Sec) (slot : Nat) : (x.run slot).svnFuses = x.svnFuses := rfl
@[simp] theorem Sec.run_epochFuses (x : Sec) (slot : Nat) : (x.run slot).epochFuses = x.epochFuses := rfl

@[simp] theorem Sec.setImage_svnFuses (x : Sec) (slot : Nat) (img : List Byte) : (x.setImage slot img).svnFuses = x.svnFuses := by
  unfold Sec.setImage
  split <;> rfl

@[simp] theorem Sec.setImage_epochFuses (x : Sec) (slot : Nat) (img : List Byte) :
    (x.setImage slot img).epochFuses = x.epochFuses := by
  unfold Sec.setImage
  split <;> rfl

@[simp] theorem cmdFwStage_fuses (p) : (cmdFwStage d p).1.fuses = d.fuses := by
  simp only [cmdFwStage]
  split
  · simp
  split
  · simp
  refine d.whenFree_fuses _ _ fun d => ?_
  split <;> next h =>
    repeat' split
    all_goals simp [fuses_of_eq h]

@[simp] theorem cmdFwActivate_fuses (p) : (cmdFwActivate d p).1.fuses = d.fuses := by
  unfold cmdFwActivate
  split <;> simp

@[simp] theorem cmdFwQuery_fuses (p) : (cmdFwQuery d p).1.fuses = d.fuses := by simp [cmdFwQuery]
@[simp] theorem Dev.bumpCore_fuses (core) : (d.bumpCore core).fuses = d.fuses := by simp [Dev.bumpCore]

@[simp] theorem Dev.endActivation_fuses (status) : (d.endActivation status).fuses = d.fuses := by
  simp only [Dev.endActivation]
  split <;> simp

@[simp] theorem Dev.switchBack_fuses (core n) : (d.switchBack core n).fuses = d.fuses := by simp [Dev.switchBack]

@[simp] theorem Dev.coreSwitch_fuses (core ok) : (d.coreSwitch core ok).fuses = d.fuses := by
  simp only [Dev.coreSwitch]
  repeat' split
  all_goals simp

@[simp] theorem Dev.reloaded_fuses (cls inst) : (d.reloaded cls inst).fuses = d.fuses := by
  simp [Dev.reloaded]
  repeat' split
  all_goals simp [*]

@[simp] theorem Dev.microcode_fuses (cls inst) : (d.microcode cls inst).fuses = d.fuses := by
  grind [Dev.microcode, Dev.slotRuns_fuses, !. Dev.drainEngine_fuses, Dev.reloaded_fuses]

@[simp] theorem cmdUcodeLoad_fuses (p) : (cmdUcodeLoad d p).1.fuses = d.fuses := by
  simp only [cmdUcodeLoad]
  split <;> simp

@[simp] theorem Dev.adopt_fuses (c fid ctx a) : (d.adopt c fid ctx a).fuses = d.fuses := by simp [Dev.adopt]

@[simp] theorem cmdCtxAdopt_fuses (a p) : (cmdCtxAdopt a d p).1.fuses = d.fuses := by
  refine ctxCommand_fuses _ _ _ _ _ _ fun c d p => ?_
  dsimp only
  repeat' split
  all_goals simp

/-! #### Security (Machine/Security.lean) -/

@[simp] theorem recoveryOnly_fuses (ok f p) (h : ∀ d p, (f d p).1.fuses = d.fuses) :
    (recoveryOnly ok f d p).1.fuses = d.fuses := by
  simp only [recoveryOnly]
  repeat' split
  all_goals simp [h]

@[simp] theorem cmdRecoveryLoad_fuses (p) : (cmdRecoveryLoad d p).1.fuses = d.fuses := by simp [cmdRecoveryLoad]

@[simp] theorem cmdRecoveryBoot_fuses (p) : (cmdRecoveryBoot d p).1.fuses = d.fuses := by
  refine recoveryOnly_fuses _ _ _ _ fun d p => ?_
  dsimp only
  split <;> simp

@[simp] theorem cmdDeviceReset_fuses (p) : (cmdDeviceReset d p).1.fuses = d.fuses := by
  unfold cmdDeviceReset
  split <;> simp

/-! #### Standard mailbox commands (Machine/Standard.lean) -/

@[simp] theorem answers_fuses (resp) : (answers d resp).1.fuses = d.fuses := by simp [answers]
@[simp] theorem cmdStandard_fuses (op p) : (cmdStandard op d p).1.fuses = d.fuses := by simp [cmdStandard]
@[simp] theorem cmdGetEvents_fuses (p) : (cmdGetEvents d p).1.fuses = d.fuses := by simp [cmdGetEvents]
@[simp] theorem cmdClearEvents_fuses (p) : (cmdClearEvents d p).1.fuses = d.fuses := by simp [cmdClearEvents]
@[simp] theorem cmdGetTimestamp_fuses (p) : (cmdGetTimestamp d p).1.fuses = d.fuses := by simp [cmdGetTimestamp]
@[simp] theorem cmdSetTimestamp_fuses (p) : (cmdSetTimestamp d p).1.fuses = d.fuses := by simp [cmdSetTimestamp]
@[simp] theorem cmdIdentifyMemory_fuses (p) : (cmdIdentifyMemory d p).1.fuses = d.fuses := by simp [cmdIdentifyMemory]

@[simp] theorem standardCommand_fuses (op p) : (standardCommand op d p).1.fuses = d.fuses := by
  simp only [standardCommand]
  repeat' split
  all_goals simp

/-! #### Vendor opcodes (Machine/Vendor.lean) -/

@[simp] theorem cmdUnassigned_fuses (p) : (cmdUnassigned d p).1.fuses = d.fuses := by simp [cmdUnassigned]

/-! #### Clocks (Machine/Clock.lean) -/

@[simp] theorem Dev.clockLost_fuses : d.clockLost.fuses = d.fuses := by simp [Dev.clockLost]
@[simp] theorem Dev.clockStable_fuses : d.clockStable.fuses = d.fuses := by simp [Dev.clockStable]
@[simp] theorem Dev.writeHeld_fuses : d.writeHeld.fuses = d.fuses := by simp [Dev.writeHeld]

/-! #### Flits (Machine/Flits.lean) -/

@[simp] theorem Dev.arriveOn_fuses (n p) : (Dev.arriveOn n d p).fuses = d.fuses := by simp [Dev.arriveOn]
@[simp] theorem Dev.arriveAll_fuses (n ps) : (d.arriveAll n ps).fuses = d.fuses := by simp [Dev.arriveAll]
@[simp] theorem Dev.badCodeword_fuses (n) : (d.badCodeword n).fuses = d.fuses := by simp [Dev.badCodeword]
@[simp] theorem Dev.badFlit_fuses (n ok) : (d.badFlit n ok).fuses = d.fuses := by simp [Dev.badFlit]
@[simp] theorem Dev.takeCredits_fuses (n f) : (d.takeCredits n f).fuses = d.fuses := by simp [Dev.takeCredits]
@[simp] theorem Dev.takeAck_fuses (n ack nak) : (d.takeAck n ack nak).fuses = d.fuses := by simp [Dev.takeAck]
@[simp] theorem Dev.sendNak_fuses (n) : (d.sendNak n).fuses = d.fuses := by simp [Dev.sendNak]
@[simp] theorem Dev.dataFlit_fuses (n seq f) : (d.dataFlit n seq f).fuses = d.fuses := by simp [Dev.dataFlit]
@[simp] theorem Dev.flitReceive_fuses (n ok f) : (d.flitReceive n ok f).fuses = d.fuses := by simp [Dev.flitReceive]
@[simp] theorem Dev.bulkFlit_fuses (n ok f) : (d.bulkFlit n ok f).fuses = d.fuses := by simp [Dev.bulkFlit]

@[simp] theorem Dev.sendControl_fuses (n) : (d.sendControl n).fuses = d.fuses := by
  unfold Dev.sendControl
  rw [Dev.emit_fuses, Dev.modPort_fuses, Dev.modLat_fuses]

@[simp] theorem Dev.deliverHeld_fuses (k n) : (Dev.deliverHeld k n d).fuses = d.fuses := by
  induction k generalizing d with
  | zero => rfl
  | succ k ih =>
    unfold Dev.deliverHeld
    dsimp only
    split <;> simp [ih]

@[simp] theorem Dev.privilegedFlit_fuses (n ok f) : (d.privilegedFlit n ok f).fuses = d.fuses := by simp [Dev.privilegedFlit]
@[simp] theorem Dev.resend_fuses (n byMap p) : (d.resend n byMap p).fuses = d.fuses := by simp [Dev.resend]

@[simp] theorem Dev.controlFlit_fuses (n cum held) : (d.controlFlit n cum held).fuses = d.fuses := by
  unfold Dev.controlFlit
  split
  · rfl
  · rw [Dev.pump_fuses, Dev.resend_fuses, Dev.modPort_fuses, Dev.modLat_fuses]

@[simp] theorem Dev.ackTick_fuses (n) : (d.ackTick n).fuses = d.fuses := by simp [Dev.ackTick]
@[simp] theorem Dev.resendTimer_fuses (n) : (d.resendTimer n).fuses = d.fuses := by simp [Dev.resendTimer]

/-! #### Start-up (Machine/StartUp.lean) -/

@[simp] theorem Dev.resetAndClose_fuses (c) : (d.resetAndClose c).fuses = d.fuses := by simp [Dev.resetAndClose]
@[simp] theorem Dev.imageFound_fuses (slot fallback) : (d.imageFound slot fallback).fuses = d.fuses := by simp [Dev.imageFound]

@[simp] theorem Dev.hbmTrained_fuses (trained) : (d.hbmTrained trained).fuses = d.fuses := by
  simp only [Dev.hbmTrained]
  repeat' split
  all_goals simp

@[simp] theorem Dev.activate_fuses : d.activate.fuses = d.fuses := by simp [Dev.activate]

/-! #### The host link (Machine/HostLink.lean) -/

@[simp] theorem Dev.configure_fuses (r) : (d.configure r).fuses = d.fuses := by
  simp only [Dev.configure]
  repeat' split
  all_goals simp

@[simp] theorem Dev.doeRequest_fuses (type object) : (d.doeRequest type object).fuses = d.fuses := by simp [Dev.doeRequest]
@[simp] theorem Dev.programKey_fuses (s x set) : (d.programKey s x set).fuses = d.fuses := by simp [Dev.programKey]
@[simp] theorem Dev.keyProg_fuses (s x set) : (d.keyProg s x set).fuses = d.fuses := by simp [Dev.keyProg]
@[simp] theorem Dev.keySwitch_fuses (s x) : (d.keySwitch s x).fuses = d.fuses := by simp [Dev.keySwitch]
@[simp] theorem Dev.ideFailure_fuses (s) : (d.ideFailure s).fuses = d.fuses := by simp [Dev.ideFailure]

/-! #### The watermaster (Machine/Watermaster.lean) -/

@[simp] theorem Dev.modMeter_fuses (f) : (d.modMeter f).fuses = d.fuses := by simp [Dev.modMeter]
@[simp] theorem Dev.markerDone_fuses (c seq) : (d.markerDone c seq).fuses = d.fuses := by simp [Dev.markerDone]

@[simp] theorem Dev.markerReceipt_fuses : d.markerReceipt.fuses = d.fuses := by
  unfold Dev.markerReceipt
  split <;> simp

@[simp] theorem Dev.markerTimeout_fuses (c seq) : (d.markerTimeout c seq).fuses = d.fuses := by
  simp only [Dev.markerTimeout]
  split <;> simp

@[simp] theorem Dev.onI3c_fuses (f) : (d.onI3c f).fuses = d.fuses := by simp [Dev.onI3c]
@[simp] theorem Dev.meterCommit_fuses (p) : (d.meterCommit p).fuses = d.fuses := by simp [Dev.meterCommit]
@[simp] theorem Dev.sealMeter_fuses : d.sealMeter.fuses = d.fuses := by simp [Dev.sealMeter]
@[simp] theorem Dev.meterStart_fuses : d.meterStart.fuses = d.fuses := by simp [Dev.meterStart]
@[simp] theorem Dev.meterCopy_fuses (strap) : (d.meterCopy strap).fuses = d.fuses := by simp [Dev.meterCopy]

/-! #### Register writes (Machine/Registers.lean) -/

@[simp] theorem Dev.writeCtx_fuses (c o width v) : (d.writeCtx c o width v).fuses = d.fuses := by simp [Dev.writeCtx]
@[simp] theorem Dev.writeMxa_fuses (o width v) : (d.writeMxa o width v).fuses = d.fuses := by simp [Dev.writeMxa]
@[simp] theorem Dev.writeVxe_fuses (o width v) : (d.writeVxe o width v).fuses = d.fuses := by simp [Dev.writeVxe]
@[simp] theorem Dev.writeFlm_fuses (o width v) : (d.writeFlm o width v).fuses = d.fuses := by simp [Dev.writeFlm]
@[simp] theorem Dev.writeRsv_fuses (o width v) : (d.writeRsv o width v).fuses = d.fuses := by simp [Dev.writeRsv]
@[simp] theorem Dev.writeUpd_fuses (o width v) : (d.writeUpd o width v).fuses = d.fuses := by simp [Dev.writeUpd]

@[simp] theorem Dev.writeSlc_fuses (o width v) : (d.writeSlc o width v).fuses = d.fuses := by
  unfold Dev.writeSlc
  split <;> simp

@[simp] theorem Dev.writeRed_fuses (o width v) : (d.writeRed o width v).fuses = d.fuses := by simp [Dev.writeRed]
@[simp] theorem Dev.writeFabCtrl_fuses (v) : (d.writeFabCtrl v).fuses = d.fuses := by simp [Dev.writeFabCtrl]
@[simp] theorem Dev.writePortCtrl_fuses (n v) : (d.writePortCtrl n v).fuses = d.fuses := by simp [Dev.writePortCtrl]
@[simp] theorem Dev.writeRoute_fuses (n v) : (d.writeRoute n v).fuses = d.fuses := by simp [Dev.writeRoute]
@[simp] theorem Dev.clearChanges_fuses (n v) : (d.clearChanges n v).fuses = d.fuses := by simp [Dev.clearChanges]
@[simp] theorem Dev.writeWeights_fuses (v) : (d.writeWeights v).fuses = d.fuses := by simp [Dev.writeWeights]

@[simp] theorem Dev.writeFab_fuses (o width v) : (d.writeFab o width v).fuses = d.fuses := by
  simp only [Dev.writeFab]
  repeat' split
  all_goals simp

@[simp] theorem Dev.writeLat_fuses (o width v) : (d.writeLat o width v).fuses = d.fuses := by
  simp only [Dev.writeLat]
  repeat' split
  all_goals simp

@[simp] theorem Dev.writeTrn_fuses (o width v) : (d.writeTrn o width v).fuses = d.fuses := by
  simp only [Dev.writeTrn]
  repeat' split
  all_goals simp

@[simp] theorem Dev.writeSip_fuses (o width v) : (d.writeSip o width v).fuses = d.fuses := by simp [Dev.writeSip]

@[simp] theorem Dev.writeLdg_fuses (o width v) : (d.writeLdg o width v).fuses = d.fuses := by
  simp only [Dev.writeLdg]
  repeat' split
  all_goals simp

@[simp] theorem Dev.writeHg_fuses (o width v) : (d.writeHg o width v).fuses = d.fuses := by simp [Dev.writeHg]
@[simp] theorem Dev.writeClk_fuses (o width v) : (d.writeClk o width v).fuses = d.fuses := by simp [Dev.writeClk]
@[simp] theorem Dev.writeSec_fuses (o width v) : (d.writeSec o width v).fuses = d.fuses := by simp [Dev.writeSec]

@[simp] theorem Dev.writeCis_fuses (o width v) : (d.writeCis o width v).fuses = d.fuses := by
  simp only [Dev.writeCis]
  repeat' split
  all_goals simp

/-! #### The tick (Machine/Tick.lean) -/

@[simp] theorem Dev.count_fuses : d.count.fuses = d.fuses := by simp [Dev.count]
@[simp] theorem Dev.headgateTick_fuses : d.headgateTick.fuses = d.fuses := by simp [Dev.headgateTick]

end

/-! ## The order of fuses -/

/-- Every fuse blown in `f` is blown in `g`, and what was fixed at test is the same. -/
structure Fuses.Le (f g : Fuses) : Prop where
  testDisabled : g.testDisabled = f.testDisabled
  marked : g.marked = f.marked
  retired : ∀ a : Fin 64, f.retired.getLsbD a.val = true → g.retired.getLsbD a.val = true
  retiredPc : ∀ (s : Fin 12) (pc : Fin 32), f.retiredPc[s].getLsbD pc.val = true → g.retiredPc[s].getLsbD pc.val = true
  windows : ∀ s : Fin 12, f.windows[s] ≤ g.windows[s]
  svnFuses : f.svnFuses ≤ g.svnFuses
  epochFuses : f.epochFuses ≤ g.epochFuses

@[simp] theorem Fuses.le_refl (f : Fuses) : f.Le f :=
  ⟨rfl, rfl, fun _ h => h, fun _ _ h => h, fun _ => Nat.le_refl _, Nat.le_refl _, Nat.le_refl _⟩

theorem Fuses.Le.trans {f g h : Fuses} (a : f.Le g) (b : g.Le h) : f.Le h where
  testDisabled := b.testDisabled.trans a.testDisabled
  marked := b.marked.trans a.marked
  retired := fun i x => b.retired i (a.retired i x)
  retiredPc := fun s pc x => b.retiredPc s pc (a.retiredPc s pc x)
  windows := fun s => Nat.le_trans (a.windows s) (b.windows s)
  svnFuses := Nat.le_trans a.svnFuses b.svnFuses
  epochFuses := Nat.le_trans a.epochFuses b.epochFuses

@[simp] theorem Fuses.le_ite (c : Prop) [Decidable c] (f g h : Fuses) :
    f.Le (if c then g else h) ↔ (c → f.Le g) ∧ (¬ c → f.Le h) := by
  split <;> simp [*]

/-! The ways in which the block blows a fuse. -/

theorem Fuses.le_retireArray (f : Fuses) (a : Nat) : f.Le { f with retired := f.retired ||| (1#64 <<< a) } := by
  refine { f.le_refl with retired := fun i h => ?_ }
  simp only [BitVec.getLsbD_or, h, Bool.true_or]

theorem Fuses.le_retirePc (f : Fuses) (s pc : Nat) :
    f.Le { f with retiredPc := modVec f.retiredPc s fun v => v ||| (1#32 <<< pc) } := by
  refine { f.le_refl with retiredPc := fun i p h => ?_ }
  simp only [Fin.getElem_fin, modVec_get] at h ⊢
  split
  · simp only [BitVec.getLsbD_or, h, Bool.true_or]
  · exact h

theorem Fuses.le_removeWindow (f : Fuses) (s : Nat) : f.Le { f with windows := modVec f.windows s (· + 1) } := by
  refine { f.le_refl with windows := fun i => ?_ }
  simp only [Fin.getElem_fin, modVec_get]
  split <;> omega

theorem Fuses.le_svn (f : Fuses) (n : Nat) : f.Le { f with svnFuses := max f.svnFuses n } :=
  { f.le_refl with svnFuses := Nat.le_max_left _ _ }

theorem Fuses.le_epoch (f : Fuses) {n : Nat} (h : f.epochFuses ≤ n) : f.Le { f with epochFuses := n } :=
  { f.le_refl with epochFuses := h }

/-! ## Operations that blow fuses, and what calls them

Each lemma goes on from fuses `f` of an earlier state, so that `simp` chains them as it chains the equations above. -/

section

variable (d : Dev) {f : Fuses}

theorem foldl_le {α : Type} (g : Dev → α → Dev) (hg : ∀ d a, f.Le d.fuses → f.Le (g d a).fuses) (l : List α)
    (h : f.Le d.fuses) : f.Le (l.foldl g d).fuses := by
  induction l generalizing d with
  | nil => exact h
  | cons a l ih => exact ih _ (hg d a h)

/-! #### Arrays (R57 to R59, R407) -/

theorem Dev.retireArray_fuses (a bump) :
    (d.retireArray a bump).fuses = { d.fuses with retired := d.fuses.retired ||| (1#64 <<< a) } := by
  have h : (d.retireArray a bump).fuses = { (d.backInService 1 a bump).fuses with
      retired := (d.backInService 1 a bump).fuses.retired ||| (1#64 <<< a) } := Dev.deviceEvent_fuses _ _ _
  rw [h, Dev.backInService_fuses]

@[simp] theorem Dev.retireArray_le (a bump) (h : f.Le d.fuses) : f.Le (d.retireArray a bump).fuses := by
  rw [Dev.retireArray_fuses]
  exact h.trans (Fuses.le_retireArray _ a)

@[simp] theorem Dev.calibrate_le (a r bump) (h : f.Le d.fuses) : f.Le (d.calibrate a r bump).fuses := by
  simp only [Dev.calibrate]
  split
  · simp [h]
  · split <;> simp [h]

@[simp] theorem Dev.judgedRecalibration_le (a r) (h : f.Le d.fuses) : f.Le (d.judgedRecalibration a r).fuses := by
  simp only [Dev.judgedRecalibration]
  split
  · exact h
  split <;> next hd =>
    repeat' split
    all_goals simp [fuses_of_eq hd, h]

@[simp] theorem Dev.judgeFaulty_le (cls inst ok cal) (h : f.Le d.fuses) : f.Le (d.judgeFaulty cls inst ok cal).fuses := by
  simp only [Dev.judgeFaulty]
  repeat' split
  all_goals simp [h]

@[simp] theorem Dev.replayHung_le (cls inst c ok cal) (h : f.Le d.fuses) : f.Le (d.replayHung cls inst c ok cal).fuses := by
  simp [Dev.replayHung, h]

@[simp] theorem Dev.arrayRetirement_le (a) (h : f.Le d.fuses) : f.Le (d.arrayRetirement a).fuses := by
  simp only [Dev.arrayRetirement]
  split
  · exact h
  split
  · exact h
  split
  · simp [h]
  split
  · simp [h]
  split <;> next hd => simp [fuses_of_eq hd, h]

@[simp] theorem Dev.arrayRecalibration_le (a r) (h : f.Le d.fuses) : f.Le (d.arrayRecalibration a r).fuses := by
  simp only [Dev.arrayRecalibration]
  split
  · simp [h]
  split
  · exact h
  split
  · simp [h]
  split
  · exact h
  split <;> next hd => simp [fuses_of_eq hd, h]

@[simp] theorem Dev.periodicDrain_le (a r) (h : f.Le d.fuses) : f.Le (d.periodicDrain a r).fuses := by
  simp only [Dev.periodicDrain]
  split
  · exact h
  split <;> next hd => simp [fuses_of_eq hd, h]

@[simp] theorem Dev.periodic_le (r) (h : f.Le d.fuses) : f.Le (d.periodic r).fuses := by
  unfold Dev.periodic
  split
  · exact d.periodicDrain_le _ _ h
  split
  · exact h
  split
  · exact h
  split
  · exact h
  split
  · exact h
  · exact Dev.periodicDrain_le _ _ _ h

@[simp] theorem Dev.startArrays_le (r) (h : f.Le d.fuses) : f.Le (d.startArrays r).fuses := by
  unfold Dev.startArrays
  split
  · exact h
  · exact foldl_le d _ (fun e a he => by split <;> simp [he]) _ h

/-! #### Pseudo-channels (R145, R146) -/

theorem Dev.removeWindow_fuses (s) :
    (d.removeWindow s).fuses = { d.fuses with windows := modVec d.fuses.windows s (· + 1) } := rfl

@[simp] theorem Dev.finishRetirement_le (s pc) (h : f.Le d.fuses) : f.Le (d.finishRetirement s pc).fuses := by
  have moved : f.Le ((d.removeWindow s).movePc s pc).fuses := by
    rw [Dev.movePc_fuses, Dev.removeWindow_fuses]
    exact h.trans (Fuses.le_removeWindow _ s)
  have blown := moved.trans (Fuses.le_retirePc _ s pc)
  unfold Dev.finishRetirement
  generalize (d.removeWindow s).movePc s pc = e at blown
  dsimp only
  split
  · rw [Dev.serviceEnd_fuses, Dev.deviceEvent_fuses, Dev.backInService_fuses]
    exact blown
  · rw [Dev.deviceEvent_fuses, Dev.backInService_fuses]
    exact blown

@[simp] theorem Dev.pcRetirement_le (s pc) (h : f.Le d.fuses) : f.Le (d.pcRetirement s pc).fuses := by
  unfold Dev.pcRetirement
  cases hslot : d.serviceSlot 0xC012 (256 * s + pc) <;> cases hr : d.rsv.retiring <;> dsimp only [Option.isSome]
  all_goals
    split
    · exact h
  all_goals simp only [hr, Bool.false_eq_true, if_true, if_false]
  all_goals
    split
    · simpa using h
  all_goals split <;> next hd => simp [fuses_of_eq hd, h]

/-! #### Keys and firmware (R435, R440 to R442) -/

theorem Sec.startLeaves_le (x : Sec) : x.epochFuses ≤ x.startLeaves.epochFuses ∧ x.startLeaves.svnFuses = x.svnFuses := by
  unfold Sec.startLeaves
  dsimp only
  split
  · exact ⟨Nat.le_refl _, rfl⟩
  split
  · exact ⟨Nat.le_refl _, rfl⟩
  · exact ⟨Nat.le_succ _, rfl⟩

theorem Sec.takeLeaf_le {x y : Sec} {n : Nat} (h : x.takeLeaf = some (n, y)) :
    x.epochFuses ≤ y.epochFuses ∧ y.svnFuses = x.svnFuses := by
  unfold Sec.takeLeaf at h
  split at h
  · cases h
  · cases h
    dsimp only
    split <;> exact ⟨Nat.le_max_left _ _, rfl⟩

theorem Sec.issueAlias_le (x : Sec) : x.epochFuses ≤ x.issueAlias.epochFuses ∧ x.issueAlias.svnFuses = x.svnFuses := by
  unfold Sec.issueAlias
  split
  · exact ⟨Nat.le_refl _, rfl⟩
  split
  · exact ⟨Nat.le_refl _, rfl⟩
  · next h =>
    obtain ⟨he, hs⟩ := Sec.takeLeaf_le h
    exact ⟨he, hs⟩

/-- A record of the keys with leaf fuses blown takes the place of the old one. -/
theorem Dev.le_setSec (x : Sec) (hx : d.sec.epochFuses ≤ x.epochFuses ∧ x.svnFuses = d.sec.svnFuses) (h : f.Le d.fuses) :
    f.Le { d.fuses with svnFuses := x.svnFuses, epochFuses := x.epochFuses } := by
  rw [hx.2]
  exact h.trans (Fuses.le_epoch _ hx.1)

@[simp] theorem Dev.deriveKeys_le (h : f.Le d.fuses) : f.Le d.deriveKeys.fuses := by
  unfold Dev.deriveKeys
  split
  · exact h
  · obtain ⟨s1, s2⟩ := Sec.startLeaves_le d.sec
    obtain ⟨a1, a2⟩ := Sec.issueAlias_le d.sec.startLeaves
    exact d.le_setSec _ ⟨Nat.le_trans s1 a1, a2.trans s2⟩ h

@[simp] theorem cmdAttestReport_le (p) (h : f.Le d.fuses) : f.Le (cmdAttestReport d p).1.fuses := by
  simp only [cmdAttestReport, Dev.whenFree]
  split
  · simp [h]
  split
  · simp [h]
  split
  · simp [h]
  split
  · next hd => simp [fuses_of_eq hd, h]
  next e hd =>
  have he : f.Le e.fuses := by simp [fuses_of_eq hd, h]
  split
  · simp [he]
  · next leaf => 
    rw [Dev.writeBytes_fuses]
    exact e.le_setSec _ (Sec.takeLeaf_le leaf) he

@[simp] theorem cmdFwCommit_le (p) (h : f.Le d.fuses) : f.Le (cmdFwCommit d p).1.fuses := by
  unfold cmdFwCommit
  dsimp only
  split
  · simp [h]
  split
  · simp [h]
  generalize (if d.sec.staged && d.sec.stagedCold then d.sec.otherSlot else d.sec.runSlot) = slot
  split
  · simp [h]
  · exact h.trans (Fuses.le_svn _ _)

/-! #### The mailbox (R188, R189) -/

@[simp] theorem Dev.answered_fuses (a) : (d.answered a).fuses = d.fuses := by
  unfold Dev.answered
  dsimp only
  split <;> simp

/-- Whatever the payload, the command leaves every fuse blown. -/
def Command.KeepsFuses (g : Command) : Prop := ∀ (d : Dev) p, d.fuses.Le (g d p).1.fuses

theorem Command.KeepsFuses.of_eq {g : Command} (h : ∀ (d : Dev) p, (g d p).1.fuses = d.fuses) : g.KeepsFuses :=
  fun d p => (h d p).symm ▸ d.fuses.le_refl

@[simp] theorem Dev.runCommand_le (op) (g : Command) (hg : g.KeepsFuses) (h : f.Le d.fuses) : f.Le (d.runCommand op g).fuses := by
  have ran {e e' : Dev} {p a} (hc : g e p = (e', a)) (he : f.Le e.fuses) : f.Le e'.fuses := by
    rw [fuses_of_eq hc]
    exact he.trans (hg e p)
  unfold Dev.runCommand
  dsimp only
  split
  · simp [h]
  split
  · exact h
  · simp [h]
  split
  · next hc => exact ran hc h
  · next e a hc =>
    change f.Le (e.answered a).fuses
    rw [Dev.answered_fuses]
    exact ran hc h

@[simp] theorem Dev.submit_le (op p) (g : Command) (hg : g.KeepsFuses) (h : f.Le d.fuses) : f.Le (d.submit op p g).fuses := by
  unfold Dev.submit
  split
  · exact h
  · exact Dev.runCommand_le _ _ _ hg h

theorem cmdFwCommit_keepsFuses : Command.KeepsFuses cmdFwCommit := fun d p => cmdFwCommit_le d p d.fuses.le_refl
theorem cmdAttestReport_keepsFuses : Command.KeepsFuses cmdAttestReport := fun d p => cmdAttestReport_le d p d.fuses.le_refl

/-- The commands of a table of opcodes keep the fuses if its first entry and the rest do. -/
theorem keepsFuses_orElse {c : Prop} [Decidable c] {k : Command} {o : Option Command} (hk : k.KeepsFuses)
    (ho : ∀ g : Command, o = some g → g.KeepsFuses) (g : Command) (h : (if c then some k else o) = some g) : g.KeepsFuses := by
  split at h
  · cases h
    exact hk
  · exact ho g h

theorem contextCommand_keepsFuses (op : Nat) : ∀ g : Command, contextCommand op = some g → g.KeepsFuses :=
  keepsFuses_orElse (.of_eq cmdCtxCreate_fuses) <|
  keepsFuses_orElse (.of_eq cmdCtxStart_fuses) <|
  keepsFuses_orElse (.of_eq cmdCtxHold_fuses) <|
  keepsFuses_orElse (.of_eq cmdCtxResume_fuses) <|
  keepsFuses_orElse (.of_eq cmdCtxDrain_fuses) <|
  keepsFuses_orElse (.of_eq cmdCtxReset_fuses) <|
  keepsFuses_orElse (.of_eq cmdCtxRearm_fuses) <|
  keepsFuses_orElse (.of_eq cmdCtxClose_fuses) <|
  keepsFuses_orElse (.of_eq cmdArrayRetire_fuses) <|
  keepsFuses_orElse (.of_eq cmdArrayRecal_fuses) <|
  keepsFuses_orElse (.of_eq cmdPcRetire_fuses) <|
  fun _ h => nomatch h

theorem jobCommand_keepsFuses (op : Nat) : ∀ g : Command, jobCommand op = some g → g.KeepsFuses :=
  keepsFuses_orElse (.of_eq cmdShardRegister_fuses) <|
  keepsFuses_orElse (.of_eq cmdShardRelease_fuses) <|
  keepsFuses_orElse (.of_eq cmdShardQuery_fuses) <|
  keepsFuses_orElse (.of_eq cmdOutcomeQuery_fuses) <|
  keepsFuses_orElse (.of_eq cmdRingSet_fuses) <|
  keepsFuses_orElse (.of_eq cmdRollback_fuses) <|
  keepsFuses_orElse (.of_eq cmdPortRetrain_fuses) <|
  keepsFuses_orElse (.of_eq cmdRouteLoad_fuses) <|
  keepsFuses_orElse (.of_eq cmdTrnEnrol_fuses) <|
  keepsFuses_orElse (.of_eq cmdTrnWithdraw_fuses) <|
  keepsFuses_orElse (.of_eq cmdAllotSet_fuses) <|
  keepsFuses_orElse (.of_eq cmdAllotGet_fuses) <|
  fun _ h => nomatch h

theorem systemCommand_keepsFuses (op : Nat) : ∀ g : Command, systemCommand op = some g → g.KeepsFuses :=
  keepsFuses_orElse (.of_eq cmdFwStage_fuses) <|
  keepsFuses_orElse (.of_eq cmdFwActivate_fuses) <|
  keepsFuses_orElse cmdFwCommit_keepsFuses <|
  keepsFuses_orElse (.of_eq cmdFwQuery_fuses) <|
  keepsFuses_orElse (.of_eq cmdUcodeLoad_fuses) <|
  keepsFuses_orElse (.of_eq fun d => cmdCtxAdopt_fuses d _) <|
  keepsFuses_orElse cmdAttestReport_keepsFuses <|
  keepsFuses_orElse (.of_eq cmdRecoveryLoad_fuses) <|
  keepsFuses_orElse (.of_eq cmdRecoveryBoot_fuses) <|
  keepsFuses_orElse (.of_eq cmdDeviceReset_fuses) <|
  keepsFuses_orElse (.of_eq cmdCisInfo_fuses) <|
  keepsFuses_orElse (.of_eq cmdCisFormat_fuses) <|
  keepsFuses_orElse (.of_eq cmdCisCheckpoint_fuses) <|
  keepsFuses_orElse (.of_eq cmdCisList_fuses) <|
  keepsFuses_orElse (.of_eq cmdCisDiscard_fuses) <|
  keepsFuses_orElse (.of_eq cmdCisFetch_fuses) <|
  keepsFuses_orElse (.of_eq cmdCisJournalRead_fuses) <|
  fun _ h => nomatch h

theorem mailboxCommand_keepsFuses (op : Nat) : (mailboxCommand op).KeepsFuses := by
  unfold mailboxCommand
  split
  · cases hv : vendorCommand op with
    | none => exact fun d p => by simp
    | some g =>
      simp only [vendorCommand, Option.or_eq_some_iff] at hv
      obtain (h | ⟨-, h⟩) | ⟨-, h⟩ := hv
      · exact contextCommand_keepsFuses op g h
      · exact jobCommand_keepsFuses op g h
      · exact systemCommand_keepsFuses op g h
  · exact fun d p => by simp

/-! #### What runs a mailbox command again, and register writes -/

@[simp] theorem Dev.takeCommand_le (h : f.Le d.fuses) : f.Le d.takeCommand.fuses := by
  simp [Dev.takeCommand, h, mailboxCommand_keepsFuses]

@[simp] theorem Dev.resumeWork_le (h : f.Le d.fuses) : f.Le d.resumeWork.fuses := by simp [Dev.resumeWork, h]

@[simp] theorem Dev.clockBack_le (h : f.Le d.fuses) : f.Le d.clockBack.fuses := by simp [Dev.clockBack, h]

@[simp] theorem Dev.locked_le (h : f.Le d.fuses) : f.Le d.locked.fuses := by simp [Dev.locked, h]

@[simp] theorem Dev.pllLocked_le (k) (h : f.Le d.fuses) : f.Le (d.pllLocked k).fuses := by simp [Dev.pllLocked, h]

@[simp] theorem Dev.enterRecovery_le (h : f.Le d.fuses) : f.Le d.enterRecovery.fuses := by simp [Dev.enterRecovery, h]

@[simp] theorem Dev.bootVerify_le (h : f.Le d.fuses) : f.Le d.bootVerify.fuses := by simp [Dev.bootVerify, h]

@[simp] theorem Dev.firmwareUp_le (h : f.Le d.fuses) : f.Le d.firmwareUp.fuses := by simp [Dev.firmwareUp, h]

@[simp] theorem Dev.birsp_le (l) (h : f.Le d.fuses) : f.Le (d.birsp l).fuses := by simp [Dev.birsp, h]

@[simp] theorem Dev.writeMbxCtrl_le (v) (h : f.Le d.fuses) : f.Le (d.writeMbxCtrl v).fuses := by
  simp [Dev.writeMbxCtrl, h, mailboxCommand_keepsFuses]

@[simp] theorem Dev.writeMbx_le (o w v) (h : f.Le d.fuses) : f.Le (d.writeMbx o w v).fuses := by
  unfold Dev.writeMbx
  split
  · simp [h]
  split
  · simp [h]
  split <;> simp [h]

@[simp] theorem Dev.writeBar0_le (o w v) (h : f.Le d.fuses) : f.Le (d.writeBar0 o w v).fuses := by
  unfold Dev.writeBar0
  dsimp only
  split <;> simp [h]

@[simp] theorem Dev.writeReg_le (b o w v) (h : f.Le d.fuses) : f.Le (d.writeReg b o w v).fuses := by
  unfold Dev.writeReg
  repeat' split
  all_goals simp [h]

/-! #### The tick -/

@[simp] theorem tick_le (h : f.Le d.fuses) : f.Le (tick d).fuses := by simp [tick, h]

end

/-! ## Steps -/

/-- Every fuse blown in a state is blown in the state that an outcome goes on to, if it does. -/
def KeepsFuses (s : State) (o : Host.Outcome State Fault Refusal) : Prop := ∀ t, o = .next t → s.dev.fuses.Le t.dev.fuses

@[simp] theorem keepsFuses_done (s : State) (d : Dev) : KeepsFuses s (done s d) ↔ s.dev.fuses.Le d.fuses :=
  ⟨fun h => h _ rfl, fun h _ ht => by cases ht; exact h⟩

@[simp] theorem keepsFuses_next (s : State) : KeepsFuses s (.next s) := fun _ h => by
  cases h
  exact s.dev.fuses.le_refl

@[simp] theorem keepsFuses_ite (s : State) (c : Prop) [Decidable c] (o p : Host.Outcome State Fault Refusal) :
    KeepsFuses s (if c then o else p) ↔ (c → KeepsFuses s o) ∧ (¬ c → KeepsFuses s p) := by
  split <;> simp [*]

@[simp] theorem Command.keepsFuses_iff (g : Command) : g.KeepsFuses ↔ ∀ (d : Dev) p, d.fuses.Le (g d p).1.fuses := Iff.rfl

/-- No command clears a fuse: each row's work is one of the operations above, or there is nothing to do. -/
theorem exec_keepsFuses (i : Instr) (s : State) : KeepsFuses s (exec i s) := by
  cases i with
  | nop => simp [exec, execNop]
  | marker => simp [exec, execMarker]
  | arrayOp => simp [exec, execArrayOp]
  | flumeOp => simp [exec, execFlumeOp]
  | vectorOp => simp [exec, execVectorOp]
  | move => simp [exec, execMove]
  | stepBegin => simp [exec, execStepBegin]
  | stepEnd => simp [exec, execStepEnd]
  | reduce => simp [exec, execReduce]
  | update => simp [exec, execUpdate]
  | shardExport => simp [exec, execShardExport]
  | shardImport => simp [exec, execShardImport]
  | siphonSave => simp [exec, execSiphonSave]
  | siphonLoad => simp [exec, execSiphonLoad]
  | stageSend => simp [exec, execStageSend]
  | outerRound => simp [exec, execOuterRound]
  | ringEntryRead => simp [exec, execRingEntryRead]
  | ctxDoorbell => simp [exec, execCtxDoorbell]
  | ctxCreate => simp [exec, execCtxCreate]
  | ctxStart => simp [exec, execCtxStart]
  | ctxHold => simp [exec, execCtxHold]
  | ctxResume => simp [exec, execCtxResume]
  | ctxDrain => simp [exec, execCtxDrain]
  | ctxReset => simp [exec, execCtxReset]
  | ctxRearm => simp [exec, execCtxRearm]
  | ctxClose => simp [exec, execCtxClose]
  | arrayRetire => simp [exec, execArrayRetire]
  | arrayRecal => simp [exec, execArrayRecal]
  | pcRetire => simp [exec, execPcRetire]
  | shardRegister => simp [exec, execShardRegister]
  | shardRelease => simp [exec, execShardRelease]
  | shardQuery => simp [exec, execShardQuery]
  | outcomeQuery => simp [exec, execOutcomeQuery]
  | ringSet => simp [exec, execRingSet]
  | rollback => simp [exec, execRollback]
  | portRetrain => simp [exec, execPortRetrain]
  | routeLoad => simp [exec, execRouteLoad]
  | trnEnrol => simp [exec, execTrnEnrol]
  | trnWithdraw => simp [exec, execTrnWithdraw]
  | allotSet => simp [exec, execAllotSet]
  | allotGet => simp [exec, execAllotGet]
  | fwStage => simp [exec, execFwStage]
  | fwActivate => simp [exec, execFwActivate]
  | fwCommit => simp [exec, execFwCommit]
  | fwQuery => simp [exec, execFwQuery]
  | ucodeLoad => simp [exec, execUcodeLoad]
  | ctxAdopt => simp [exec, execCtxAdopt]
  | attestReport => simp [exec, execAttestReport]
  | recoveryLoad => simp [exec, execRecoveryLoad]
  | recoveryBoot => simp [exec, execRecoveryBoot]
  | deviceReset => simp [exec, execDeviceReset]
  | cisInfo => simp [exec, execCisInfo]
  | cisFormat => simp [exec, execCisFormat]
  | cisCheckpoint => simp [exec, execCisCheckpoint]
  | cisList => simp [exec, execCisList]
  | cisDiscard => simp [exec, execCisDiscard]
  | cisFetch => simp [exec, execCisFetch]
  | cisJournalRead => simp [exec, execCisJournalRead]
  | unassignedVendorOpcode => simp [exec, execUnassignedVendorOpcode]
  | identify => simp [exec, execIdentify]
  | getEventRecords => simp [exec, execGetEventRecords]
  | clearEventRecords => simp [exec, execClearEventRecords]
  | getTimestamp => simp [exec, execGetTimestamp]
  | setTimestamp => simp [exec, execSetTimestamp]
  | getSupportedLogs => simp [exec, execGetSupportedLogs]
  | getLog => simp [exec, execGetLog]
  | identifyMemoryDevice => simp [exec, execIdentifyMemoryDevice]
  | unsupportedStandardOpcode => simp [exec, execUnsupportedStandardOpcode]
  | mbxSvcFree => simp [exec, execMbxSvcFree]
  | ldgCopyStart => simp [exec, execLdgCopyStart]
  | clkTbSet => simp [exec, execClkTbSet]
  | portEnable => simp [exec, execPortEnable]
  | registerWrite => simp [exec, execRegisterWrite]
  | arrayPassComplete => simp [exec, execArrayPassComplete]
  | flumePassComplete => simp [exec, execFlumePassComplete]
  | vectorChunkComplete => simp [exec, execVectorChunkComplete]
  | culvertPieceComplete => simp [exec, execCulvertPieceComplete]
  | unitDispatch => simp [exec, execUnitDispatch]
  | commandIssue => simp [exec, execCommandIssue]
  | patrolScrub => simp [exec, execPatrolScrub]
  | updateEntryRun =>
    simp only [exec, execUpdateEntryRun]
    split <;> simp
  | updateEntryComplete =>
    simp only [exec, execUpdateEntryComplete]
    split <;> simp
  | slowTierStall => simp [exec, execSlowTierStall]
  | exportComplete =>
    simp only [exec, execExportComplete]
    split <;> simp
  | readyMark => simp [exec, execReadyMark]
  | token => simp [exec, execToken]
  | abortVote => simp [exec, execAbortVote]
  | decide => simp [exec, execDecide]
  | decided => simp [exec, execDecided]
  | outcome => simp [exec, execOutcome]
  | query => simp [exec, execQuery]
  | undecided => simp [exec, execUndecided]
  | voteTimeout => simp [exec, execVoteTimeout]
  | queryRepeat => simp [exec, execQueryRepeat]
  | decideRepeat => simp [exec, execDecideRepeat]
  | deputySelfAbort => simp [exec, execDeputySelfAbort]
  | drainComplete => simp [exec, execDrainComplete]
  | contextWorkRemoved => simp [exec, execContextWorkRemoved]
  | watchdogExpiry => simp [exec, execWatchdogExpiry]
  | engineHang => simp [exec, execEngineHang]
  | isolatedReplay =>
    simp only [exec, execIsolatedReplay]
    split <;> simp
  | coreHeartbeatMiss => simp [exec, execCoreHeartbeatMiss]
  | arrayRetirement => simp [exec, execArrayRetirement]
  | arrayRecalibration => simp [exec, execArrayRecalibration]
  | periodicRecalibration => simp [exec, execPeriodicRecalibration]
  | pcRetirement => simp [exec, execPcRetirement]
  | firmwareCoreSwitch => simp [exec, execFirmwareCoreSwitch]
  | microcodeReload => simp [exec, execMicrocodeReload]
  | jobOpen => simp [exec, execJobOpen]
  | accum => simp [exec, execAccum]
  | ringPieceForward => simp [exec, execRingPieceForward]
  | reduceComplete => simp [exec, execReduceComplete]
  | contributionDeadline =>
    simp only [exec, execContributionDeadline]
    repeat' split
    all_goals simp
  | busyBackoffReissue => simp [exec, execBusyBackoffReissue]
  | read => simp [exec, execRead]
  | write => simp [exec, execWrite]
  | readResp => simp [exec, execReadResp]
  | reply => simp [exec, execReply]
  | genQuery => simp [exec, execGenQuery]
  | requestTimerExpiry => simp [exec, execRequestTimerExpiry]
  | inServiceBackoffReissue => simp [exec, execInServiceBackoffReissue]
  | flitReceive => simp [exec, execFlitReceive]
  | linkStateMessage => simp [exec, execLinkStateMessage]
  | linkStateBroadcast => simp [exec, execLinkStateBroadcast]
  | signalDetected => simp [exec, execSignalDetected]
  | trainingExchange => simp [exec, execTrainingExchange]
  | trainingTimeout => simp [exec, execTrainingTimeout]
  | portDrainComplete => simp [exec, execPortDrainComplete]
  | lanesLost => simp [exec, execLanesLost]
  | bulkFlitReceive => simp [exec, execBulkFlitReceive]
  | privilegedFlitReceive => simp [exec, execPrivilegedFlitReceive]
  | lateralControlFlit => simp [exec, execLateralControlFlit]
  | lateralAckTick => simp [exec, execLateralAckTick]
  | privilegedResendTimer => simp [exec, execPrivilegedResendTimer]
  | timeExchangeStart => simp [exec, execTimeExchangeStart]
  | timeExchangeRequest => simp [exec, execTimeExchangeRequest]
  | timeExchangeAnswer => simp [exec, execTimeExchangeAnswer]
  | remeasurementComplete => simp [exec, execRemeasurementComplete]
  | routeRewrite => simp [exec, execRouteRewrite]
  | routeRestore => simp [exec, execRouteRestore]
  | transmitDelta => simp [exec, execTransmitDelta]
  | deltaWriteReissue =>
    simp only [exec, execDeltaWriteReissue]
    repeat' split
    all_goals simp
  | done => simp [exec, execDone]
  | release => simp [exec, execRelease]
  | applyFreeze => simp [exec, execApplyFreeze]
  | ready => simp [exec, execReady]
  | journalEntryWrite => simp [exec, execJournalEntryWrite]
  | checkpointShardWritten => simp [exec, execCheckpointShardWritten]
  | checkpointManifestWrite => simp [exec, execCheckpointManifestWrite]
  | retentionScrub => simp [exec, execRetentionScrub]
  | controlPeriod => simp [exec, execControlPeriod]
  | quadrantPark => simp [exec, execQuadrantPark]
  | deferLimit =>
    simp only [exec, execDeferLimit]
    split <;> simp
  | meterReading => simp [exec, execMeterReading]
  | meterLost => simp [exec, execMeterLost]
  | vin12Droop => simp [exec, execVin12Droop]
  | droopEnd => simp [exec, execDroopEnd]
  | powerOnReset => simp [exec, execPowerOnReset]
  | porRelease => simp [exec, execPorRelease]
  | perst => simp [exec, execPerst]
  | cxlHotReset => simp [exec, execCxlHotReset]
  | flr => simp [exec, execFlr]
  | thermalTrip => simp [exec, execThermalTrip]
  | refclkLost => simp [exec, execRefclkLost]
  | refclkStable => simp [exec, execRefclkStable]
  | pllLocked => simp [exec, execPllLocked]
  | bootImageVerify => simp [exec, execBootImageVerify]
  | hbmTrainingComplete => simp [exec, execHbmTrainingComplete]
  | lpddrTrainingComplete => simp [exec, execLpddrTrainingComplete]
  | startupCalibration => simp [exec, execStartupCalibration]
  | memoryActive => simp [exec, execMemoryActive]
  | hdmAccess => simp [exec, execHdmAccess]
  | hdmDecoderCommit => simp [exec, execHdmDecoderCommit]
  | birsp => simp [exec, execBirsp]
  | h2dSnoop => simp [exec, execH2dSnoop]
  | doeRequest => simp [exec, execDoeRequest]
  | ideKmKeyProg => simp [exec, execIdeKmKeyProg]
  | keySwitchMarker => simp [exec, execKeySwitchMarker]
  | ideIntegrityFailure => simp [exec, execIdeIntegrityFailure]
  | cxlLinkDown => simp [exec, execCxlLinkDown]
  | markerReceipt => simp [exec, execMarkerReceipt]
  | readEnergy => simp [exec, execReadEnergy]
  | signRecord => simp [exec, execSignRecord]
  | readMarkers => simp [exec, execReadMarkers]
  | readLog => simp [exec, execReadLog]
  | readCerts => simp [exec, execReadCerts]
  | fwWrite => simp [exec, execFwWrite]
  | wmFwCommit => simp [exec, execWmFwCommit]
  | calWrite => simp [exec, execCalWrite]
  | meterStart => simp [exec, execMeterStart]
  | meterPeriodicStore => simp [exec, execMeterPeriodicStore]
  | meterPowerFail => simp [exec, execMeterPowerFail]
  | meterPowerReturn => simp [exec, execMeterPowerReturn]
  | sealStrapFall => simp [exec, execSealStrapFall]
  | meterCopyRefresh => simp [exec, execMeterCopyRefresh]
  | laneLossOfLock => simp [exec, execLaneLossOfLock]
  | perstDeassert => simp [exec, execPerstDeassert]
  | cxlLinkTrainingComplete => simp [exec, execCxlLinkTrainingComplete]
  | firmwareRunning => simp [exec, execFirmwareRunning]
  | diceKeysDerived => simp [exec, execDiceKeysDerived]
  | markerAckTimeout => simp [exec, execMarkerAckTimeout]
  | configurationRequest => simp [exec, execConfigurationRequest]
  | committedStateRead => simp [exec, execCommittedStateRead]

theorem step_keepsFuses (s : State) : KeepsFuses s (step s) := by
  unfold step
  split
  · exact (keepsFuses_done s (tick s.dev)).2 (tick_le _ s.dev.fuses.le_refl)
  · next i rest _ => exact exec_keepsFuses i { s with pending := rest }

/-- Settles O6: by `step_keepsFuses`, the fuses after a step are those before or more. -/
theorem fusesStayBlown : Obligations.FusesStayBlown := by
  unfold Obligations.FusesStayBlown
  intro s t h
  obtain ⟨testDisabled, marked, retired, retiredPc, windows, svn, epoch⟩ := step_keepsFuses s t h
  exact ⟨retired, testDisabled, marked, retiredPc, windows, svn, epoch⟩

end Sys2Proof.Machine
end

section
/-! # CTX_CREATE (R163, R190) -/

namespace Sys2Proof.Machine

open Sys2Proof

/-- An answer that is a status alone ends the command: the mailbox shows it, and nothing else changes but an interrupt. -/
theorem Dev.answered_status (d : Dev) (st : Nat) : ∃ m o,
    d.answered { status := st } = { d with mbx := m, out := o } ∧ ended (d.answered { status := st }) st 0 := by
  have h := (d.respond []).mbxEnd_ended st 0
  unfold Dev.answered Dev.mbxEnd at *
  dsimp only at *
  split <;> exact ⟨_, _, rfl, by simp_all⟩

theorem Dev.ctx_modCtx_of_ne (d : Dev) {c q : Fin 16} (h : q ≠ c) (f : Ctx → Ctx) : (d.modCtx c f).ctx q = d.ctx q := by
  rw [Dev.ctx_modCtx, if_neg h.symm]

/-- An event changes the marks of its own context's queue alone. -/
theorem Dev.writeEvent_ctx_of_ne (d : Dev) {c q : Fin 16} (h : q ≠ c) (b : List Byte) : (d.writeEvent c b).ctx q = d.ctx q := by
  unfold Dev.writeEvent
  dsimp only
  split
  · exact d.ctx_modCtx_of_ne h _
  · split
    · exact (congrArg (·[q]) (Dev.emit_ctxs _ _)).trans (Dev.ctx_modCtx_of_ne _ h _)
    · exact Dev.ctx_modCtx_of_ne _ h _

theorem Dev.eventAt_ctx_of_ne (d : Dev) {c q : Fin 16} (h : q ≠ c) (seq : W32) (type status : Nat) (step : W64) (detail : Nat) :
    (d.eventAt c seq type status step detail).ctx q = d.ctx q := by
  unfold Dev.eventAt
  dsimp only
  split
  · rfl
  · split
    · rfl
    · exact d.writeEvent_ctx_of_ne h _

/-- A change of one context's state leaves the others' records. -/
theorem Dev.setState_ctx_of_ne (d : Dev) {c q : Fin 16} (h : q ≠ c) (st : CtxState) (cause : Nat) :
    (d.setState c st cause).ctx q = d.ctx q :=
  (Dev.eventAt_ctx_of_ne _ h _ _ _ _ _).trans (d.ctx_modCtx_of_ne h _)

/-- The record that CTX_CREATE gives a context (R14, R190), before it is OPEN. -/
def newContext (p : List Byte) : Ctx :=
  let first := BitVec.ofNat 32 (fieldAt p 24 4)
  { flags := fieldAt p 1 1
    watchdogMs := if fieldAt p 4 4 = 0 then 2000 else fieldAt p 4 4
    ringBase := fieldAt p 8 8
    ringLog2 := fieldAt p 2 1
    eqBase := fieldAt p 16 8
    eqLog2 := fieldAt p 3 1
    irq := bitOf (fieldAt p 1 1) 5
    lastSeq := first - 1
    commitSeq := first - 1
    nextSeq := first }

/-- The block with the new context's defaults and record, before its state changes. -/
def Dev.withNewContext (d : Dev) (p : List Byte) : Dev := (d.freshContext (ctxOf p)).modCtx (ctxOf p) fun _ => newContext p

theorem Dev.withNewContext_ctx (d : Dev) (p : List Byte) (q : Fin 16) :
    (d.withNewContext p).ctx q = if ctxOf p = q then newContext p else d.ctx q := Dev.ctx_modCtx _ _ _ _

theorem Dev.withNewContext_slc (d : Dev) (p : List Byte) (q : Fin 16) :
    (d.withNewContext p).slc q = if ctxOf p = q then {} else d.slc q := by
  simp [Dev.withNewContext, Dev.slc, Dev.freshContext, Dev.clearDry, Vector.getElem_set, Fin.ext_iff]

/-- The block with the new context OPEN and the event of that written. -/
def Dev.withOpenContext (d : Dev) (p : List Byte) : Dev := (d.withNewContext p).setState (ctxOf p) .opened 0

/-- Opening the context changes its state, and beyond that what an event may change. -/
theorem Dev.withOpenContext_only (d : Dev) (p : List Byte) :
    EventsOnly ((d.withNewContext p).modCtx (ctxOf p) fun x => { x with state := .opened, cause := 0, holdPending := false })
      (d.withOpenContext p) :=
  (d.withNewContext p).setState_only (ctxOf p) .opened 0

/-- The new context's record as it was put in, but for its state and the marks of its event queue. -/
theorem Dev.withOpenContext_ctx_self (d : Dev) (p : List Byte) :
    (d.withOpenContext p).ctx (ctxOf p) = { newContext p with
      state := .opened, cause := 0, holdPending := false
      eqTail := ((d.withOpenContext p).ctx (ctxOf p)).eqTail
      overflow := ((d.withOpenContext p).ctx (ctxOf p)).overflow
      lost := ((d.withOpenContext p).ctx (ctxOf p)).lost } := by
  rw [(d.withOpenContext_only p).2.1 (ctxOf p), Dev.ctx_modCtx, if_pos rfl, Dev.withNewContext_ctx, if_pos rfl]

theorem Dev.withOpenContext_ctx_of_ne (d : Dev) (p : List Byte) {q : Fin 16} (h : q ≠ ctxOf p) :
    (d.withOpenContext p).ctx q = d.ctx q := by
  rw [Dev.withOpenContext, Dev.setState_ctx_of_ne _ h, Dev.withNewContext_ctx, if_neg h.symm]

theorem Dev.withOpenContext_slc (d : Dev) (p : List Byte) (q : Fin 16) :
    (d.withOpenContext p).slc q = if ctxOf p = q then {} else d.slc q :=
  (congrArg (·[q]) (d.withOpenContext_only p).slcs).trans (d.withNewContext_slc p q)

theorem Dev.withOpenContext_upd (d : Dev) (p : List Byte) : (d.withOpenContext p).upd = d.upd := (d.withOpenContext_only p).upd

theorem Dev.withOpenContext_fab (d : Dev) (p : List Byte) : (d.withOpenContext p).fab = d.fab := (d.withOpenContext_only p).fab

theorem Dev.withOpenContext_mxa (d : Dev) (p : List Byte) : (d.withOpenContext p).mxa = d.mxa := (d.withOpenContext_only p).mxa

/-- CTX_CREATE with a payload that R190 allows, of a CLOSED context, whose areas lie where R163 wants them. -/
theorem cmdCtxCreate_opens (d : Dev) (p : List Byte) (hc : fieldAt p 0 1 < 16)
    (hf : fieldAt p 1 1 < 64 ∧ bitsOf (fieldAt p 1 1) 2 2 ≤ 2)
    (hring : 6 ≤ fieldAt p 2 1 ∧ fieldAt p 2 1 ≤ 16) (heq : 6 ≤ fieldAt p 3 1 ∧ fieldAt p 3 1 ≤ 16)
    (hw : fieldAt p 4 4 ≤ 600000) (hz : zeroAt p 28 4 = true) (hs : (d.ctx (ctxOf p)).state = .closed)
    (hp : d.placementOk (fieldAt p 8 8, 64 * 2 ^ fieldAt p 2 1) (fieldAt p 16 8, 32 * 2 ^ fieldAt p 3 1) = true) :
    cmdCtxCreate d p = ends (d.withOpenContext p) stOk := by
  unfold cmdCtxCreate
  rw [ctxCommand_legal _ _ _ _ _ _ hc (by simp [hf, hring, heq, hw, hz]) (by simp [hs])]
  simp only [hp, Bool.not_true, Bool.false_eq_true, if_false]
  rfl

/-- Settles O27: CTX_CREATE puts in the new record, makes it OPEN, and ends the command; the rest is events and the answer. -/
theorem createOpensAContext : Obligations.CreateOpensAContext := by
  unfold Obligations.CreateOpensAContext
  intro s p ht hc hf hm hr1 hr2 hq1 hq2 hw hz hs hp
  obtain ⟨e, he⟩ : ∃ e, e = (s.dev.offered 0xC000 p).withOpenContext p := ⟨_, rfl⟩
  have run : s.dev.submit 0xC000 p cmdCtxCreate = e.answered { status := stOk } := by
    rw [he, Dev.submit_taken _ _ _ _ ht,
      cmdCtxCreate_opens (s.dev.offered 0xC000 p) p hc ⟨hf, hm⟩ ⟨hr1, hr2⟩ ⟨hq1, hq2⟩ hw hz hs hp]
    rfl
  have own := (s.dev.offered 0xC000 p).withOpenContext_ctx_self p
  have other (q) (hq : q ≠ ctxOf p) : e.ctx q = s.dev.ctx q := he ▸ Dev.withOpenContext_ctx_of_ne _ p hq
  have upd : e.upd = s.dev.upd := he ▸ Dev.withOpenContext_upd _ p
  have fab : e.fab = s.dev.fab := he ▸ Dev.withOpenContext_fab _ p
  have mxa : e.mxa = s.dev.mxa := he ▸ Dev.withOpenContext_mxa _ p
  have slc (q) : e.slc q = if ctxOf p = q then {} else s.dev.slc q := he ▸ Dev.withOpenContext_slc _ p q
  rw [← he] at own
  obtain ⟨m, o, same, hend⟩ := e.answered_status stOk
  have ctx' (q) : (e.answered { status := stOk }).ctx q = e.ctx q := same ▸ rfl
  have slc' (q) : (e.answered { status := stOk }).slc q = e.slc q := same ▸ rfl
  refine ⟨e.answered { status := stOk }, congrArg (done s) run, hend, ?_⟩
  simp only [ctx', slc', slc, if_true]
  rw [own, same]
  exact ⟨rfl, rfl, rfl, rfl, rfl, rfl, rfl, rfl, rfl, rfl, rfl, rfl, trivial,
    fun c hc => ⟨other c hc, if_neg hc.symm⟩, upd, fab, mxa⟩

end Sys2Proof.Machine
end

section
/-! # Register writes (R8) -/

namespace Sys2Proof.Machine

open Sys2Proof

/-- A field that ends within the low `w` bits is the same in the value cut to `w` bits. -/
theorem bitsOf_mod_two_pow {lo n w : Nat} (v : Nat) (h : lo + n ≤ w) : bitsOf (v % 2 ^ w) lo n = bitsOf v lo n := by
  unfold bitsOf
  rw [Nat.shiftRight_eq_div_pow, Nat.shiftRight_eq_div_pow, show w = lo + (w - lo) by omega, Nat.pow_add,
    Nat.mod_mul_right_div_self, Nat.mod_mod_of_dvd]
  exact Nat.pow_dvd_pow 2 (by omega)

theorem bitOf_mod_two_pow {i w : Nat} (v : Nat) (h : i < w) : bitOf (v % 2 ^ w) i = bitOf v i :=
  congrArg (· == 1) (bitsOf_mod_two_pow (n := 1) v h)

theorem clearBits_mod_two_pow {w : Nat} (old : BitVec 16) (v : W64) (h : 16 ≤ w) :
    clearBits old (v.toNat % 2 ^ w) = old &&& ~~~(v.setWidth 16) := by
  unfold clearBits
  congr 2
  apply BitVec.eq_of_toNat_eq
  simp only [BitVec.toNat_ofNat, BitVec.toNat_setWidth]
  exact Nat.mod_mod_of_dvd _ (Nat.pow_dvd_pow 2 h)

theorem toNat_mod_two_pow_self (v : W64) : v.toNat % 2 ^ 64 = v.toNat := Nat.mod_eq_of_lt v.isLt

/-- An aligned write to BAR0 goes to its block, the value cut to the width. -/
theorem exec_registerWrite_bar0 (s : State) (off width : Nat) (v : W64) (h : off % (width / 8) = 0) :
    exec (.registerWrite 0 off width v) s = .next { s with dev := s.dev.writeBar0 off width (v.toNat % 2 ^ width) } := by
  simp [exec, execRegisterWrite, Dev.writeReg, h, done]

/-- The registers of context `c` stand at 64 KiB × c. -/
theorem Dev.writeBar0_ctx (d : Dev) (c : Fin 16) {o : Nat} (ho : o < 0x10000) (width v : Nat) :
    d.writeBar0 (0x10000 * c.val + o) width v = d.writeCtx c o width v := by
  have hc := c.isLt
  have block : (0x10000 * c.val + o) / 0x200000 = 0 := by omega
  have place : (0x10000 * c.val + o) % 0x200000 = 0x10000 * c.val + o := by omega
  have number : (0x10000 * c.val + o) / 0x10000 = c.val := by omega
  have rest : (0x10000 * c.val + o) % 0x10000 = o := by omega
  have low : 0x10000 * c.val + o < 0x100000 := by omega
  have self : Fin.ofNat 16 c.val = c := Fin.ext (Nat.mod_eq_of_lt hc)
  simp only [Dev.writeBar0, block, place, low, if_true, number, rest, self]

/-- Settles O57: each register's block is found by its offset, and the value cut to the register's width has the same fields. -/
theorem registerWritesSetTheirFields : Obligations.RegisterWritesSetTheirFields := by
  intro s v c
  refine ⟨?_, ?_, ?_, ?_, ?_, ?_, ?_, ?_, fun busy => ?_, fun on => ?_, fun off => ?_⟩
  · rw [exec_registerWrite_bar0 _ _ _ _ (by decide), ← bitsOf_mod_two_pow (w := 32) _ (by decide)]; rfl
  · rw [exec_registerWrite_bar0 _ _ _ _ (by decide), ← clearBits_mod_two_pow (w := 32) _ _ (by decide)]; rfl
  · rw [exec_registerWrite_bar0 _ _ _ _ (by decide), ← clearBits_mod_two_pow (w := 32) _ _ (by decide)]; rfl
  · rw [exec_registerWrite_bar0 _ _ _ _ (by decide), ← clearBits_mod_two_pow (w := 32) _ _ (by decide)]; rfl
  · rw [exec_registerWrite_bar0 _ _ _ _ (by decide), ← bitsOf_mod_two_pow (w := 32) _ (by decide)]; rfl
  · rw [exec_registerWrite_bar0 _ _ _ _ (by decide), toNat_mod_two_pow_self]; rfl
  · rw [exec_registerWrite_bar0 _ _ _ _ (by omega), Dev.writeBar0_ctx _ _ (by decide),
      ← bitOf_mod_two_pow (w := 32) _ (by decide)]
    rfl
  · rw [exec_registerWrite_bar0 _ _ _ _ (by omega), Dev.writeBar0_ctx _ _ (by decide), toNat_mod_two_pow_self]; rfl
  · rw [exec_registerWrite_bar0 _ _ _ _ (by decide)]
    simp [Dev.writeBar0, Dev.writeMbx, busy]
  · rw [exec_registerWrite_bar0 _ _ _ _ (by decide)]
    simp [Dev.writeBar0, Dev.writeFab, on]
  · rw [exec_registerWrite_bar0 _ _ _ _ (by decide), ← bitsOf_mod_two_pow (w := 32) _ (by decide)]
    simp [Dev.writeBar0, Dev.writeFab, off]

end Sys2Proof.Machine
end

section
/-! # Accesses at another width than the register's (R7, R28)

Two facts of each block carry the statement: its registers stand at offsets aligned to their widths, and a write that changes the
device has the width that a read of the same offset has. -/

namespace Sys2Proof.Machine

open Sys2Proof

/-! ## Offsets and widths -/

theorem regIndex_eq_some {o base stride n i : Nat} (h : regIndex o base stride n = some i) :
    i < n ∧ o = base + stride * i := by
  unfold regIndex at h
  split at h
  next place =>
    simp only [Bool.and_eq_true, decide_eq_true_eq, beq_iff_eq] at place
    obtain ⟨⟨low, fits⟩, few⟩ := place
    obtain rfl := Option.some.inj h
    exact ⟨few, by rw [Nat.mul_div_cancel' (Nat.dvd_of_mod_eq_zero fits)]; omega⟩
  next => cases h

theorem regIndex_at {base stride n i : Nat} (hs : 0 < stride) (hi : i < n) :
    regIndex (base + stride * i) base stride n = some i := by
  simp [regIndex, Nat.mul_div_cancel_left i hs, hi]

theorem regIndex_eq_none_of_le {o base stride n : Nat} (hs : 0 < stride) (h : base + stride * n ≤ o) :
    regIndex o base stride n = none := by
  have far : ¬ (o - base) / stride < n := by
    rw [Nat.div_lt_iff_lt_mul hs, Nat.mul_comm]
    omega
  simp [regIndex, far]

/-- What a read of offset `o` finds: no register, or one of 32 or 64 bits at an aligned offset. -/
def AlignedRead (o : Nat) (r : Nat × Nat) : Prop := r.1 = 0 ∨ r.1 = 32 ∧ 4 ∣ o ∨ r.1 = 64 ∧ 8 ∣ o

theorem AlignedRead.of_mod {o m : Nat} {r : Nat × Nat} (hm : 8 ∣ m) (h : AlignedRead (o % m) r) : AlignedRead o r := by
  have four : 4 ∣ m := Nat.dvd_trans (by decide) hm
  simpa only [AlignedRead, Nat.dvd_mod_iff hm, Nat.dvd_mod_iff four] using h

theorem AlignedRead.ite {p : Prop} [Decidable p] {o : Nat} {a b : Nat × Nat} (ha : p → AlignedRead o a) (hb : AlignedRead o b) :
    AlignedRead o (if p then a else b) := by
  split
  · exact ha ‹p›
  · exact hb

/-- Access of `width` bits meets the register that a read finds. -/
def AtWidth (r : Nat × Nat) (width : Nat) : Prop := r.1 = width ∧ width ≠ 0

theorem AlignedRead.offset_aligned {o width : Nat} {r : Nat × Nat} (h : AlignedRead o r) (hw : AtWidth r width) :
    o % (width / 8) = 0 := by
  obtain ⟨rfl, wide⟩ := hw
  obtain empty | ⟨word, four⟩ | ⟨long, eight⟩ := h
  · exact absurd empty wide
  · rw [word]; exact Nat.mod_eq_zero_of_dvd four
  · rw [long]; exact Nat.mod_eq_zero_of_dvd eight

/-! ## The registers of each block are aligned -/

theorem Dev.readCtxWord_aligned (d : Dev) (c : Fin 16) (o : Nat) : AlignedRead o (d.readCtxWord c o) := by
  dsimp only [Dev.readCtxWord]
  repeat' refine AlignedRead.ite (fun place => ?_) ?_
  all_goals grind [AlignedRead]

theorem Dev.readCtx_aligned (d : Dev) (c : Fin 16) (o : Nat) : AlignedRead o (d.readCtx c o) := by
  unfold Dev.readCtx
  split
  next i hi =>
    obtain ⟨_, rfl⟩ := regIndex_eq_some hi
    split
    · exact .inl rfl
    · exact .inr (.inr ⟨rfl, by omega⟩)
  next => exact d.readCtxWord_aligned c o

theorem Dev.readSixteen_aligned (d : Dev) (cls caps o : Nat) : AlignedRead o (d.readSixteen cls caps o) := by
  unfold Dev.readSixteen
  repeat' split
  all_goals grind [AlignedRead]

theorem Dev.readMbx_aligned (d : Dev) (o : Nat) : AlignedRead o (d.readMbx o) := by
  unfold Dev.readMbx
  repeat' split
  all_goals grind [AlignedRead, → regIndex_eq_some]

theorem Dev.readMxa_aligned (d : Dev) (o : Nat) : AlignedRead o (d.readMxa o) := by
  unfold Dev.readMxa
  repeat' split
  all_goals grind [AlignedRead, → regIndex_eq_some]

theorem Dev.readFlm_aligned (d : Dev) (o : Nat) : AlignedRead o (d.readFlm o) := by
  unfold Dev.readFlm
  repeat' split
  all_goals grind [AlignedRead]

theorem Dev.readRsv_aligned (d : Dev) (o : Nat) : AlignedRead o (d.readRsv o) := by
  unfold Dev.readRsv
  repeat' split
  all_goals grind [AlignedRead, → regIndex_eq_some]

theorem Dev.readUpd_aligned (d : Dev) (o : Nat) : AlignedRead o (d.readUpd o) := by
  unfold Dev.readUpd
  repeat' split
  all_goals grind [AlignedRead, → regIndex_eq_some]

theorem Slc.readWord_aligned (s : Slc) (o : Nat) : AlignedRead o (s.readWord o) := by
  unfold Slc.readWord
  repeat' split
  all_goals grind [AlignedRead]

theorem Dev.readSlc_aligned (d : Dev) (o : Nat) : AlignedRead o (d.readSlc o) := by
  unfold Dev.readSlc
  repeat' split
  case h_1 => exact (Slc.readWord_aligned _ _).of_mod (by decide)
  all_goals grind [AlignedRead, → regIndex_eq_some]

theorem Dev.readRed_aligned (d : Dev) (o : Nat) : AlignedRead o (d.readRed o) := by
  unfold Dev.readRed
  repeat' split
  all_goals grind [AlignedRead, → regIndex_eq_some]

theorem Dev.readPort_aligned (d : Dev) (n : Nat) (ctrl : Bool) {o : Nat} (h : 8 ∣ o) : AlignedRead o (d.readPort n ctrl) := by
  unfold Dev.readPort
  split
  · exact .inr (.inl ⟨rfl, by omega⟩)
  · exact .inr (.inr ⟨rfl, h⟩)

theorem Dev.readFab_aligned (d : Dev) (o : Nat) : AlignedRead o (d.readFab o) := by
  unfold Dev.readFab
  repeat' split
  case h_2 => exact d.readPort_aligned _ _ (by grind [→ regIndex_eq_some])
  all_goals grind [AlignedRead, → regIndex_eq_some]

theorem Lat.readWord_aligned (x : Lat) (followed : Bool) (o : Nat) : AlignedRead o (x.readWord followed o) := by
  unfold Lat.readWord
  repeat' split
  all_goals grind [AlignedRead]

theorem Dev.readLat_aligned (d : Dev) (o : Nat) : AlignedRead o (d.readLat o) := by
  unfold Dev.readLat
  repeat' split
  case h_1 => exact (Lat.readWord_aligned _ _ _).of_mod (by decide)
  all_goals grind [AlignedRead, → regIndex_eq_some]

theorem Trn.readWord_aligned (t : Trn) (o : Nat) : AlignedRead o (t.readWord o) := by
  unfold Trn.readWord
  repeat' split
  all_goals grind [AlignedRead, → regIndex_eq_some]

theorem Dev.readTrn_aligned (d : Dev) (o : Nat) : AlignedRead o (d.readTrn o) := by
  unfold Dev.readTrn
  repeat' split
  case h_1 => exact (Trn.readWord_aligned _ _).of_mod (by decide)
  all_goals grind [AlignedRead]

theorem Dev.readSip_aligned (d : Dev) (o : Nat) : AlignedRead o (d.readSip o) := by
  unfold Dev.readSip
  repeat' split
  all_goals grind [AlignedRead]

theorem Dev.readLdg_aligned (d : Dev) (o : Nat) : AlignedRead o (d.readLdg o) := by
  unfold Dev.readLdg
  repeat' split
  all_goals grind [AlignedRead, → regIndex_eq_some]

theorem Dev.readHg_aligned (d : Dev) (o : Nat) : AlignedRead o (d.readHg o) := by
  unfold Dev.readHg
  repeat' split
  all_goals grind [AlignedRead, → regIndex_eq_some]

theorem Dev.readClk_aligned (d : Dev) (o : Nat) : AlignedRead o (d.readClk o) := by
  unfold Dev.readClk
  repeat' split
  all_goals grind [AlignedRead]

theorem Dev.readSec_aligned (d : Dev) (o : Nat) : AlignedRead o (d.readSec o) := by
  unfold Dev.readSec
  repeat' split
  all_goals grind [AlignedRead, → regIndex_eq_some]

theorem Dev.readCis_aligned (d : Dev) (o : Nat) : AlignedRead o (d.readCis o) := by
  unfold Dev.readCis
  repeat' split
  all_goals grind [AlignedRead, → regIndex_eq_some]

theorem Dev.readWm_aligned (d : Dev) (o : Nat) : AlignedRead o (d.readWm o) := by
  unfold Dev.readWm
  repeat' split
  all_goals grind [AlignedRead]

/-! ## A write that changes something is at the width of its register -/

theorem Dev.readCtx_eqPtrs (d : Dev) (c : Fin 16) : (d.readCtx c 0x38).1 = 64 := rfl

theorem Dev.readCtx_overflow (d : Dev) (c : Fin 16) : (d.readCtx c 0x40).1 = 32 := rfl

theorem Dev.readCtx_irq (d : Dev) (c : Fin 16) : (d.readCtx c 0x44).1 = 32 := rfl

theorem Dev.writeCtx_taken (d : Dev) (c : Fin 16) (o width v : Nat) :
    d.writeCtx c o width v = d ∨ AtWidth (d.readCtx c o) width := by
  unfold Dev.writeCtx
  repeat' split
  all_goals grind [AtWidth, Dev.readCtx_eqPtrs, Dev.readCtx_overflow, Dev.readCtx_irq]

theorem Dev.writeMbx_taken (d : Dev) (o width v : Nat) : d.writeMbx o width v = d ∨ AtWidth (d.readMbx o) width := by
  unfold Dev.writeMbx
  repeat' split
  all_goals grind [AtWidth, Dev.readMbx, → regIndex_eq_some]

theorem Dev.writeMxa_taken (d : Dev) (o width v : Nat) : d.writeMxa o width v = d ∨ AtWidth (d.readMxa o) width := by
  unfold Dev.writeMxa
  repeat' split
  all_goals grind [AtWidth, Dev.readMxa]

theorem Dev.writeVxe_taken (d : Dev) (o width v : Nat) :
    d.writeVxe o width v = d ∨ AtWidth (d.readSixteen 3 vxeCaps o) width := by
  unfold Dev.writeVxe
  split
  all_goals grind [AtWidth, Dev.readSixteen]

theorem Dev.writeFlm_taken (d : Dev) (o width v : Nat) : d.writeFlm o width v = d ∨ AtWidth (d.readFlm o) width := by
  unfold Dev.writeFlm
  repeat' split
  all_goals grind [AtWidth, Dev.readFlm]

theorem Dev.writeRsv_taken (d : Dev) (o width v : Nat) : d.writeRsv o width v = d ∨ AtWidth (d.readRsv o) width := by
  unfold Dev.writeRsv
  repeat' split
  all_goals grind [AtWidth, Dev.readRsv]

theorem Dev.writeUpd_taken (d : Dev) (o width v : Nat) : d.writeUpd o width v = d ∨ AtWidth (d.readUpd o) width := by
  unfold Dev.writeUpd
  repeat' split
  all_goals grind [AtWidth, Dev.readUpd]

theorem Dev.writeSlc_taken (d : Dev) (o width v : Nat) : d.writeSlc o width v = d ∨ AtWidth (d.readSlc o) width := by
  unfold Dev.writeSlc
  repeat' split
  all_goals grind [AtWidth, Dev.readSlc, Slc.readWord, → regIndex_eq_some]

theorem Dev.writeRed_taken (d : Dev) (o width v : Nat) : d.writeRed o width v = d ∨ AtWidth (d.readRed o) width := by
  unfold Dev.writeRed
  repeat' split
  all_goals grind [AtWidth, Dev.readRed]

/-- FAB_PORT_CTRLn follows FAB_PORTn. -/
theorem Dev.readFab_portCtrl (d : Dev) {n : Nat} (h : n < 96) : d.readFab (0x1008 + 16 * n) = d.readPort n true := by
  have change : regIndex (0x1008 + 16 * n) 0x40 8 2 = none := regIndex_eq_none_of_le (by decide) (by omega)
  have place : regIndex (0x1008 + 16 * n) 0x1000 8 192 = some (2 * n + 1) := by
    rw [show 0x1008 + 16 * n = 0x1000 + 8 * (2 * n + 1) by omega]
    exact regIndex_at (by decide) (by omega)
  have port : (2 * n + 1) / 2 = n := by omega
  have ctrl : (2 * n + 1) % 2 = 1 := by omega
  unfold Dev.readFab
  repeat rw [if_neg (by omega)]
  simp only [change, place, port, ctrl, beq_self_eq_true]

theorem Dev.writeFab_taken (d : Dev) (o width v : Nat) : d.writeFab o width v = d ∨ AtWidth (d.readFab o) width := by
  unfold Dev.writeFab
  repeat' split
  case h_2.isTrue place word =>
    obtain ⟨few, rfl⟩ := regIndex_eq_some place
    exact .inr (by rw [d.readFab_portCtrl few, word]; exact ⟨rfl, by decide⟩)
  all_goals grind [AtWidth, Dev.readFab, → regIndex_eq_some]

/-- The registers of lateral `n` lie within 64 bytes of their own. -/
theorem Dev.readLat_lateral (d : Dev) {n r : Nat} (h : n < 64) (hr : r < 0x40) :
    d.readLat (0x1000 + 0x40 * n + r) = (d.lat.lats.toList.getD (31 + n) {}).readWord (d.clk.followed == 31 + n) r := by
  have base : (0x1000 + 0x40 * n + r) / 0x40 * 0x40 = 0x1000 + 0x40 * n := by omega
  have rest : (0x1000 + 0x40 * n + r) % 0x40 = r := by omega
  unfold Dev.readLat
  dsimp only
  repeat rw [if_neg (by omega)]
  simp only [base, rest, regIndex_at (by decide : 0 < 0x40) h]

theorem Dev.writeLat_taken (d : Dev) (o width v : Nat) : d.writeLat o width v = d ∨ AtWidth (d.readLat o) width := by
  unfold Dev.writeLat
  repeat' split
  case h_1 place =>
    obtain ⟨few, rfl⟩ := regIndex_eq_some place
    have read := d.readLat_lateral (r := 0x18) few (by decide)
    grind [AtWidth, Lat.readWord]
  case h_2 place =>
    obtain ⟨few, rfl⟩ := regIndex_eq_some place
    have read := d.readLat_lateral (r := 0x20) few (by decide)
    grind [AtWidth, Lat.readWord]
  all_goals grind [AtWidth, Dev.readLat, → regIndex_eq_some]

theorem Dev.writeTrn_taken (d : Dev) (o width v : Nat) : d.writeTrn o width v = d ∨ AtWidth (d.readTrn o) width := by
  unfold Dev.writeTrn
  repeat' split
  all_goals grind [AtWidth, Dev.readTrn, Trn.readWord, → regIndex_eq_some]

theorem Dev.writeSip_taken (d : Dev) (o width v : Nat) : d.writeSip o width v = d ∨ AtWidth (d.readSip o) width := by
  unfold Dev.writeSip
  repeat' split
  all_goals grind [AtWidth, Dev.readSip]

theorem Dev.writeLdg_taken (d : Dev) (o width v : Nat) : d.writeLdg o width v = d ∨ AtWidth (d.readLdg o) width := by
  unfold Dev.writeLdg
  repeat' split
  all_goals grind [AtWidth, Dev.readLdg, → regIndex_eq_some]

theorem Dev.writeHg_taken (d : Dev) (o width v : Nat) : d.writeHg o width v = d ∨ AtWidth (d.readHg o) width := by
  unfold Dev.writeHg
  repeat' split
  all_goals grind [AtWidth, Dev.readHg]

/-- CLK_TB_SET at 0x48 is write-only: a read finds no register there. -/
theorem Dev.writeClk_taken (d : Dev) {o : Nat} (h : o ≠ 0x48) (width v : Nat) :
    d.writeClk o width v = d ∨ AtWidth (d.readClk o) width := by
  unfold Dev.writeClk
  repeat' split
  all_goals grind [AtWidth, Dev.readClk]

theorem Dev.writeSec_taken (d : Dev) (o width v : Nat) : d.writeSec o width v = d ∨ AtWidth (d.readSec o) width := by
  unfold Dev.writeSec
  repeat' split
  all_goals grind [AtWidth, Dev.readSec]

theorem Dev.writeCis_taken (d : Dev) (o width v : Nat) : d.writeCis o width v = d ∨ AtWidth (d.readCis o) width := by
  unfold Dev.writeCis
  repeat' split
  all_goals grind [AtWidth, Dev.readCis, → regIndex_eq_some]

/-! ## BAR0 -/

theorem Dev.readBar0_aligned (d : Dev) (off : Nat) : AlignedRead off (d.readBar0 off) := by
  refine AlignedRead.of_mod (m := 0x200000) (by decide) ?_
  unfold Dev.readBar0
  dsimp only
  split
  case h_1 =>
    split
    · exact .inr (.inl ⟨rfl, by omega⟩)
    · split
      · exact (d.readCtx_aligned _ _).of_mod (by decide)
      · exact .inl rfl
  · exact d.readMbx_aligned _
  · exact d.readMxa_aligned _
  · exact d.readSixteen_aligned _ _ _
  · exact d.readFlm_aligned _
  · exact d.readRsv_aligned _
  · exact d.readSixteen_aligned _ _ _
  · exact d.readUpd_aligned _
  · exact d.readSlc_aligned _
  · exact d.readRed_aligned _
  · exact d.readFab_aligned _
  · exact d.readLat_aligned _
  · exact d.readTrn_aligned _
  · exact d.readSip_aligned _
  · exact d.readLdg_aligned _
  · exact d.readHg_aligned _
  · exact d.readClk_aligned _
  · exact d.readSec_aligned _
  · exact d.readCis_aligned _
  · exact d.readWm_aligned _
  · exact .inl rfl

theorem Dev.writeBar0_taken (d : Dev) {off : Nat} (h : off ≠ 0x2000048) (width v : Nat) :
    d.writeBar0 off width v = d ∨ AtWidth (d.readBar0 off) width := by
  unfold Dev.writeBar0
  dsimp only
  split <;> rename_i block <;> simp only [Dev.readBar0, block]
  case h_1 =>
    split
    next low => simpa only [if_neg (by omega : ¬ off % 0x200000 = 0x100000), if_pos low] using d.writeCtx_taken _ _ width v
    next => exact .inl rfl
  · exact d.writeMbx_taken _ _ _
  · exact d.writeMxa_taken _ _ _
  · exact d.writeVxe_taken _ _ _
  · exact d.writeFlm_taken _ _ _
  · exact d.writeRsv_taken _ _ _
  · exact d.writeUpd_taken _ _ _
  · exact d.writeSlc_taken _ _ _
  · exact d.writeRed_taken _ _ _
  · exact d.writeFab_taken _ _ _
  · exact d.writeLat_taken _ _ _
  · exact d.writeTrn_taken _ _ _
  · exact d.writeSip_taken _ _ _
  · exact d.writeLdg_taken _ _ _
  · exact d.writeHg_taken _ _ _
  · exact d.writeClk_taken (by omega) _ _
  · exact d.writeSec_taken _ _ _
  · exact d.writeCis_taken _ _ _
  · exact .inl trivial

/-- From 0x2800000 on there is no register (R28). -/
theorem Dev.readBar0_beyond (d : Dev) {off : Nat} (h : 0x2800000 ≤ off) : (d.readBar0 off).1 = 0 := by
  have block : 20 ≤ off / 0x200000 := by omega
  unfold Dev.readBar0
  dsimp only
  split
  case h_21 => rfl
  all_goals omega

/-- A read of no register of its width answers 0, and it latches nothing: CLK_TB_NS is a register of 64 bits. -/
theorem Dev.readReg_of_not_atWidth (d : Dev) {off width : Nat} (h : ¬ AtWidth (d.readBar0 off) width) :
    d.readReg off width = (d, 0) := by
  have latch : ¬ (off = 0x2000018 ∧ width = 64) := by
    rintro ⟨rfl, rfl⟩
    exact h ⟨rfl, by decide⟩
  have value : (if (d.readBar0 off).1 = width then (d.readBar0 off).2 % 2 ^ width else 0) = 0 := by
    split
    next same =>
      have zero : width = 0 := Decidable.not_not.mp fun wide => h ⟨same, wide⟩
      rw [zero]; exact Nat.mod_one _
    next => rfl
  simp only [Dev.readReg, Bool.and_eq_true, decide_eq_true_eq, latch, if_false, value]

/-! ## Register writes that are ignored -/

theorem exec_registerWrite_same {s : State} {bar off width : Nat} {v : W64} (h : s.dev.writeReg bar off width v = s.dev) :
    exec (.registerWrite bar off width v) s = .next s :=
  congrArg (done s) h

theorem exec_registerWrite_misaligned (s : State) (bar : Nat) {off width : Nat} (v : W64) (h : off % (width / 8) ≠ 0) :
    exec (.registerWrite bar off width v) s = .next s :=
  exec_registerWrite_same (by simp [Dev.writeReg, h])

theorem exec_registerWrite_bar0_of_not_atWidth (s : State) {off width : Nat} (v : W64) (ho : off ≠ 0x2000048)
    (h : ¬ AtWidth (s.dev.readBar0 off) width) : exec (.registerWrite 0 off width v) s = .next s := by
  by_cases aligned : off % (width / 8) = 0
  · rw [exec_registerWrite_bar0 s off width v aligned, (s.dev.writeBar0_taken ho width _).resolve_right h]
  · exact exec_registerWrite_misaligned s 0 v aligned

theorem exec_registerWrite_timebase_of_ne (s : State) {width : Nat} (v : W64) (h : width ≠ 64) :
    exec (.registerWrite 0 0x2000048 width v) s = .next s :=
  exec_registerWrite_same (by simp [Dev.writeReg, Dev.writeBar0, Dev.writeClk, h])

/-- The doorbells of BAR2 are registers of 32 bits. -/
theorem exec_registerWrite_bar2_of_ne (s : State) (off : Nat) {width : Nat} (v : W64) (h : width ≠ 32) :
    exec (.registerWrite 2 off width v) s = .next s := by
  refine exec_registerWrite_same ?_
  cases place : regIndex off 0 0x1000 16 <;> simp [Dev.writeReg, place, h]

/-- The mailbox's registers in BAR4 are those of BAR0. -/
theorem exec_registerWrite_bar4_of_not_atWidth (s : State) {off width : Nat} (v : W64)
    (h : ¬ AtWidth (s.dev.readMbx (off - 0x11000)) width) : exec (.registerWrite 4 off width v) s = .next s := by
  refine exec_registerWrite_same ?_
  have mbx := (s.dev.writeMbx_taken (off - 0x11000) width (v.toNat % 2 ^ width)).resolve_right h
  simp [Dev.writeReg, mbx]

/-- Settles O56: a misaligned or wrongly wide access meets no register of its width, and such an access does nothing. -/
theorem wrongAccessesAreIgnored : Obligations.WrongAccessesAreIgnored := by
  unfold Obligations.WrongAccessesAreIgnored
  refine ⟨fun s off width v => ⟨fun bar misaligned => ?_, fun wrong => ?_, fun present other => ?_, ?_, fun other => ?_,
    fun _ _ other => ?_⟩, fun s off width v ho => ⟨fun beyond _ => s.dev.readBar0_beyond beyond, fun empty => ?_⟩⟩
  · exact exec_registerWrite_misaligned s bar v misaligned
  · refine s.dev.readReg_of_not_atWidth fun at_width => ?_
    exact wrong.elim (· ((s.dev.readBar0_aligned off).offset_aligned at_width)) (· at_width.1)
  · have ho : off ≠ 0x2000048 := fun tb => present (tb ▸ rfl)
    exact exec_registerWrite_bar0_of_not_atWidth s v ho fun at_width => other at_width.1
  · rintro rfl other
    exact exec_registerWrite_timebase_of_ne s v other
  · exact exec_registerWrite_bar2_of_ne s off v other
  · exact exec_registerWrite_bar4_of_not_atWidth s v fun at_width => other at_width.1
  · have absent : ¬ AtWidth (s.dev.readBar0 off) width := fun ⟨same, wide⟩ => wide (same.symm.trans empty)
    exact ⟨exec_registerWrite_bar0_of_not_atWidth s v ho absent, s.dev.readReg_of_not_atWidth absent⟩

end Sys2Proof.Machine
end

section
/-! # Sending over the fabric (R262 to R274)

What sending a packet can change, said once (`SendsOnly`), and what issuing or parking a request does to the outstanding table. -/

namespace Sys2Proof.Machine

open Sys2Proof

/-! ## Keyed lists -/

/-- What a list kept by key holds under a key just put in. -/
theorem find?_insertKey {α : Type} (k : Nat) (v : α) (l : List (Nat × α)) :
    (insertKey k v l).find? (fun e => e.1 == k) = some (k, v) := by
  induction l with
  | nil => simp [insertKey]
  | cons e r ih =>
    obtain ⟨j, w⟩ := e
    unfold insertKey
    split
    · simp
    · split
      · simp
      next h => simpa [Ne.symm h] using ih

theorem insertKey_insertKey {α : Type} (k : Nat) (v w : α) (l : List (Nat × α)) :
    insertKey k v (insertKey k w l) = insertKey k v l := by
  induction l with
  | nil => simp [insertKey]
  | cons e r ih =>
    obtain ⟨j, u⟩ := e
    by_cases lt : k < j
    · simp [insertKey, lt]
    · by_cases eq : k = j
      · simp [insertKey, eq]
      · simp [insertKey, lt, eq, ih]

/-! ## What sending changes -/

/-- Between `d` and `e` the block has only moved packets: its ports, what it holds to send on, what waits unrouted, outputs. -/
def SendsOnly (d e : Dev) : Prop :=
  e = { d with
    fab := { d.fab with ports := e.fab.ports, transit := e.fab.transit, waiting := e.fab.waiting }
    out := e.out }

theorem SendsOnly.refl (d : Dev) : SendsOnly d d := rfl

theorem SendsOnly.trans {d e f : Dev} (h : SendsOnly d e) (k : SendsOnly e f) : SendsOnly d f := by
  unfold SendsOnly at *
  rw [k, h]

theorem SendsOnly.entries {d e : Dev} (h : SendsOnly d e) : e.fab.entries = d.fab.entries := by rw [h]
theorem SendsOnly.rest {d e : Dev} (h : SendsOnly d e) : e = { d with fab := e.fab, out := e.out, free := e.free } := by rw [h]
theorem SendsOnly.trn {d e : Dev} (h : SendsOnly d e) : e.trn = d.trn := by rw [h]

section

variable (d : Dev)

theorem Dev.sendFlit_only (n : Fin 96) (kind seq : Nat) (slots map : List Byte) : SendsOnly d (d.sendFlit n kind seq slots map) :=
  rfl

theorem Dev.sendAgain_only (n : Fin 96) (kind : Nat) (fs : List SentFlit) : SendsOnly d (d.sendAgain n kind fs) := by
  induction fs generalizing d with
  | nil => exact .refl d
  | cons f fs ih => exact (d.sendFlit_only n kind f.seq f.slots f.map).trans (ih _)

theorem Dev.freeBuffers_only (p : Packet) : SendsOnly d (d.freeBuffers p) := by
  unfold Dev.freeBuffers
  split
  · exact .refl d
  · dsimp only
    repeat' split
    all_goals rfl

theorem Dev.transmit_only (n : Fin 96) (p : Packet) : SendsOnly d (d.transmit n p) :=
  (SendsOnly.trans (e := d.modPort n _) rfl (Dev.sendAgain_only _ _ _ _)).trans (Dev.freeBuffers_only _ _)

theorem Dev.pumpN_only (k : Nat) (n : Fin 96) : SendsOnly d (Dev.pumpN k n d) := by
  induction k generalizing d with
  | zero => exact .refl d
  | succ k ih =>
    unfold Dev.pumpN
    split
    · exact .refl d
    · exact (d.transmit_only n _).trans (ih _)

theorem Dev.pump_only (n : Fin 96) : SendsOnly d (d.pump n) := by
  unfold Dev.pump
  dsimp only
  split
  · exact d.pumpN_only _ n
  · exact .refl d

theorem Dev.routePacket_only (p : Packet) : SendsOnly d (d.routePacket p) := by
  unfold Dev.routePacket
  split
  · rfl
  split
  · exact d.freeBuffers_only p
  split
  · exact d.freeBuffers_only p
  · rfl
  · split
    · exact SendsOnly.trans (e := d.modPort _ _) rfl (Dev.pump_only _ _)
    · exact .refl d

theorem Dev.sendMsg_only (tc unit fid ctx spec : Nat) (bytes : List Byte) :
    SendsOnly d (d.sendMsg tc unit fid ctx spec bytes) := by
  unfold Dev.sendMsg
  split
  · exact .refl d
  · exact d.routePacket_only _

/-- Adaptive routing draws a free value and sets the packet's VIA; nothing else. -/
theorem Dev.adapt_eq (p : Packet) :
    ∃ n v b, d.adapt p = ({ d with free := n }, { p with viaValid := v, via := b }) := by
  unfold Dev.adapt
  extract_lets here there
  split
  · exact ⟨_, _, _, rfl⟩
  split
  · exact ⟨_, _, _, rfl⟩
  dsimp -zeta only [Dev.draw]
  extract_lets via routed depth
  split <;> exact ⟨_, _, _, rfl⟩

theorem Dev.touch_eq (fid unit : Nat) : ∃ c, d.touch fid unit = { d with fab := { d.fab with cache := c } } := by
  unfold Dev.touch
  split <;> exact ⟨_, rfl⟩

theorem Dev.stamped_eq (p : Packet) :
    ∃ v g i, d.stamped p = { p with genValid := v, gen := g, inc := i, hop := 0 } := by
  unfold Dev.stamped
  split <;> exact ⟨_, _, _, rfl⟩

end

/-! ## Requests (R273) -/

/-- A request that finds an entry free takes it, for its owner and with its packet; beyond that it changes the fabric, outputs and
free values alone. -/
theorem Dev.request_of_freeEntry {d : Dev} {owner : Owner} {p : Packet} {i : Nat} (h : d.freeEntry p.tc = some i) :
    ∃ (e : Dev) (q : Outst), d.request owner p = some e ∧ e = { d with fab := e.fab, out := e.out, free := e.free }
      ∧ e.fab.entries.find? (fun x => x.1 == i) = some (i, q) ∧ q.owner = owner ∧ q.packet.type = p.type ∧ q.packet.tc = p.tc
      ∧ q.packet.dest = p.dest ∧ q.packet.unit = p.unit := by
  obtain ⟨v, g, n, stamped⟩ := d.stamped_eq p
  obtain ⟨c, touched⟩ := d.touch_eq p.dest p.unit
  unfold Dev.request
  simp only [h, stamped, touched]
  obtain ⟨m, w, b, adapted⟩ := Dev.adapt_eq { d with fab := { d.fab with cache := c } }
    { p with
      genValid := v, gen := g, inc := n, hop := 0, src := d.fab.id, tag := i
      useCount := (lookupD i 255 d.fab.uses + 1) % 256 }
  rw [adapted]
  have sent := Dev.routePacket_only
  exact ⟨_, _, rfl, (sent _ _).rest, (congrArg (List.find? fun x => x.1 == i) (sent _ _).entries).trans (find?_insertKey _ _ _),
    rfl, rfl, rfl, rfl, rfl⟩

/-- A request, or the stall where no entry is free, changes the fabric, outputs and free values alone. -/
theorem Dev.request_getD_rest (d : Dev) (owner : Owner) (p : Packet) :
    let e := (d.request owner p).getD d
    e = { d with fab := e.fab, out := e.out, free := e.free } := by
  cases free : d.freeEntry p.tc with
  | none => simp [Dev.request, free]
  | some i =>
    obtain ⟨e, q, sent, rest, -⟩ := Dev.request_of_freeEntry (owner := owner) free
    rwa [sent, Option.getD_some]

theorem Dev.park_getD_rest (d : Dev) (owner : Owner) (p : Packet) (t why : Nat) :
    (d.park owner p t why).getD d = { d with fab := ((d.park owner p t why).getD d).fab } := by
  cases free : d.freeEntry p.tc <;> simp [Dev.park, free]

end Sys2Proof.Machine
end

section
/-! # Answers to requests and the timers of outstanding ones (R273 to R278, R303) -/

namespace Sys2Proof.Machine

open Sys2Proof

/-! ## Answers (R273, R275, R278) -/

section

variable {d : Dev} {p : Packet} {e : Outst}

/-- A row that reports a packet for this device delivers it. -/
theorem Dev.arriveAs_own {t : PacketType} (hd : p.dest = d.fab.id) (hp : p.type = t) : d.arriveAs t p = d.deliverPacket p := by
  rw [Dev.arriveAs, if_pos hp, Dev.arrive, if_pos hd]

theorem exec_reply_own {s : State} (hd : p.dest = s.dev.fab.id) (hp : p.type = .reply) :
    exec (.reply p) s = done s (s.dev.takeAnswer p) := by
  refine congrArg (done s) ?_
  rw [Dev.arriveAs_own hd hp, Dev.deliverPacket, hp]

theorem exec_readResp_own {s : State} (hd : p.dest = s.dev.fab.id) (hp : p.type = .readResp) :
    exec (.readResp p) s = done s (s.dev.takeAnswer p) := by
  refine congrArg (done s) ?_
  rw [Dev.arriveAs_own hd hp, Dev.deliverPacket, hp]

theorem answerFits_readResp {q : Packet} (hp : p.type = .readResp) (hq : q.type = .read) (hl : p.len = q.len) :
    answerFits q p = true := by
  simp [answerFits, hp, hq, hl]

theorem answerFits_reply {q : Packet} (hp : p.type = .reply) (h : q.type = .read → p.status ≠ stOk) : answerFits q p = true := by
  by_cases read : q.type = .read
  · simp [answerFits, hp, h read]
  · simp [answerFits, hp, read]

theorem Dev.disown_of_none {f : Owner → Bool} (h : ∀ x ∈ d.fab.entries, f x.2.owner = false) : d.disown f = d := by
  have same : d.fab.entries.map (fun x => if f x.2.owner then (x.1, { x.2 with discard := true, waitUntil := none }) else x)
      = d.fab.entries :=
    (List.map_congr_left fun x hx => if_neg (by simp [h x hx])).trans (List.map_id d.fab.entries)
  rw [Dev.disown, same]

theorem Dev.takeAnswer_of_no_entry (h : ∀ x ∈ d.fab.entries, x.1 ≠ p.tag) : d.takeAnswer p = d := by
  have unknown : d.fab.entries.find? (fun x => x.1 == p.tag) = none := by simpa using h
  rw [Dev.takeAnswer, unknown]

/-- The unit of a request has answered: what its GEN and INC are is learnt, and the request's entry is closed. -/
def Dev.answerSeen (d : Dev) (q p : Packet) : Dev := (d.learn q.dest q.unit p.gen p.inc).closeEntry p.tag

/-- What the cache holds of a unit just learnt is what was learnt of it. -/
theorem Dev.answerSeen_cached (q : Packet) : (d.answerSeen q p).cached q.dest q.unit = some (p.gen, p.inc) := by
  simp [Dev.answerSeen, Dev.cached, Dev.closeEntry, Dev.learn]

section

variable (entry : d.fab.entries = [(p.tag, e)]) (use : e.useCount = p.useCount) (fits : answerFits e.packet p = true)
include entry use fits

/-- An answer to the one entry there is, whose owner is gone. -/
theorem Dev.takeAnswer_of_discard (gone : e.discard = true) :
    ∃ r, d.takeAnswer p = r ∧ r = { d with fab := r.fab } ∧ r.fab.entries = []
      ∧ r.cached e.packet.dest e.packet.unit = some (p.gen, p.inc) := by
  refine ⟨(d.disown (· == .query p.tag)).answerSeen e.packet p, ?_, rfl, ?_, Dev.answerSeen_cached _⟩
  · simp [Dev.takeAnswer, entry, use, fits, gone, Dev.answerSeen]
  · rw [Dev.answerSeen, Dev.closeEntry, Dev.learn, Dev.disown]
    dsimp only
    rw [entry]
    simp only [List.map_cons, List.map_nil]
    split <;> simp [eraseKey]

variable (live : e.discard = false) (fresh : d.cached e.packet.dest e.packet.unit = none)
include live fresh

/-- The data of a read go to the command that fetches. -/
theorem Dev.takeAnswer_of_fetch {c : Fin 16} {seq : W32} {bs : List Byte} (hp : p.type = .readResp) (own : e.owner = .fetch c seq)
    (data : responseData p = some bs) :
    d.takeAnswer p = (d.answerSeen e.packet p).modCmd c seq fun k => { k with fetched := k.fetched ++ [(ackKey e.packet, bs)] } := by
  have kept : d.disown (· == .query p.tag) = d := Dev.disown_of_none (by simp [entry, own])
  simp [Dev.takeAnswer, entry, use, fits, kept, live, Dev.learntSince, fresh, hp, data, Dev.finalAnswer, own, Dev.answerSeen]

/-- The acknowledgement of a write goes to the culvert's piece. -/
theorem Dev.takeAnswer_of_culvert {inst : Nat} {c : Fin 16} {seq : W32} {idx : Nat} (hp : p.type = .reply)
    (own : e.owner = .culvert inst c seq idx) (ok : p.status = stOk) :
    d.takeAnswer p = (d.answerSeen e.packet p).modPiece c seq idx fun u =>
      { u with rx := u.rx ++ [(ackKey e.packet, [])], still := 0 } := by
  have kept : d.disown (· == .query p.tag) = d := Dev.disown_of_none (by simp [entry, own])
  simp [Dev.takeAnswer, entry, use, fits, kept, live, Dev.learntSince, fresh, hp, ok, Dev.finalAnswer, own, Dev.answerSeen,
    stOk, stInService, stStale, stBusy]

end

end

/-! ## Timers (R274, R278, R303) -/

section

variable {d : Dev} {i : Nat} {e : Outst} (entry : d.fab.entries.find? (fun x => x.1 == i) = some (i, e))
include entry

theorem Dev.timerExpiry_early (early : d.now < e.issuedAt + d.fab.reqUs * 1000) : d.timerExpiry i = d := by
  simp [Dev.timerExpiry, entry, Dev.passed, usNs, Nat.not_le.2 early]

theorem Dev.timerExpiry_discard (due : e.issuedAt + d.fab.reqUs * 1000 ≤ d.now) (idle : e.waitUntil = none)
    (gone : e.discard = true) : d.timerExpiry i = d.closeEntry i := by
  simp [Dev.timerExpiry, entry, Dev.passed, usNs, due, idle, gone]

/-- The timer of a fetch asks the unit for its generation. -/
theorem Dev.timerExpiry_fetch {c : Fin 16} {seq : W32} (due : e.issuedAt + d.fab.reqUs * 1000 ≤ d.now) (idle : e.waitUntil = none)
    (live : e.discard = false) (own : e.owner = .fetch c seq) : d.timerExpiry i = d.askGeneration i e := by
  simp [Dev.timerExpiry, entry, Dev.passed, usNs, due, idle, live, own]

theorem Dev.reissueOrEnd_of_reachable (way : d.judgeRemote e.packet.dest = stOk) : d.reissueOrEnd i = d.reissue i := by
  simp [Dev.reissueOrEnd, entry, way]

theorem Dev.backoffOver_idle (why : Nat) (idle : e.waitUntil = none) : d.backoffOver i why = d := by
  simp [Dev.backoffOver, entry, idle]

theorem Dev.backoffOver_due {t why : Nat} (wait : e.waitUntil = some t) (due : t ≤ d.now) (reason : e.waitFor = why)
    (live : e.discard = false) (way : d.judgeRemote e.packet.dest = stOk) : d.backoffOver i why = d.reissue i := by
  simp [Dev.backoffOver, entry, wait, due, reason, live, d.reissueOrEnd_of_reachable entry way]

theorem Dev.beforeDeadline_of_job {c : Fin 16} {job chunk piece : Nat} {j : Job} (own : e.owner = .piece c job chunk piece)
    (record : d.job? c job = some j) (early : d.now < j.deadlineAt) : d.beforeDeadline i = true := by
  simp [Dev.beforeDeadline, entry, own, record, early]

end

/-- A privileged class finds the same entry free after a change of a live one. -/
theorem Dev.freeEntry_modEntry (d : Dev) (i : Nat) (f : Outst → Outst) {tc : Nat} (h : privileged tc = true) :
    (d.modEntry i f).freeEntry tc = d.freeEntry tc := by
  have key (x : Nat × Outst) : (if x.1 = i then (i, f x.2) else x).1 = x.1 := by split <;> simp_all
  simp [Dev.freeEntry, Dev.modEntry, h, List.all_map, Function.comp_def, key]

/-- The query for an entry that has none out goes to its unit, in TC7, in the entry that is free (R278). -/
theorem Dev.askGeneration_asks {d : Dev} {i j : Nat} {e : Outst} (unasked : ∀ q ∈ d.fab.entries, q.2.owner ≠ .query i)
    (way : d.judgeRemote e.packet.dest = stOk) (free : d.freeEntry 7 = some j) :
    ∃ q, (d.askGeneration i e).fab.entries.find? (fun x => x.1 == j) = some (j, q) ∧ q.owner = .query i
      ∧ q.packet.type = .genQuery ∧ q.packet.tc = 7 ∧ q.packet.dest = e.packet.dest ∧ q.packet.unit = e.packet.unit := by
  unfold Dev.askGeneration
  extract_lets ref noted out
  have quiet : out = false := List.any_eq_false.2 fun x hx => by
    obtain ⟨y, hy, rfl⟩ := List.mem_map.1 hx
    have owner : (if y.1 = i then (i, { y.2 with reference := ref }) else y).2.owner = y.2.owner := by split <;> rfl
    simp [owner, unasked y hy]
  have way' : ¬ noted.judgeRemote e.packet.dest ≠ stOk := fun refused => refused way
  have free' : noted.freeEntry 7 = some j := (d.freeEntry_modEntry i _ rfl).trans free
  rw [quiet, if_neg Bool.false_ne_true, if_neg way']
  obtain ⟨r, q, sent, -, held, fields⟩ := Dev.request_of_freeEntry (d := noted) (owner := .query i)
    (p := { emptyPacket with type := .genQuery, tc := 7, unit := e.packet.unit, dest := e.packet.dest }) free'
  rw [sent]
  exact ⟨q, held, fields⟩

/-- Settles O22: an answer is taken by the outstanding table, whose one entry for it decides; a timer and a back-off look at their
entry's times, and the query that an expired timer makes takes the free entry. -/
theorem answersAndTimersOfRequests : Obligations.AnswersAndTimersOfRequests := by
  unfold Obligations.AnswersAndTimersOfRequests
  refine fun s => ⟨?_, ?_, ?_, ?_⟩
  · intro p hd unknown
    have discarded := congrArg (done s) (Dev.takeAnswer_of_no_entry unknown)
    exact ⟨fun hp => (exec_reply_own hd hp).trans discarded, fun hp => (exec_readResp_own hd hp).trans discarded⟩
  · intro p e hd entry gone use hq
    refine ⟨fun hp hl => ?_, fun hp bad => ?_⟩
    · obtain ⟨r, run, closed⟩ := Dev.takeAnswer_of_discard entry use (answerFits_readResp hp hq hl) gone
      exact ⟨r, (exec_readResp_own hd hp).trans (congrArg (done s) run), closed⟩
    · obtain ⟨r, run, closed⟩ := Dev.takeAnswer_of_discard entry use (answerFits_reply hp fun _ => bad) gone
      exact ⟨r, (exec_reply_own hd hp).trans (congrArg (done s) run), closed⟩
  · intro p e hd entry live use fresh
    refine ⟨fun c seq bs hp hq hl own data => ?_, fun inst c seq idx hp hq ok own => ?_⟩
    · have fits := answerFits_readResp hp hq hl
      exact (exec_readResp_own hd hp).trans (congrArg (done s) (Dev.takeAnswer_of_fetch entry use fits live fresh hp own data))
    · have fits := answerFits_reply hp fun read => absurd (hq.symm.trans read) (by decide)
      exact (exec_reply_own hd hp).trans (congrArg (done s) (Dev.takeAnswer_of_culvert entry use fits live fresh hp own ok))
  · intro i e entry
    refine ⟨fun early => ?_, fun due idle gone => ?_, fun c seq j due idle live own unasked way free => ?_,
      fun t wait due reason live way => ?_, fun t c job chunk piece j wait due reason live own record early way => ?_,
      fun idle => ⟨?_, ?_⟩⟩
    · exact congrArg (done s) (Dev.timerExpiry_early entry early)
    · exact congrArg (done s) (Dev.timerExpiry_discard entry due idle gone)
    · obtain ⟨q, held, fields⟩ := Dev.askGeneration_asks unasked way free
      exact ⟨_, q, congrArg (done s) (Dev.timerExpiry_fetch entry due idle live own), held, fields⟩
    · exact congrArg (done s) (Dev.backoffOver_due entry wait due reason live way)
    · have before := Dev.beforeDeadline_of_job entry own record early
      exact congrArg (done s) ((if_pos before).trans (Dev.backoffOver_due entry wait due reason live way))
    · exact congrArg (done s) (Dev.backoffOver_idle entry 1 idle)
    · refine congrArg (done s) (a₂ := s.dev) ?_
      rw [Dev.backoffOver_idle entry 2 idle, ite_self]

end Sys2Proof.Machine
end

section
/-! # The turnout: transmission, messages and freezing (R331 to R334) -/

namespace Sys2Proof.Machine

open Sys2Proof

/-- A fold over the numbers below `n` of steps of which only that of `i` does anything. -/
theorem foldl_range_single {α : Type} {f : α → Nat → α} {a : α} {i n : Nat} (hi : i < n)
    (before : ∀ j, j ≠ i → f a j = a) (after : ∀ j, j ≠ i → f (f a i) j = f a i) : (List.range n).foldl f a = f a i := by
  have upto : (List.range n).foldl f a = if i < n then f a i else a := by
    clear hi
    induction n with
    | zero => rfl
    | succ n ih =>
      rw [List.range_succ, List.foldl_append, ih, List.foldl_cons, List.foldl_nil]
      obtain lt | rfl | gt := Nat.lt_trichotomy i n
      · rw [if_pos lt, if_pos (by omega), after n (by omega)]
      · rw [if_neg (by omega), if_pos (by omega)]
      · rw [if_neg (by omega), if_neg (by omega), before n (by omega)]
  rw [upto, if_pos hi]

theorem EventsOnly.trn {d e : Dev} (h : EventsOnly d e) : e.trn = d.trn := by rw [h.1]

/-! ## Enrolments -/

theorem Dev.enrol?_handle {d : Dev} {h : Nat} {e : Enrol} (enrolled : d.enrol? h = some e) : e.handle = h := by
  simpa using List.find?_some enrolled

theorem Dev.enrol?_congr {d e : Dev} (same : e.trn.enrols = d.trn.enrols) (h : Nat) : e.enrol? h = d.enrol? h := by
  rw [Dev.enrol?, same, Dev.enrol?]

theorem Dev.enrol?_modEnrol (d : Dev) (h : Nat) {f : Enrol → Enrol} (keep : ∀ e, (f e).handle = e.handle) :
    (d.modEnrol h f).enrol? h = (d.enrol? h).map f := by
  have handle (e : Enrol) : (if e.handle = h then f e else e).handle = e.handle := by split <;> simp [keep]
  have found : (d.modEnrol h f).enrol? h = (d.enrol? h).map fun e => if e.handle = h then f e else e := by
    simp only [Dev.modEnrol, Dev.enrol?, List.find?_map, Function.comp_def, handle]
  rw [found]
  cases enrolled : d.enrol? h with
  | none => rfl
  | some e => simp [Dev.enrol?_handle enrolled]

/-- A change of partner `i` of an enrolled shard changes that partner alone. -/
theorem Dev.enrol?_modPartner {d : Dev} {h i : Nat} {e : Enrol} {p : Partner} (f : Partner → Partner)
    (enrolled : d.enrol? h = some e) (partner : e.partners[i]? = some p) :
    ∃ e', (d.modPartner h i f).enrol? h = some e' ∧ e'.partners[i]? = some (f p)
      ∧ ∀ j, j ≠ i → e'.partners[j]? = e.partners[j]? := by
  refine ⟨{ e with partners := modifyAt i f e.partners }, ?_, ?_, fun j other => ?_⟩
  · simp [Dev.modPartner, Dev.enrol?_modEnrol, enrolled]
  · simp [modifyAt, partner]
  · simp [modifyAt, Ne.symm other]

theorem Dev.turnoutMessage_enrols (d : Dev) (p : Partner) (spec round : Nat) (check : W64) :
    (d.turnoutMessage p spec round check).trn.enrols = d.trn.enrols := by
  rw [Dev.turnoutMessage, (Dev.sendMsg_only _ _ _ _ _ _ _).trn]

/-! ## Transmission (R331) -/

/-- A partner that has no round to send is left as it is. -/
theorem Dev.pushPartner_idle {d : Dev} {h i : Nat}
    (idle : ∀ e p, d.enrol? h = some e → e.partners[i]? = some p → p.sending = []) : d.pushPartner h i = d := by
  unfold Dev.pushPartner
  split
  next e x enrolled _ =>
    split
    · rfl
    next p partner => rw [idle e p enrolled partner]
  · rfl

/-- TRANSMIT_DELTA with one partner that has a round to send. -/
theorem exec_transmitDelta_of_partner {s : State} {h : W16} {e e' : Enrol} {i : Nat} {p : Partner}
    (enrolled : s.dev.enrol? h.toNat = some e) (partner : e.partners[i]? = some p)
    (others : ∀ j q, j ≠ i → e.partners[j]? = some q → q.sending = [])
    (enrolled' : (s.dev.pushPartner h.toNat i).enrol? h.toNat = some e')
    (same : ∀ j, j ≠ i → e'.partners[j]? = e.partners[j]?) :
    exec (.transmitDelta h) s = .next { s with dev := s.dev.pushPartner h.toNat i } := by
  have count : ((s.dev.enrol? h.toNat).map (·.partners.length)).getD 0 = e.partners.length := by rw [enrolled]; rfl
  obtain ⟨within, -⟩ := List.getElem?_eq_some_iff.1 partner
  have before (j) (other : j ≠ i) : s.dev.pushPartner h.toNat j = s.dev := Dev.pushPartner_idle fun e₁ q h₁ hq => by
    obtain rfl := Option.some.inj (enrolled.symm.trans h₁)
    exact others j q other hq
  have after (j) (other : j ≠ i) : (s.dev.pushPartner h.toNat i).pushPartner h.toNat j = s.dev.pushPartner h.toNat i :=
    Dev.pushPartner_idle fun e₁ q h₁ hq => by
      obtain rfl := Option.some.inj (enrolled'.symm.trans h₁)
      exact others j q other ((same j other).symm.trans hq)
  refine congrArg (done s) ?_
  rw [count]
  exact foldl_range_single (f := fun d j => Dev.pushPartner d h.toNat j) within before after

section

variable {d : Dev} {h i k : Nat} {e : Enrol} {x : Shard} {p : Partner} {rest : List Nat} (enrolled : d.enrol? h = some e)
  (shard : d.shard? h = some x) (partner : e.partners[i]? = some p) (next : p.sending = k :: rest)
  (free : d.bufferFree x.ctx p k = true)
include enrolled shard partner next free

/-- Every WRITE is answered: DONE goes out and the partner's next round is up. -/
theorem Dev.pushPartner_sent (sent : d.deltaSent x p k = true) :
    d.pushPartner h i = (d.modPartner h i fun q => { q with sending := rest, acked := [] }).turnoutMessage p 1 k x.coordCheck := by
  simp [Dev.pushPartner, enrolled, shard, partner, next, free, sent]

/-- A delta of one WRITE, whose bytes can be read and which is neither answered nor on its way, goes out, or waits where R25 refuses
it. -/
theorem Dev.pushPartner_write {w : Nat × Nat} {q : Packet} {src : Nat} (cuts : d.deltaCuts x p k = [w]) (acked : p.acked = [])
    (entries : d.fab.entries = [])
    (hsrc : src = e.plane x.size (d.staleOf x.ctx) 7 + (w.1 - p.buffer (d.staleOf x.ctx) x.size k))
    (ranges : freeRanges d [(src, w.2)]) (clean : d.mem.marked src w.2 = false)
    (packet : writePackets (fidOf p.recv) 0 w.1 (readCells d.mem.cells src w.2) = [q]) :
    d.pushPartner h i = if d.judgeRemote (fidOf p.recv) = stOk then (d.request (.delta h i k) q).getD d
      else (d.park (.delta h i k) q (d.now + msNs 1) 3).getD d := by
  have unsent : d.deltaSent x p k = false := by simp [Dev.deltaSent, cuts, acked]
  have write : d.pushPartner h i = d.deltaWrite h i k x e p w := by
    simp [Dev.pushPartner, enrolled, shard, partner, next, free, unsent, cuts]
  subst hsrc
  simp [write, Dev.deltaWrite, acked, entries, Dev.access_free d _ ranges, Dev.readBytes_unmarked d _ _ _ clean, packet]

end

/-- DELTA_WRITE_REISSUE of a WRITE that waits. -/
theorem exec_deltaWriteReissue_of_wait {s : State} {i t h n k : Nat} {e : Outst}
    (entry : s.dev.fab.entries.find? (fun q => q.1 == i) = some (i, e)) (own : e.owner = .delta h n k)
    (wait : e.waitUntil = some t) (reason : e.waitFor = 3) (live : e.discard = false) :
    exec (.deltaWriteReissue i) s = done s (if s.dev.now < t then s.dev
      else if s.dev.judgeRemote e.packet.dest = stOk then s.dev.reissue i
      else s.dev.deltaAnswer i e h n k (s.dev.judgeRemote e.packet.dest)) := by
  by_cases early : s.dev.now < t
  · simp [exec, execDeltaWriteReissue, entry, own, wait, early, Nat.not_le.2 early]
  · simp [exec, execDeltaWriteReissue, entry, own, wait, reason, live, early, Nat.not_lt.1 early]

/-! ## Messages (R332, R333) -/

/-- The record of messages with a device set. -/
def Dev.withPeer (d : Dev) (src : Nat) (r : TrnPeer) : Dev :=
  { d with trn := { d.trn with peers := insertKey src r d.trn.peers } }

@[simp] theorem Dev.withPeer_peer (d : Dev) (src : Nat) (r : TrnPeer) : (d.withPeer src r).peer src = r := by
  simp [Dev.withPeer, Dev.peer, find?_insertKey]

@[simp] theorem Dev.withPeer_withPeer (d : Dev) (src : Nat) (r t : TrnPeer) :
    (d.withPeer src r).withPeer src t = d.withPeer src t := by
  simp [Dev.withPeer, insertKey_insertKey]

/-- The message that is next in SEQ order from a device, of which none is held, has been taken. -/
def Dev.nextTaken (d : Dev) (src : Nat) : Dev :=
  d.withPeer src { d.peer src with expected := ((d.peer src).expected + 1) % 2 ^ 32 }

/-- The one message that is held from a device, which is the next, is taken. -/
theorem Dev.drainPeer_single {d : Dev} {src : Nat} (m : List Byte) (isDone : Bool) (held : (d.peer src).held = []) :
    Dev.drainPeer 1 src (d.withPeer src { d.peer src with held := [((d.peer src).expected, m, isDone)] })
      = if isDone then (d.nextTaken src).takeDone src m else (d.nextTaken src).takeRelease src m := by
  have taken : (d.withPeer src { d.peer src with held := [((d.peer src).expected, m, isDone)] }).withPeer src
      { d.peer src with expected := ((d.peer src).expected + 1) % 2 ^ 32, held := [] } = d.nextTaken src := by
    rw [Dev.withPeer_withPeer, Dev.nextTaken, ← held]
  rw [Dev.drainPeer, Dev.withPeer_peer]
  simp only [List.find?_cons, beq_self_eq_true, Dev.drainPeer]
  rw [← taken]
  simp [Dev.withPeer]

/-- The device of an enrolled shard's partner is one that the turnout has messages from. -/
theorem Dev.sender_of_partner {d : Dev} {h i src : Nat} {e : Enrol} (enrolled : d.enrol? h = some e)
    (place : e.partners.findIdx? (fun a => a.fid == src) = some i) :
    d.trn.enrols.all (fun e => e.partners.all fun q => q.fid != src) = false := by
  obtain ⟨within, fid, -⟩ := List.findIdx?_eq_some_iff_getElem.1 place
  simp only [List.all_eq_false]
  exact ⟨e, List.mem_of_find?_eq_some enrolled, by simpa using ⟨_, List.getElem_mem within, by simpa using fid⟩⟩

section

variable {s : State} {p : Packet} (hp : p.type = .msg) (tc : p.tc = 6) (hd : p.dest = s.dev.fab.id)
  (idle : s.dev.fab.service.toList.getD 2 false = false) (held : (s.dev.peer p.src).held = [])
  (next : fieldAt (p.data.take 36) 4 4 = (s.dev.peer p.src).expected)
  (sender : s.dev.trn.enrols.all (fun e => e.partners.all fun q => q.fid != p.src) = false)

include idle held next sender in
/-- A partner's message of a kind that the turnout knows, next in SEQ order, is taken at once. -/
theorem Dev.turnoutReceive_next (kind : bitsOf p.spec 0 8 = 1 ∨ bitsOf p.spec 0 8 = 2) :
    s.dev.turnoutReceive p = if bitsOf p.spec 0 8 = 1 then (s.dev.nextTaken p.src).takeDone p.src (p.data.take 36)
      else (s.dev.nextTaken p.src).takeRelease p.src (p.data.take 36) := by
  have kind' : ¬ (bitsOf p.spec 0 8 ≠ 1 ∧ bitsOf p.spec 0 8 ≠ 2) := by omega
  have single := Dev.drainPeer_single (p.data.take 36) (bitsOf p.spec 0 8 == 1) held
  unfold Dev.turnoutReceive
  extract_lets kind₀ m seq r known r'
  have fresh : known = false := by simp [known, r, seq, held, next, m]
  have queued : r' = { s.dev.peer p.src with held := [((s.dev.peer p.src).expected, m, kind₀ == 1)] } := by
    simp [r', r, held, seq, next, m]
  have serve : (s.dev.withPeer p.src r').serveTurnout p.src = Dev.drainPeer 1 p.src (s.dev.withPeer p.src r') := by
    have idle' : (s.dev.withPeer p.src r').fab.service.toList.getD 2 false = false := idle
    rw [Dev.serveTurnout, idle', Dev.withPeer_peer, queued]
    rfl
  refine (if_neg ?_).trans (serve.trans ?_)
  · simp [fresh, sender, kind₀, kind']
  · rw [queued, single]
    simp

include hp tc hd in
/-- A message for this device in the turnout's class goes to the turnout. -/
theorem Dev.arrive_turnout : s.dev.arrive p = s.dev.turnoutReceive p := by
  simp [Dev.arrive, Dev.deliverPacket, Dev.takeMsg, hp, tc, hd]

include hp tc hd idle held next sender

theorem exec_done_next (kind : bitsOf p.spec 0 8 = 1) :
    exec (.done p) s = done s ((s.dev.nextTaken p.src).takeDone p.src (p.data.take 36)) := by
  have row : isTurnout p 1 = true := by simp [isTurnout, hp, tc, kind]
  refine congrArg (done s) ((if_pos row).trans ?_)
  rw [Dev.arrive_turnout hp tc hd, Dev.turnoutReceive_next idle held next sender (.inl kind), if_pos kind]

theorem exec_release_next (kind : bitsOf p.spec 0 8 = 2) :
    exec (.release p) s = done s ((s.dev.nextTaken p.src).takeRelease p.src (p.data.take 36)) := by
  have row : isTurnout p 2 = true := by simp [isTurnout, hp, tc, kind]
  refine congrArg (done s) ((if_pos row).trans ?_)
  rw [Dev.arrive_turnout hp tc hd, Dev.turnoutReceive_next idle held next sender (.inr kind), if_neg (by omega)]

end

section

variable {d : Dev} {e : Enrol} {h i src : Nat} {m : List Byte} {q : Partner} (handle : fieldAt m 8 2 = h)
  (enrolled : d.enrol? h = some e) (place : e.partners.findIdx? (fun a => a.fid == src) = some i) (partner : e.partners[i]? = some q)
include handle enrolled place partner

/-- A DONE of the shard as it stands here, of a round not seen before that a freeze to come may still take: the delta counts. -/
theorem Dev.takeDone_counts {x : Shard} (shard : d.shard? h = some x) (coord : fieldAt m 12 8 = x.coordCheck.toNat)
    (first : e.firstRound ≤ fieldAt m 0 4) (unseen : fieldAt m 0 4 ∉ q.seen)
    (ahead : ∀ a, e.lastFrozen = some a → a < fieldAt m 0 4 + d.staleOf x.ctx) :
    d.takeDone src m = (d.modPartner h i fun q => { q with seen := fieldAt m 0 4 :: q.seen }).modPartner h i fun q =>
      { q with deltas := insertAsc (fieldAt m 0 4) q.deltas } := by
  have known : e.partners.getD i { fid := 0, ctx := 0, handle := 0, recv := 0 } = q := by simp [List.getD, partner]
  have soon : ¬ (fieldAt m 0 4 < e.firstRound ∨ fieldAt m 0 4 ∈ q.seen) := by simp [first, unseen]
  simp only [Dev.takeDone, handle, shard, enrolled, coord, place, known]
  cases frozen : e.lastFrozen with
  | none => simp [soon]
  | some a => simp [soon, Nat.not_le.2 (ahead a frozen)]

/-- A RELEASE frees the partner's buffer of its round; with no round to send nothing follows. -/
theorem Dev.takeRelease_frees (idle : q.sending = []) :
    d.takeRelease src m = d.modPartner h i fun q => { q with released := max q.released (fieldAt m 0 4 + 1) } := by
  obtain ⟨e', enrolled', partner', -⟩ :=
    Dev.enrol?_modPartner (fun q => { q with released := max q.released (fieldAt m 0 4 + 1) }) enrolled partner
  simp only [Dev.takeRelease, handle, enrolled, place]
  refine Dev.pushPartner_idle fun e₁ q₁ h₁ hq₁ => ?_
  obtain rfl := Option.some.inj (enrolled'.symm.trans h₁)
  obtain rfl := Option.some.inj (partner'.symm.trans hq₁)
  exact idle

end

/-! ## Freezing (R334) -/

/-- An enrolment whose set of round `k` is frozen. -/
def Enrol.freeze (e : Enrol) (k : Nat) (set : List (Nat × Nat × Nat × W32)) : Enrol :=
  { e with
    lastFrozen := some k, frozenSet := some (k, set)
    partners := e.partners.map fun p => { p with deltas := p.deltas.filter fun r => !decide (r ≤ k) } }

/-- What a freeze records, before its events. -/
def Dev.frozen (d : Dev) (c : Fin 16) (e : Enrol) (k : Nat) : Dev :=
  let set := d.contributions c e k
  let on := (set.filter fun q => q.1 == k).map (·.2.1)
  let late := (set.filter fun q => q.1 != k).map (·.2.1)
  (d.modEnrol e.handle fun e => e.freeze k set).modTrn c fun t =>
    { t with missing := siteMask (e.sites.filter fun s => !on.contains s), late := siteMask late, isNew := true, round := k }

theorem Dev.freeze_only (d : Dev) (c : Fin 16) (e : Enrol) (k : Nat) : EventsOnly (d.frozen c e k) (d.freeze c e k) := by
  refine EventsOnly.trans ?_ (EventsOnly.fold _ (fun d q => d.event_only c 0 0x0035 0 _) _ _)
  split
  · exact .refl _
  · exact Dev.event_only _ _ _ _ _ _

/-- The enrolment and the registers that show a freeze. -/
theorem Dev.freeze_records {d : Dev} {h : Nat} {e : Enrol} (c : Fin 16) (k : Nat) (enrolled : d.enrol? h = some e) :
    ∃ e', (d.freeze c e k).enrol? h = some e' ∧ e'.lastFrozen = some k ∧ e'.frozenSet = some (k, d.contributions c e k)
      ∧ ((d.freeze c e k).trn.trns[c]).round = k ∧ ((d.freeze c e k).trn.trns[c]).isNew = true := by
  obtain rfl := Dev.enrol?_handle enrolled
  have trn := (d.freeze_only c e k).trn
  have marked : (d.frozen c e k).enrol? e.handle = _ :=
    d.enrol?_modEnrol e.handle (f := fun e₁ => e₁.freeze k (d.contributions c e k)) fun _ => rfl
  rw [enrolled] at marked
  rw [Dev.enrol?_congr (congrArg Turnout.enrols trn), trn]
  exact ⟨_, marked, rfl, rfl, by simp [Dev.frozen, Dev.modTrn], by simp [Dev.frozen, Dev.modTrn]⟩

theorem Dev.tryFreeze_waits {d : Dev} {h n : Nat} {k : Cmd} {e : Enrol} (pending : d.applyOf h = some (k, n))
    (enrolled : d.enrol? h = some e) (wait : d.mayFreeze e (outerHead k.args).round = false) : d.tryFreeze h = d := by
  simp [Dev.tryFreeze, pending, enrolled, wait]

theorem Dev.tryFreeze_freezes {d : Dev} {h n : Nat} {k : Cmd} {e : Enrol} (pending : d.applyOf h = some (k, n))
    (enrolled : d.enrol? h = some e) (fresh : e.frozenSet.map (·.1) ≠ some (outerHead k.args).round) (sent : e.sendDone = true)
    (ready : d.mayFreeze e (outerHead k.args).round = true) : d.tryFreeze h = d.freeze e.ctx e (outerHead k.args).round := by
  simp only [Dev.tryFreeze, pending, enrolled]
  exact if_neg (by simpa [sent, ready] using fresh)

/-- Settles O50: TRANSMIT_DELTA goes over the partners, of which one has a round to send; a message that is next in SEQ order is
taken at once and changes its partner's record alone; a freeze records its set, and the rest of it is events. -/
theorem theTurnoutSendsAndFreezes : Obligations.TheTurnoutSendsAndFreezes := by
  unfold Obligations.TheTurnoutSendsAndFreezes
  refine ⟨fun s => ⟨?_, ?_, ?_⟩, fun s => ⟨?_, ?_⟩⟩
  · intro h e x i p k rest enrolled shard partner next free others
    refine ⟨fun sent => ?_, fun w q cuts acked entries ranges clean packet => ?_⟩
    · obtain ⟨e', enrolled', -, same⟩ :=
        Dev.enrol?_modPartner (fun q => { q with sending := rest, acked := [] }) enrolled partner
      have push := Dev.pushPartner_sent enrolled shard partner next free sent
      rw [← push]
      refine exec_transmitDelta_of_partner enrolled partner others (e' := e') ?_ same
      rwa [push, Dev.enrol?_congr (Dev.turnoutMessage_enrols _ _ _ _ _)]
    · have push := Dev.pushPartner_write enrolled shard partner next free cuts acked entries rfl ranges clean packet
      have run (trn : (s.dev.pushPartner h.toNat i).trn = s.dev.trn) :=
        exec_transmitDelta_of_partner enrolled partner others
          ((Dev.enrol?_congr (congrArg Turnout.enrols trn) _).trans enrolled) fun _ _ => rfl
      refine ⟨fun way => ?_, fun refused => ?_⟩
      · rw [push, if_pos way] at run
        have frame := s.dev.request_getD_rest (.delta h.toNat i k) q
        exact ⟨_, run (by rw [frame]), rfl, by rw [frame], by rw [frame]⟩
      · rw [push, if_neg refused] at run
        have frame := s.dev.park_getD_rest (.delta h.toNat i k) q (s.dev.now + msNs 1) 3
        exact ⟨_, run (by rw [frame]), rfl, by rw [frame], by rw [frame]⟩
  · intro h absent
    simp [exec, execTransmitDelta, absent]
  · intro i e t h n k entry own wait reason live st
    have run := exec_deltaWriteReissue_of_wait entry own wait reason live
    refine ⟨fun due way => ?_, fun due refused => ?_, fun early => ?_⟩
    · rw [run, if_neg (Nat.not_lt.2 due), if_pos way]; rfl
    · rw [run, if_neg (Nat.not_lt.2 due), if_neg refused]; rfl
    · rw [run, if_pos early]; rfl
  · intro p e x i q hp tc hd m h r idle held next enrolled shard place partner
    have sender := Dev.sender_of_partner enrolled place
    have counted : (s.dev.nextTaken p.src).peer p.src = { r with expected := (r.expected + 1) % 2 ^ 32 } := s.dev.withPeer_peer _ _
    refine ⟨fun kind coord first unseen ahead => ?_, fun kind empty => ?_⟩
    · have take := Dev.takeDone_counts (d := s.dev.nextTaken p.src) rfl enrolled place partner shard coord first unseen ahead
      have run := (exec_done_next hp tc hd idle held next sender kind).trans (congrArg (done s) take)
      obtain ⟨e₁, enrolled₁, partner₁, -⟩ := Dev.enrol?_modPartner (d := s.dev.nextTaken p.src)
        (fun q => { q with seen := fieldAt m 0 4 :: q.seen }) enrolled partner
      obtain ⟨e₂, enrolled₂, partner₂, -⟩ :=
        Dev.enrol?_modPartner (fun q => { q with deltas := insertAsc (fieldAt m 0 4) q.deltas }) enrolled₁ partner₁
      exact ⟨_, e₂, _, run, rfl, enrolled₂, partner₂, rfl, rfl, congrArg TrnPeer.expected counted⟩
    · have take := Dev.takeRelease_frees (d := s.dev.nextTaken p.src) rfl enrolled place partner empty
      have run := (exec_release_next hp tc hd idle held next sender kind).trans (congrArg (done s) take)
      obtain ⟨e₁, enrolled₁, partner₁, -⟩ := Dev.enrol?_modPartner (d := s.dev.nextTaken p.src)
        (fun q => { q with released := max q.released (fieldAt m 0 4 + 1) }) enrolled partner
      exact ⟨_, e₁, _, run, rfl, enrolled₁, partner₁, rfl, rfl, congrArg TrnPeer.expected counted⟩
  · intro h k n e pending enrolled r
    refine ⟨fun fresh sent ready => ?_, fun wait => congrArg (done s) (Dev.tryFreeze_waits pending enrolled wait)⟩
    have events := s.dev.freeze_only e.ctx e r
    obtain ⟨e', enrolled', last, frozen, round, new⟩ := Dev.freeze_records e.ctx r enrolled
    exact ⟨_, e', congrArg (done s) (Dev.tryFreeze_freezes pending enrolled fresh sent ready), enrolled', last, frozen, round, new,
      events.upd, events.slcs⟩

end Sys2Proof.Machine
end

section
/-! # MAX and MIN of NaN and of signed zeros (R116)

Stages and reductions share `fpMax` and `fpMin`, which compare decoded values: a NaN compares with nothing, and two zeros of any
sign are not less than each other, so that the sign alone decides. -/

namespace Sys2Proof.Machine

open Sys2Proof

section
variable {mode : FpMode} {a b : W32}

/-! ## Decoded values -/

theorem decodeFp_of_isNan (mode : FpMode) (h : isNan a = true) : decodeFp mode a = .nan := by
  obtain ⟨exponent, fraction⟩ : bitsOf a.toNat 23 8 = 255 ∧ bitsOf a.toNat 0 23 ≠ 0 := by simpa [isNan, isNonFinite] using h
  unfold decodeFp
  dsimp only
  rw [if_pos exponent, if_neg fraction]

theorem decodeFp_posZero (mode : FpMode) : decodeFp mode 0#32 = .fin false 0 0 := rfl

/-- Minus zero is no subnormal word: it keeps its sign in DENYR too. -/
theorem decodeFp_negZero (mode : FpMode) : decodeFp mode 0x80000000#32 = .fin true 0 0 := rfl

theorem ltVal_of_nan {x y : Fp} (h : x = .nan ∨ y = .nan) : ltVal x y = none := by
  obtain rfl | rfl := h
  · rfl
  · cases x <;> rfl

theorem ltVal_zeros (s t : Bool) (e f : Int) : ltVal (.fin s 0 e) (.fin t 0 f) = some false := rfl

/-! ## MAX and MIN -/

theorem fpMax_of_isNan (mode : FpMode) (h : isNan a = true ∨ isNan b = true) : fpMax mode a b = nanR mode := by
  have unordered := ltVal_of_nan (h.imp (decodeFp_of_isNan mode) (decodeFp_of_isNan mode))
  simp only [fpMax, unordered]

theorem fpMin_of_isNan (mode : FpMode) (h : isNan a = true ∨ isNan b = true) : fpMin mode a b = nanR mode := by
  have unordered := ltVal_of_nan (h.imp (decodeFp_of_isNan mode) (decodeFp_of_isNan mode))
  simp only [fpMin, unordered]

/-- The greater of two zeros is negative only where both are. -/
theorem fpMax_of_zeros {s t : Bool} {e f : Int} (ha : decodeFp mode a = .fin s 0 e) (hb : decodeFp mode b = .fin t 0 f) :
    fpMax mode a b = ⟨withSign (s && t) 0, false⟩ := by
  simp only [fpMax, ha, hb, ltVal_zeros]
  cases s <;> rfl

/-- The lesser of two zeros is negative where either is. -/
theorem fpMin_of_zeros {s t : Bool} {e f : Int} (ha : decodeFp mode a = .fin s 0 e) (hb : decodeFp mode b = .fin t 0 f) :
    fpMin mode a b = ⟨withSign (s || t) 0, false⟩ := by
  simp only [fpMin, ha, hb, ltVal_zeros]
  cases s <;> rfl

end

/-- Settles O60: stages and reductions both come to `fpMax` and `fpMin`, at a NaN and at two zeros of different signs. -/
theorem maxAndMinOfNanAndZeros : Obligations.MaxAndMinOfNanAndZeros := by
  unfold Obligations.MaxAndMinOfNanAndZeros
  refine fun mode p a b c => ⟨fun nan => ?_, fun z y zeros => ?_⟩
  · have max := congrArg FpR.bits (fpMax_of_isNan mode nan)
    have min := congrArg FpR.bits (fpMin_of_isNan mode nan)
    exact ⟨max, min, fun _ _ => ⟨max, min⟩⟩
  · obtain ⟨s, left, right⟩ : ∃ s, decodeFp mode z = .fin s 0 0 ∧ decodeFp mode y = .fin (!s) 0 0 := by
      obtain ⟨rfl, rfl⟩ | ⟨rfl, rfl⟩ := zeros
      · exact ⟨false, decodeFp_posZero mode, decodeFp_negZero mode⟩
      · exact ⟨true, decodeFp_negZero mode, decodeFp_posZero mode⟩
    have max : (fpMax mode z y).bits = 0 := by rw [fpMax_of_zeros left right, Bool.and_not_self]; rfl
    have min : (fpMin mode z y).bits = 0x80000000#32 := by rw [fpMin_of_zeros left right, Bool.or_not_self]; rfl
    exact ⟨max, min, fun _ _ => ⟨max, min⟩⟩

end Sys2Proof.Machine
end

section
/-! # Commands on shards (R193 to R199, R223) -/

namespace Sys2Proof.Machine

open Sys2Proof

/-- A command that is taken and changes shards alone ends with its status, and its response stands at the front of the payload. -/
theorem Dev.submit_updates {d : Dev} {op : Nat} {p bs : List Byte} {f : Command} {u : Upd} {st : Nat} (taken : takes d op p)
    (run : f (d.offered op p) p = ({ d.offered op p with upd := u }, some { status := st, resp := bs })) :
    ∃ m o rest, d.submit op p f = { d with upd := u, mbx := m, out := o }
      ∧ ended { d with upd := u, mbx := m, out := o } st 0 ∧ m.payload = bs ++ rest := by
  have front : splice (d.offered op p).mbx.payload 0 bs = bs ++ (d.offered op p).mbx.payload.drop bs.length := by simp [splice]
  rw [Dev.submit_taken d op p f taken, run]
  dsimp only [Dev.answered, Dev.mbxEnd, Dev.respond]
  rw [front]
  split <;> exact ⟨_, _, _, rfl, ⟨rfl, rfl, rfl⟩, rfl⟩

/-! ## What each command does -/

section

variable {d : Dev} {p : List Byte} (context : fieldAt p 0 1 < 16)
include context

theorem cmdShardRegister_registers (ok : registerOkPayload p = true)
    (legal : (d.ctx (ctxOf p)).state = .opened ∨ (d.ctx (ctxOf p)).state = .holding) :
    let x := shardOfPayload p
    let h := fieldAt p 4 2
    d.shard? h = none → x.formOk = true → d.areaOk x.slot0 x.slotSize = true → d.areaOk x.slot1 x.slotSize = true →
    overlaps x.slot0 x.slotSize x.slot1 x.slotSize = false → unitOf x.slot0 = unitOf x.slot1 → d.upd.shards.length < 65536 →
    cmdShardRegister d p = (d.setShard h x, some { status := stOk, resp := toLe 8 x.slotSize }) := by
  intro x h fresh form area0 area1 apart home room
  unfold cmdShardRegister
  rw [ctxCommand_legal _ _ _ _ _ _ context ok (by obtain st | st := legal <;> simp [st])]
  simp [x, h, fresh, form, area0, area1, apart, home, Nat.not_le.2 room]

variable {x : Shard} (shard : d.shard? (fieldAt p 2 2) = some x) (own : x.ctx = ctxOf p) (reserved : zeroAt p 1 1 = true)

/-- The response to SHARD_QUERY (R223). -/
def queryResponse (d : Dev) (x : Shard) : List Byte :=
  layout 24 [(0, 1, x.state.code), (1, 1, packFields [(0, x.live), (1, bit (d.frozenShard x))]), (2, 2, x.home),
    (8, 8, x.step.toNat), (16, 8, x.slotSize)]

include shard own reserved

theorem cmdShardQuery_answers (legal : (d.ctx (ctxOf p)).state ≠ .closed) :
    cmdShardQuery d p = (d, some { status := stOk, resp := queryResponse d x }) := by
  have listed : notClosed.contains (d.ctx (ctxOf p)).state = true := by
    cases st : (d.ctx (ctxOf p)).state
    case closed => exact absurd st legal
    all_goals rfl
  unfold cmdShardQuery
  rw [ctxCommand_legal _ _ _ _ _ _ context reserved listed]
  simp [shard, own, queryResponse]

theorem cmdShardRelease_unenrolled
    (legal : (d.ctx (ctxOf p)).state = .opened ∨ (d.ctx (ctxOf p)).state = .holding ∨ (d.ctx (ctxOf p)).state = .faulted)
    (free : d.enrol? (fieldAt p 2 2) = none) :
    cmdShardRelease d p =
      if x.state = .staged || d.exporting (fieldAt p 2 2) || d.importing (fieldAt p 2 2) then ends d stBusy
      else ends { d with upd := { d.upd with shards := d.upd.shards.filter fun e => e.1 != fieldAt p 2 2 } } stOk := by
  unfold cmdShardRelease
  rw [ctxCommand_legal _ _ _ _ _ _ context reserved (by obtain st | st | st := legal <;> simp [st])]
  simp [shard, own, free]

end

/-! ## What a query answers -/

theorem ShardState.code_lt (st : ShardState) : st.code < 256 ^ 1 := by cases st <;> decide

theorem fieldAt_queryResponse_state (d : Dev) (x : Shard) (rest : List Byte) :
    fieldAt (queryResponse d x ++ rest) 0 1 = x.state.code :=
  leNat_toLe_of_lt (n := 1) x.state.code_lt

theorem fieldAt_queryResponse_step (d : Dev) (x : Shard) (rest : List Byte) :
    fieldAt (queryResponse d x ++ rest) 8 8 = x.step.toNat :=
  leNat_toLe_of_lt (n := 8) x.step.isLt

/-- Settles O34: each command, offered on a payload and in a state that it takes, changes the list of shards alone and ends. -/
theorem shardsAreRegisteredQueriedAndReleased : Obligations.ShardsAreRegisteredQueriedAndReleased := by
  unfold Obligations.ShardsAreRegisteredQueriedAndReleased
  intro s p context
  refine ⟨fun taken ok legal => ?_, fun x shard own reserved => ⟨fun taken legal => ?_, fun taken legal free => ?_⟩⟩
  · intro x h fresh form area0 area1 apart home room
    obtain ⟨m, o, rest, run, ends, payload⟩ := Dev.submit_updates taken
      (cmdShardRegister_registers (d := s.dev.offered 0xC040 p) context ok legal fresh form area0 area1 apart home room)
    have answer : m.payload.take 8 = toLe 8 x.slotSize := by rw [payload]; exact List.take_left' (toLe_length _ _)
    exact ⟨_, congrArg (done s) run, ends, rfl, rfl, rfl, rfl, rfl, answer⟩
  · obtain ⟨m, o, rest, run, ends, payload⟩ := Dev.submit_updates taken
      (cmdShardQuery_answers (d := s.dev.offered 0xC042 p) context shard own reserved legal)
    have state : fieldAt m.payload 0 1 = x.state.code := payload ▸ fieldAt_queryResponse_state _ x rest
    have step : fieldAt m.payload 8 8 = x.step.toNat := payload ▸ fieldAt_queryResponse_step _ x rest
    exact ⟨_, congrArg (done s) run, ends, rfl, rfl, state, step⟩
  · have released := cmdShardRelease_unenrolled (d := s.dev.offered 0xC041 p) context shard own reserved legal free
    refine ⟨fun staged => ?_, fun unstaged exporting importing => ?_⟩
    · obtain ⟨m, o, rest, run, ends, -⟩ := Dev.submit_updates taken (released.trans (if_pos (by simp [staged])))
      exact ⟨_, congrArg (done s) run, ends, rfl, rfl⟩
    · have exporting' : (s.dev.offered 0xC041 p).exporting (fieldAt p 2 2) = false := exporting
      have importing' : (s.dev.offered 0xC041 p).importing (fieldAt p 2 2) = false := importing
      obtain ⟨m, o, rest, run, ends, -⟩ := Dev.submit_updates taken
        (released.trans (if_neg (by simp [unstaged, exporting', importing'])))
      exact ⟨_, congrArg (done s) run, ends, rfl, rfl⟩

end Sys2Proof.Machine
end

section
/-! # The end of a running unit (R173, R183)

What settling the command of a unit changes, said once: nothing of the engines and the shards, and of the commands only that one, if
it is complete. `Dev.unitEnded_settle` serves every class of engine. -/

namespace Sys2Proof.Machine

open Sys2Proof

/-! ## Commands -/

theorem Ctx.cmd?_seq {x : Ctx} {seq : W32} {k : Cmd} (found : x.cmd? seq = some k) : k.entry.seq = seq := by
  simpa using List.find?_some found

/-- A change of a command's record that keeps its entry is found under the same SEQ. -/
theorem Ctx.cmd?_mapWhere (x : Ctx) (seq : W32) {f : Cmd → Cmd} (keep : ∀ k, (f k).entry = k.entry) :
    { x with cmds := mapWhere (fun k => k.entry.seq == seq) f x.cmds }.cmd? seq = (x.cmd? seq).map f := by
  have entry (k : Cmd) : (if (k.entry.seq == seq) = true then f k else k).entry = k.entry := by split <;> simp [keep]
  simp only [Ctx.cmd?, mapWhere, List.find?_map, Function.comp_def, entry]
  refine Option.map_congr fun k hk => ?_
  rw [if_pos (List.find?_some hk)]

/-! ## What leaves all work as it is -/

/-- Between `d` and `e` no engine, no shard, no command of a context and no LAST_SEQ has changed. -/
structure SameWork (d e : Dev) : Prop where
  engine : ∀ k i, e.engine k i = d.engine k i
  shards : e.upd.shards = d.upd.shards
  cmds : ∀ q, (e.ctx q).cmds = (d.ctx q).cmds
  lastSeq : ∀ q, (e.ctx q).lastSeq = (d.ctx q).lastSeq

theorem SameWork.refl (d : Dev) : SameWork d d := ⟨fun _ _ => rfl, rfl, fun _ => rfl, fun _ => rfl⟩

theorem SameWork.trans {d e f : Dev} (h : SameWork d e) (k : SameWork e f) : SameWork d f :=
  ⟨fun c i => (k.engine c i).trans (h.engine c i), k.shards.trans h.shards, fun q => (k.cmds q).trans (h.cmds q),
    fun q => (k.lastSeq q).trans (h.lastSeq q)⟩

theorem EventsOnly.sameWork {d e : Dev} (h : EventsOnly d e) : SameWork d e := by
  refine ⟨fun k i => ?_, congrArg Upd.shards h.upd, h.cmds, h.lastSeq⟩
  rw [h.1]
  rfl

section

variable (d : Dev) (c : Fin 16)

theorem Dev.noteSlow_rest :
    d.noteSlow c = { d with
      slcs := (d.noteSlow c).slcs
      upd := { d.upd with stallWaitMs := (d.noteSlow c).upd.stallWaitMs } } := by
  unfold Dev.noteSlow
  dsimp only
  split
  · rfl
  · split <;> rfl
  · rfl

theorem Dev.noteSlow_sameWork : SameWork d (d.noteSlow c) := by
  rw [d.noteSlow_rest c]
  exact ⟨fun _ _ => rfl, rfl, fun _ => rfl, fun _ => rfl⟩

theorem Dev.noteSlow_mem : (d.noteSlow c).mem = d.mem := by rw [d.noteSlow_rest c]

theorem Dev.noteSlow_ctx (q : Fin 16) : (d.noteSlow c).ctx q = d.ctx q := by rw [d.noteSlow_rest c]; rfl

theorem Dev.modCtx_sameWork {f : Ctx → Ctx} (cmds : (f (d.ctx c)).cmds = (d.ctx c).cmds)
    (last : (f (d.ctx c)).lastSeq = (d.ctx c).lastSeq) : SameWork d (d.modCtx c f) := by
  refine ⟨fun _ _ => rfl, rfl, fun q => ?_, fun q => ?_⟩ <;> rw [Dev.ctx_modCtx] <;> split
  next same => exact same ▸ cmds
  next => rfl
  next same => exact same ▸ last
  next => rfl

theorem Dev.holdIfQuiet_sameWork : SameWork d (d.holdIfQuiet c) := by
  unfold Dev.holdIfQuiet
  dsimp only
  split
  · exact (d.modCtx_sameWork c rfl rfl).trans (d.setState_only c .holding 2).sameWork
  · exact .refl d

theorem Dev.holdIfQuiet_of_not_pending (idle : (d.ctx c).holdPending = false) : d.holdIfQuiet c = d := by
  simp [Dev.holdIfQuiet, idle]

theorem Dev.notify_sameWork (k : Cmd) (status : Nat) : SameWork d (d.notify c k status) := by
  unfold Dev.notify
  split
  · exact (d.event_only _ _ _ _ _).sameWork
  · exact .refl d

theorem Dev.notify_silent {k : Cmd} (silent : k.entry.notify = false) (status : Nat) : d.notify c k status = d := by
  simp [Dev.notify, silent]

/-! ## A command that completes (R173, R175) -/

/-- The record of context `c` once its command `k` has completed. -/
def Ctx.retire (x : Ctx) (k : Cmd) : Ctx :=
  let y := { x with cmds := x.cmds.filter fun q => q.entry.seq != k.entry.seq, watchdogNs := 0 }.complete [k.entry.seq]
  if k.step.isNone then y.release [k.index] else y

theorem Ctx.retire_cmd? (x : Ctx) (k : Cmd) : (x.retire k).cmd? k.entry.seq = none := by
  unfold Ctx.retire
  dsimp only
  split <;> simp [Ctx.cmd?, Ctx.release, Ctx.complete]

theorem Ctx.retire_lastSeq (x : Ctx) (k : Cmd) : (x.retire k).lastSeq = (x.complete [k.entry.seq]).lastSeq := by
  unfold Ctx.retire
  dsimp only
  split <;> rfl

theorem Ctx.retire_holdPending (x : Ctx) (k : Cmd) : (x.retire k).holdPending = x.holdPending := by
  unfold Ctx.retire
  dsimp only
  split <;> rfl

/-- The block once command `k` has completed, before its event and what follows from it. -/
def Dev.retire (k : Cmd) : Dev :=
  let e := (d.measure c k fun m => m.ended k d.now).modCtx c fun x => x.retire k
  if k.entry.opcode = opStepEnd then e.modSlc c fun s => { s with stepEnded := true } else e

theorem Dev.finishCmd_of_cmd? {d : Dev} {c : Fin 16} {seq : W32} {k : Cmd} (found : (d.ctx c).cmd? seq = some k) :
    d.finishCmd c seq = (((d.retire c k).notify c k stOk).noteSlow c).holdIfQuiet c := by
  obtain rfl := Ctx.cmd?_seq found
  unfold Dev.finishCmd
  rw [found]
  rfl

/-- What a command's work counts in stands in the sluice's records. -/
theorem Dev.measure_rest (k : Cmd) (f : Meters → Meters) : d.measure c k f = { d with slcs := (d.measure c k f).slcs } := by
  unfold Dev.measure
  split
  · rfl
  · split <;> rfl

theorem Dev.retire_rest (k : Cmd) :
    d.retire c k = { d with slcs := (d.retire c k).slcs, ctxs := d.ctxs.set c ((d.ctx c).retire k) } := by
  unfold Dev.retire
  rw [d.measure_rest c k]
  dsimp only
  split <;> rfl

theorem Dev.retire_ctx (k : Cmd) : (d.retire c k).ctx c = (d.ctx c).retire k := by
  rw [d.retire_rest c k]
  simp [Dev.ctx]

theorem Dev.retire_mem (k : Cmd) : (d.retire c k).mem = d.mem := by rw [d.retire_rest c k]

theorem Dev.retire_upd (k : Cmd) : (d.retire c k).upd = d.upd := by rw [d.retire_rest c k]

theorem Dev.retire_engine (k : Cmd) (cls inst : Nat) : (d.retire c k).engine cls inst = d.engine cls inst := by
  rw [d.retire_rest c k]
  rfl

end

section

variable {d : Dev} {c : Fin 16} {seq : W32} {k : Cmd} (found : (d.ctx c).cmd? seq = some k)
include found

theorem Dev.finishCmd_sameWork : SameWork (d.retire c k) (d.finishCmd c seq) := by
  rw [Dev.finishCmd_of_cmd? found]
  exact ((Dev.notify_sameWork _ _ _ _).trans (Dev.noteSlow_sameWork _ _)).trans (Dev.holdIfQuiet_sameWork _ _)

/-- With neither an event of its own nor a hold to follow, a command's completion leaves memory as it is. -/
theorem Dev.finishCmd_mem (silent : k.entry.notify = false) (unheld : (d.ctx c).holdPending = false) :
    (d.finishCmd c seq).mem = d.mem := by
  have idle : (((d.retire c k).noteSlow c).ctx c).holdPending = false := by
    rw [Dev.noteSlow_ctx, Dev.retire_ctx, Ctx.retire_holdPending, unheld]
  rw [Dev.finishCmd_of_cmd? found, Dev.notify_silent _ _ silent, Dev.holdIfQuiet_of_not_pending _ _ idle, Dev.noteSlow_mem,
    Dev.retire_mem]

/-- A command that goes on as usual is settled once every unit of it is complete. -/
theorem Dev.settle_goingOn (going : goingOn k) : d.settle c seq = if k.allDone = true then d.finishCmd c seq else d := by
  obtain ⟨issued, failing, ended, withheld⟩ := going
  simp [Dev.settle, found, issued, failing, ended, withheld]

theorem Dev.settle_shards (going : goingOn k) : (d.settle c seq).upd.shards = d.upd.shards := by
  rw [Dev.settle_goingOn found going]
  split
  · exact (Dev.finishCmd_sameWork found).shards.trans (congrArg Upd.shards (d.retire_upd c k))
  · rfl

end

/-- Between `d` and `e` the running unit `u` of an engine has gone from it, its writes `ws` are made, and its command is `k` now. -/
structure UnitLeaves (d e : Dev) (cls inst : Nat) (u : UnitRef) (k : Cmd) (ws : List (Nat × List Byte)) : Prop where
  units : (e.engine cls inst).units.map (·.idx) = ((d.engine cls inst).units.drop 1).map (·.idx)
  mem : e.mem = stores d.mem ws
  cmd : (e.ctx u.ctx).cmd? u.seq = some k
  lastSeq : (e.ctx u.ctx).lastSeq = (d.ctx u.ctx).lastSeq
  doneSeqs : (e.ctx u.ctx).doneSeqs = (d.ctx u.ctx).doneSeqs
  holdPending : (e.ctx u.ctx).holdPending = (d.ctx u.ctx).holdPending

/-- A unit that has left its engine has ended once its command, which goes on as usual, is settled. -/
theorem Dev.unitEnded_settle {d e : Dev} {cls inst : Nat} {u : UnitRef} {k : Cmd} {ws : List (Nat × List Byte)}
    (leaves : UnitLeaves d e cls inst u k ws) (going : goingOn k) : unitEnded d (e.settle u.ctx u.seq) cls inst u k ws := by
  rw [Dev.settle_goingOn leaves.cmd going]
  split
  next complete =>
    have same := Dev.finishCmd_sameWork leaves.cmd
    refine ⟨?_, fun more => absurd complete (by simp [more]), fun _ => ⟨?_, ?_, fun silent unheld => ?_⟩⟩
    · rw [same.engine, Dev.retire_engine, leaves.units]
    · have gone := (e.ctx u.ctx).retire_cmd? k
      rw [← Dev.retire_ctx, Ctx.cmd?_seq leaves.cmd] at gone
      simpa only [Ctx.cmd?, same.cmds] using gone
    · rw [same.lastSeq, Dev.retire_ctx, Ctx.retire_lastSeq, Ctx.cmd?_seq leaves.cmd, Ctx.complete, leaves.lastSeq, leaves.doneSeqs]
      rfl
    · rw [Dev.finishCmd_mem leaves.cmd silent (leaves.holdPending.trans unheld), leaves.mem]
  next more => exact ⟨leaves.units, fun _ => ⟨leaves.mem, leaves.cmd, leaves.lastSeq⟩, fun complete => absurd complete more⟩

/-- A unit that has ended has ended whatever a slow-tier wait notes after it. -/
theorem unitEnded.noteSlow {d e : Dev} {cls inst : Nat} {u : UnitRef} {k : Cmd} {ws : List (Nat × List Byte)}
    (ends : unitEnded d e cls inst u k ws) (c : Fin 16) : unitEnded d (e.noteSlow c) cls inst u k ws := by
  rw [e.noteSlow_rest c]
  exact ends

end Sys2Proof.Machine
end

section
/-! # Update entries and the slow-tier stall (R198, R202 to R209) -/

namespace Sys2Proof.Machine

open Sys2Proof

/-! ## Writing to memory without errors (R139) -/

theorem cleanMemory.store {d : Dev} (clean : cleanMemory d) (a : Nat) (bs : List Byte) :
    cleanMemory { d with mem := d.mem.store a bs } := by
  obtain ⟨errs, hard, poison⟩ := clean
  simp [cleanMemory, Mem.store, errs, hard, poison]

/-- Where no granule has errors, damage or poison, every run of bytes is written. -/
theorem Dev.writeAll_clean {d : Dev} (clean : cleanMemory d) (ws : List (Nat × List Byte)) :
    d.writeAll ws = ({ d with mem := stores d.mem ws }, true) ∧ cleanMemory { d with mem := stores d.mem ws } := by
  unfold Dev.writeAll stores
  induction ws generalizing d with
  | nil => exact ⟨rfl, clean⟩
  | cons w ws ih =>
    rw [List.foldl_cons, List.foldl_cons, Dev.writeBytes_unmarked d _ _ (clean.marked _ _)]
    exact ih (clean.store _ _)

theorem stores_append (m : Mem) (ws vs : List (Nat × List Byte)) : stores m (ws ++ vs) = stores (stores m ws) vs :=
  List.foldl_append

/-! ## Shards and engines -/

theorem Dev.shard?_modShard (d : Dev) (h j : Nat) (f : Shard → Shard) :
    (d.modShard h f).shard? j = if j = h then (d.shard? h).map f else d.shard? j := by
  have key (e : Nat × Shard) : (if e.1 = h then (h, f e.2) else e).1 = e.1 := by split <;> simp_all
  have found : (d.modShard h f).shard? j
      = (d.upd.shards.find? fun e => e.1 == j).map fun e => (if e.1 = h then (h, f e.2) else e).2 := by
    simp only [Dev.modShard, Dev.shard?, List.find?_map, Function.comp_def, key, Option.map_map]
  rw [found, Dev.shard?, Dev.shard?]
  have handle {e} (he : (d.upd.shards.find? fun e => e.1 == j) = some e) : e.1 = j := by simpa using List.find?_some he
  split
  next same =>
    subst same
    rw [Option.map_map]
    exact Option.map_congr fun e he => by simp [handle he]
  next other => exact Option.map_congr fun e he => by simp [handle he, other]

theorem Dev.shard?_congr {d e : Dev} (same : e.upd.shards = d.upd.shards) (h : Nat) : e.shard? h = d.shard? h := by
  rw [Dev.shard?, same, Dev.shard?]

theorem Dev.engine_modEngine_ctl (d : Dev) (k : Fin 16) (f : Engine → Engine) :
    (d.modEngine 5 k.val f).engine 5 k.val = f (d.engine 5 k.val) := by
  simp [Dev.modEngine, Dev.engine, modVec, List.getD]

/-- The running unit of update engine `k` leaves it. -/
theorem Dev.popUnit_ctl_units (d : Dev) (k c : Fin 16) :
    ((d.popUnit 5 k.val c).engine 5 k.val).units.map (·.idx) = ((d.engine 5 k.val).units.drop 1).map (·.idx) := by
  have popped : (d.popUnit 5 k.val c).engine 5 k.val = _ := d.engine_modEngine_ctl k _
  rw [popped]
  refine List.ext_getElem (by simp) fun i _ _ => ?_
  simp only [List.getElem_map, List.getElem_mapIdx]
  split <;> rfl

theorem Dev.popUnit_ctx (d : Dev) (cls inst : Nat) (c : Fin 16) :
    (d.popUnit cls inst c).ctx c = { d.ctx c with watchdogNs := 0 } := by
  rw [Dev.popUnit, Dev.feed, Dev.ctx_modCtx_same, Dev.ctx, Dev.modEngine_ctxs]
  rfl

theorem Dev.entryAt_eq_some {d : Dev} {k : Nat} {u : UnitRef} {q : Cmd} (entry : d.entryAt k = some (u, q)) :
    (d.engine 5 k).units.head? = some u ∧ (d.ctx u.ctx).cmd? u.seq = some q := by
  unfold Dev.entryAt at entry
  split at entry
  · cases entry
  next v rest units =>
    obtain ⟨q', found, same⟩ := Option.map_eq_some_iff.1 entry
    cases same
    rw [units]
    exact ⟨rfl, found⟩

/-! ## An entry begins (R202, R218) -/

/-- The engine's running unit has begun. -/
def Engine.start (e : Engine) : Engine :=
  { e with units := e.units.mapIdx fun i v => if i = 0 then { v with began := true, still := 0 } else v }

theorem Engine.start_head? {e : Engine} {u : UnitRef} (head : e.units.head? = some u) :
    e.start.units.head? = some { u with began := true, still := 0 } := by
  obtain ⟨rest, units⟩ := List.head?_eq_some_iff.1 head
  simp [Engine.start, units]

theorem exec_updateEntryRun_of_ready {s : State} {e : Fin 16} {u : UnitRef} {q : Cmd} (entry : s.dev.entryAt e.val = some (u, q))
    (waiting : u.began = false) (inService : (s.dev.engine 5 e.val).service = false)
    (ready : s.dev.entryReady u.ctx q u.idx = true) :
    exec (.updateEntryRun e) s = done s (s.dev.modEngine 5 e.val Engine.start) := by
  simp only [exec, execUpdateEntryRun, entry, waiting, inService, ready]
  rfl

/-! ## An entry completes (R198, R207, R209) -/

/-- The shard of a completed entry of UPDATE (R198, R209). -/
def Shard.stagedBy (r : EntryResult) (x : Shard) : Shard :=
  { x with state := .staged, byImport := false, report := some (r.gradZero, r.noChange) }

/-- The block with an entry of UPDATE complete, before its command is settled. -/
def Dev.entryLeft (d : Dev) (e : Nat) (u : UnitRef) (q : Cmd) (r : EntryResult) : Dev :=
  ((d.popUnit 5 e u.ctx).modCmd u.ctx q.entry.seq fun k => k.unitDone u.idx).modShard (q.handle u.idx) (Shard.stagedBy r)

theorem Dev.finishEntry_update {q : Cmd} {r : EntryResult} (op : q.entry.opcode = opUpdate) (sats : r.sats = 0) (d : Dev) (e : Nat)
    (u : UnitRef) : d.finishEntry e u q r = ((d.entryLeft e u q r).settle u.ctx q.entry.seq).noteSlow u.ctx := by
  simp only [Dev.finishEntry, op, sats, Dev.noteUpdateOverflow, if_true]
  rfl

/-- What an entry writes: the staging slot, and the working copy at each destination (R207). -/
def Dev.entryWrites (d : Dev) (q : Cmd) (i : Nat) (x : Shard) (r : EntryResult) : List (Nat × List Byte) :=
  r.writes ++ (q.dests i).map fun a =>
    (localOf a, readCells (stores d.mem r.writes).cells (x.stageBase + x.planeOff 5) (x.planes.getD 5 0))

/-- An entry whose result stands and whose destinations all lie here writes them and completes. -/
theorem Dev.carryEntry_local {d : Dev} {e : Nat} {u : UnitRef} {q : Cmd} {x : Shard} {r : EntryResult} (clean : cleanMemory d)
    (shard : d.shard? (q.handle u.idx) = some x) (free : freeRanges d (d.entryRanges u.ctx q u.idx x))
    (result : d.entryResult u.ctx q u.idx x = (d, .ok r)) (own : ∀ a ∈ q.dests u.idx, d.isOwn a = true) :
    d.carryEntry e u q = { d with mem := stores d.mem (d.entryWrites q u.idx x r) }.finishEntry e u q r := by
  have ⟨_, unremoved, _⟩ := free
  obtain ⟨written, clean'⟩ := Dev.writeAll_clean clean r.writes
  have kept : (q.dests u.idx).filter (Dev.isOwn { d with mem := stores d.mem r.writes }) = q.dests u.idx :=
    List.filter_eq_self.2 own
  have sent (m : Mem) (wc : List Byte) : Dev.copyPackets { d with mem := m } wc (q.dests u.idx) = [] := by
    have none_remote : (q.dests u.idx).filter (fun a => !Dev.isOwn { d with mem := m } a) = [] :=
      List.filter_eq_nil_iff.2 fun a ha => by
        have here : Dev.isOwn { d with mem := m } a = true := own a ha
        simp [here]
    simp [Dev.copyPackets, none_remote]
  obtain ⟨copied, -⟩ := Dev.writeAll_clean clean' ((q.dests u.idx).map fun a =>
    (localOf a, readCells (stores d.mem r.writes).cells (x.stageBase + x.planeOff 5) (x.planes.getD 5 0)))
  simp only [Dev.carryEntry, shard, unremoved, Dev.accessBy_free d e _ free, result, written, Dev.localCopies, kept, copied, sent,
    Dev.entryWrites, stores_append]
  rfl

theorem exec_updateEntryComplete_of_began {s : State} {e : Fin 16} {u : UnitRef} {q : Cmd}
    (entry : s.dev.entryAt e.val = some (u, q)) (began : u.began = true) :
    exec (.updateEntryComplete e) s = done s (s.dev.carryEntry e.val u q) := by
  simp [exec, execUpdateEntryComplete, entry, began]

theorem Dev.entryLeft_ctx (d : Dev) (e : Nat) (u : UnitRef) (q : Cmd) (r : EntryResult) :
    (d.entryLeft e u q r).ctx u.ctx = { d.ctx u.ctx with
      watchdogNs := 0
      cmds := mapWhere (fun k => k.entry.seq == q.entry.seq) (fun k => k.unitDone u.idx) (d.ctx u.ctx).cmds } := by
  have marked : (d.entryLeft e u q r).ctx u.ctx
      = ((d.popUnit 5 e u.ctx).modCmd u.ctx q.entry.seq fun k => k.unitDone u.idx).ctx u.ctx := rfl
  rw [marked, Dev.modCmd, Dev.ctx_modCtx_same, Dev.popUnit_ctx]

/-- The unit of an entry that is complete has left its engine. -/
theorem Dev.entryLeft_leaves {d : Dev} {e : Fin 16} {u : UnitRef} {q : Cmd} (ws : List (Nat × List Byte)) (r : EntryResult)
    (cmd : (d.ctx u.ctx).cmd? u.seq = some q) :
    UnitLeaves d (Dev.entryLeft { d with mem := stores d.mem ws } e.val u q r) 5 e.val u (q.unitDone u.idx) ws := by
  have ctx := Dev.entryLeft_ctx { d with mem := stores d.mem ws } e.val u q r
  refine ⟨Dev.popUnit_ctl_units _ e u.ctx, rfl, ?_, ?_, ?_, ?_⟩ <;> rw [ctx]
  · rw [Ctx.cmd?_seq cmd]
    have found := (d.ctx u.ctx).cmd?_mapWhere u.seq (f := fun k => k.unitDone u.idx) fun _ => rfl
    rw [cmd] at found
    exact found
  all_goals rfl

theorem Dev.entryLeft_shard? (d : Dev) (e : Nat) (u : UnitRef) (q : Cmd) (r : EntryResult) (h : Nat) :
    (d.entryLeft e u q r).shard? h
      = if h = q.handle u.idx then (d.shard? (q.handle u.idx)).map (Shard.stagedBy r) else d.shard? h := by
  have upd : ((d.popUnit 5 e u.ctx).modCmd u.ctx q.entry.seq fun k => k.unitDone u.idx).upd.shards = d.upd.shards := by
    simp [Dev.modCmd, Dev.popUnit, Dev.feed]
  rw [Dev.entryLeft, Dev.shard?_modShard, Dev.shard?_congr upd, Dev.shard?_congr upd]

/-! ## The slow-tier stall (R206) -/

/-- What the report of a stall since `t` over the controllers in `mask` records. -/
def Dev.stallNoted (d : Dev) (c : Fin 16) (mask t : Nat) : Dev :=
  ({ d with upd := { d.upd with
      stallMask := mask, stallCtx := c.val, stallNew := true, stallWaitMs := satTo 0xFFFFFFFF ((d.now - t) / 1000000) } }).modSlc c
    fun s => { s with stallReported := true, meters := { s.meters with stalled := true, stallMask := s.meters.stallMask ||| mask } }

/-- A wait past the limit, not reported before, places its events and is recorded. -/
theorem Dev.slowStall_reports {d : Dev} {c : Fin 16} {t : Nat} (since : (d.slc c).slowSince = some t) (limit : d.upd.limitMs ≠ 0)
    (fresh : (d.slc c).stallReported = false) (late : t + msNs d.upd.limitMs < d.now) :
    ∃ e, EventsOnly d e ∧ d.slowStall c = e.stallNoted c (siteMask ((d.lateHomes c).map (· - 12))) t := by
  have events := EventsOnly.fold (fun d h => d.event c 0 0x000B 0 h) (fun d h => d.event_only _ _ _ _ _) (d.lateHomes c) d
  refine ⟨_, events, ?_⟩
  simp only [Dev.slowStall, since, limit, fresh, Nat.not_le.2 late]
  rfl

/-- Settles O39: an entry that may begin is started on its engine; one that completes writes its result and the local copies, and
its command is settled with the shard STAGED; a stall is recorded beside its events. -/
theorem updateEntriesStageTheirShards : Obligations.UpdateEntriesStageTheirShards := by
  unfold Obligations.UpdateEntriesStageTheirShards
  refine fun s => ⟨fun e u q entry => ⟨fun waiting inService ready => ?_, ?_⟩, fun c t since limit fresh late => ?_⟩
  · obtain ⟨head, -⟩ := Dev.entryAt_eq_some entry
    refine ⟨_, exec_updateEntryRun_of_ready entry waiting inService ready, rfl, ?_⟩
    rw [Dev.engine_modEngine_ctl]
    exact Engine.start_head? head
  · intro began going op clean x r shard free result sats own m wc
    obtain ⟨-, cmd⟩ := Dev.entryAt_eq_some entry
    have seq := Ctx.cmd?_seq cmd
    have going' : goingOn (q.unitDone u.idx) := going
    have leaves := Dev.entryLeft_leaves (d := s.dev) (e := e) (s.dev.entryWrites q u.idx x r) r cmd
    have run := Dev.carryEntry_local (e := e.val) clean shard free result own
    rw [Dev.finishEntry_update op sats, seq] at run
    have shards (h) : (s.dev.carryEntry e.val u q).shard? h
        = if h = q.handle u.idx then some (x.stagedBy r) else s.dev.shard? h := by
      rw [run, Dev.shard?_congr (Dev.noteSlow_sameWork _ _).shards, Dev.shard?_congr (Dev.settle_shards leaves.cmd going'),
        Dev.entryLeft_shard?]
      have staged : (Dev.shard? { s.dev with mem := stores s.dev.mem (s.dev.entryWrites q u.idx x r) } (q.handle u.idx)).map
          (Shard.stagedBy r) = some (x.stagedBy r) := congrArg (Option.map (Shard.stagedBy r)) shard
      rw [staged]
      rfl
    refine ⟨_, exec_updateEntryComplete_of_began entry began, ?_, ?_, fun h other => ?_⟩
    · rw [run]
      exact (Dev.unitEnded_settle leaves going').noteSlow _
    · rw [shards, if_pos rfl]
      rfl
    · rw [shards, if_neg other]
  · obtain ⟨e, events, run⟩ := Dev.slowStall_reports since limit fresh late
    refine ⟨_, congrArg (done s) run, ?_, rfl, rfl, rfl, congrArg (·.shards) events.upd, fun q other => ?_, events.fab⟩
    · rw [Dev.stallNoted, Dev.slc_modSlc_same]
    · rw [Dev.stallNoted, Dev.slc_modSlc_other _ _ _ _ other]
      exact congrArg (·[q]) events.slcs

end Sys2Proof.Machine
end
